-- ==== Sys2Proof/Word.lean ====
section
/-!
DEFINITION. The word types of the block and the sparse table type.
-/
namespace Sys2Proof

/-- One byte. -/
abbrev Byte := BitVec 8

/-- A 16-bit, 32-bit and 64-bit register or record word. -/
abbrev W16 := BitVec 16
abbrev W32 := BitVec 32
abbrev W64 := BitVec 64

/-- The 128-bit selvedge (tile tag) of R113. -/
abbrev Tag := BitVec 128

/-- A sparse table: entries by key, keys strictly rising, no entry equal to what an unlisted key reads as.
The default that an unlisted key reads as is an argument of every operation (Machine/Tab.lean). -/
abbrev Tab (α : Type) := List (Nat × α)

end Sys2Proof
end

