-- ==== Sys2Proof/Syntax.lean ====
section
/-!
DEFINITION. The commands of the block: one constructor per row of spec/opcode_table.json.
-/
namespace Sys2Proof

/-! Part numbers (R11): every number names a part that exists. -/
abbrev LoomId := Fin 1152
abbrev StallId := Fin 96
abbrev ClusterId := Fin 96
abbrev StackId := Fin 24
abbrev DieId := Fin 8
abbrev LinkId := Fin 96
abbrev LPortId := Fin 12
abbrev CelPortId := Fin 4
/-- PCIe function: 0 the physical function, s + 1 the virtual function of stall s (R21). -/
abbrev FnId := Fin 97
abbrev HopId := Fin 262144
abbrev SlotId := Fin 512

/-- A tally unit (R36 list of units): station instances are counted through their looms (R476). -/
inductive TUnit where
  | loom (l : LoomId)
  | shelf (k : DieId)
  | store (s : StackId)
  | ring (k : DieId)
  | port (p : LPortId)
  | cellar (p : CelPortId)
  | hopper
deriving DecidableEq, Repr

/-- BARs that an erroneous access can name (R445). -/
inductive Bar where
  | bar0 | bar2
deriving DecidableEq, Repr

/-- Bench ports, in the numbering of LOM_FAULT.PORT. -/
inductive Port where
  | feeders | warp | drain | fuller | picker | network
deriving DecidableEq, Repr

/-- What the error code of a Bench access found (R110): no error, a corrected single-bit error in a 64-bit word of the
slot, or an uncorrectable error in a line of the slot. -/
inductive Ecc where
  | clean
  | corrected (word : Fin 1024)
  | uncorrectable (line : Fin 128)
  | tagCorrected
  | tagUncorrectable
deriving DecidableEq, Repr

/-- Which plan a loader step concerns. -/
inductive PlanTarget where
  | device
  | stall (s : StallId)
deriving DecidableEq, Repr


/-- A regulator of R317 (a ring stop has one for each direction) or a link arbiter of R345. -/
inductive RegUnit where
  | store (s : StackId)
  | cellar (p : CelPortId)
  | shelf (k : DieId)
  | ring (k : DieId) (cw : Bool)
  | link (i : LinkId)
deriving DecidableEq, Repr

/-- What the Store controller's code found in a line (R321): nothing, errors it corrects, errors it detects as
uncorrectable, or errors that escape detection and leave these bytes. -/
inductive LineEcc where
  | clean
  | corrected
  | uncorrectable
  | escaped (data : List Byte)
deriving DecidableEq, Repr

/-- What a Shelf line's word codes found (R324). -/
inductive ShelfEcc where
  | clean
  | corrected
  | uncorrectable
deriving DecidableEq, Repr

/-- The reduction of a line reduce: RED of R144. -/
inductive RedOp where
  | sum | max | min
deriving DecidableEq, Repr

/-- The causes of a stall fault (R363): a loom's fault, loss of regulation, a held cluster core, a module fault. -/
inductive StallCause where
  | loom (l : LoomId)
  | regulation
  | coreHeld
  | moduleFault
deriving DecidableEq, Repr

/-- Whose tile an acknowledgement is of: a channel stream's, or one that a loom's XFER sent plus or minus. -/
inductive AckFrom where
  | chan (snd : LoomId) (port : Fin 16) (rcv : LoomId) (rport : Fin 16)
  | remote (l : LoomId) (minus : Bool)
deriving DecidableEq, Repr

/-- What a link receiver's decoding finds (R338): a codeword beyond correction, a CRC failure after the given number of
corrected symbols, or a good frame. -/
inductive FrameRx where
  | uncorrectable
  | crcFail (symbols : Nat)
  | good (symbols : Nat)
deriving DecidableEq, Repr


/-- The firmware processors, as PROC of R441 numbers them. -/
inductive Proc where
  | security | power | scheduler | management
  | cluster (c : ClusterId)
deriving DecidableEq, Repr

/-- What a crashed processor's dump holds of it (R441): MCAUSE, MEPC, MTVAL, MSTATUS and X1 to X31; the last 64
program-counter values at branches; 1,024 bytes of its stack. -/
structure CrashInfo where
  regs : List W32
  trace : List W32
  stack : List Byte
deriving DecidableEq, Repr

/-- A regulator domain (R391). -/
abbrev DomainId := Fin 129

/-- What the hardware finds of an emergency's condition (R436, R490): the hottest junction in tenths of a degree; the supply's
and the limiter's states, which the block holds; whether a domain is out of regulation; the coolant's inlet temperature in
tenths of a degree, its flow in tenths of a litre per minute, and LEAK_N low. -/
inductive EmergCond where
  | therm (t : Int)
  | supply
  | limit
  | reg (out : Bool)
  | cool (inlet : Int) (flow : Nat) (leak : Bool)
deriving DecidableEq, Repr

/-- The MCTP bindings (R458). -/
inductive Binding where
  | i3c | vdm
deriving DecidableEq, Repr

/-- MCTP control messages (R458): assignment of an endpoint ID by the bus owner, a query of it, any other by its code. -/
inductive MctpCtl where
  | setEid (e : Byte)
  | getEid
  | other (code : Byte)
deriving DecidableEq, Repr

/-- Instructions of the test access port (R472). -/
inductive Tap where
  | bypass | idcode | sample | extest
  | other (code : Byte)
deriving DecidableEq, Repr

/-- A mailbox of the meter (R419). -/
abbrev MbxId := Fin 2

/-- The commands of the block, one per row of the opcode table, in its order. -/
inductive Instr where
  /-- REGISTER_WRITE (R7) -/
  | registerWrite (fn : FnId) (off : BitVec 26) (eight : Bool) (v : W64)
  /-- BAR0_ACCESS_ERROR (R445) -/
  | bar0AccessError (fn : FnId) (bar : Bar) (write : Bool) (off : W32) (size : Nat)
  /-- ACC_ERR_CLEAR (R445) -/
  | accErrClear (fn : FnId) (mask : BitVec 3)
  /-- TALLY_REQUEST_PF (R45) -/
  | tallyRequestPf
  /-- TALLY_REQUEST_STALL (R45) -/
  | tallyRequestStall (st : StallId)
  /-- TALLY_INJECT (R45) -/
  | tallyInject (us : Nat)
  /-- TALLY_MARKER_ACCEPT (R40) -/
  | tallyMarkerAccept (u : TUnit) (inp : Option (LoomId × Fin 16 × Fin 16))
  /-- TALLY_REPORT (R47) -/
  | tallyReport (u : TUnit)
  /-- TALLY_ABANDON (R48) -/
  | tallyAbandon (us : Nat)
  /-- WEFT_BEAT_ACCEPT (R90) -/
  | weftBeatAccept (l : LoomId) (takes : List (Fin 64 × Fin 4))
  /-- BEAT_RETIRE (R93) -/
  | beatRetire (l : LoomId)
  /-- FEEDER_FILL (R95) -/
  | feederFill (l : LoomId) (q : Fin 4) (ecc : Ecc)
  /-- WARP_SHADOW_SWAP (R91) -/
  | warpShadowSwap (l : LoomId) (r : Fin 64) (q : Fin 4)
  /-- COLLECT_RESULT (R103) -/
  | collectResult (l : LoomId) (r : Fin 64)
  /-- CONVERT_TILE (R104) -/
  | convertTile (l : LoomId)
  /-- SLOT_CLAIM (R108) -/
  | slotClaim (l : LoomId) (port : Port) (slot : SlotId) (readers : Byte) (tag : Tag)
  /-- QUARTER_FILL (R108) -/
  | quarterFill (l : LoomId) (slot : SlotId) (q : Fin 4) (data : List Byte)
  /-- TILE_READ_COMPLETE (R108) -/
  | tileReadComplete (l : LoomId) (port : Port) (slot : SlotId) (ecc : Ecc)
  /-- BENCH_CE_WRITEBACK (R110) -/
  | benchCeWriteback (l : LoomId)
  /-- EXC_CLEAR (R119) -/
  | excClear (fn : FnId) (l : LoomId) (seq : Byte)
  /-- CCC_EXC_SERVICE (R120) -/
  | cccExcService (l : LoomId)
  /-- RUN_DISPATCH (R130) -/
  | runDispatch (st : StallId) (hop : HopId)
  /-- RUN_COMPLETE (R130) -/
  | runComplete (st : StallId) (n : LoomId)
  /-- COMPLETION_POST (R455) -/
  | completionPost (st : StallId) (n : LoomId)
  /-- LOOP (R129) -/
  | loopOpen (l : LoomId)
  /-- ENDLOOP (R129) -/
  | loopClose (l : LoomId)
  /-- END (R126) -/
  | endRun (l : LoomId)
  /-- MM (R136) -/
  | mm (l : LoomId)
  /-- FUL_COPY (R139) -/
  | fulCopy (l : LoomId)
  /-- FUL_SCALE (R139) -/
  | fulScale (l : LoomId)
  /-- FUL_BIAS (R139) -/
  | fulBias (l : LoomId)
  /-- FUL_RELU (R139) -/
  | fulRelu (l : LoomId)
  /-- FUL_GELU (R139) -/
  | fulGelu (l : LoomId)
  /-- FUL_SILU (R139) -/
  | fulSilu (l : LoomId)
  /-- FUL_SIGMOID (R139) -/
  | fulSigmoid (l : LoomId)
  /-- FUL_TANH (R139) -/
  | fulTanh (l : LoomId)
  /-- FUL_EXP (R139) -/
  | fulExp (l : LoomId)
  /-- FUL_SOFTMAX (R87) -/
  | fulSoftmax (l : LoomId)
  /-- FUL_RMSNORM (R139) -/
  | fulRmsnorm (l : LoomId)
  /-- FUL_LAYERNORM (R139) -/
  | fulLayernorm (l : LoomId)
  /-- FUL_MUL (R139) -/
  | fulMul (l : LoomId)
  /-- FUL_ADD (R139) -/
  | fulAdd (l : LoomId)
  /-- FUL_RSUM (R139) -/
  | fulRsum (l : LoomId)
  /-- FUL_RMAX (R139) -/
  | fulRmax (l : LoomId)
  /-- FUL_RSSQ (R139) -/
  | fulRssq (l : LoomId)
  /-- FUL_CSUM (R139) -/
  | fulCsum (l : LoomId)
  /-- FUL_CMAX (R139) -/
  | fulCmax (l : LoomId)
  /-- FUL_DROPOUT (R265) -/
  | fulDropout (l : LoomId)
  /-- FUL_GLU (R139) -/
  | fulGlu (l : LoomId)
  /-- FUL_TRANSPOSE (R139) -/
  | fulTranspose (l : LoomId)
  /-- CAST (R140) -/
  | cast (l : LoomId)
  /-- UPD (R142) -/
  | upd (l : LoomId)
  /-- UPD_APPLY (R282) -/
  | updApply (l : LoomId)
  /-- UPD_MEASURE (R286) -/
  | updMeasure (l : LoomId)
  /-- UPD_FETCH (R290) -/
  | updFetch (l : LoomId)
  /-- SPILL_REFILL (R295) -/
  | spillRefill (l : LoomId) (slot : SlotId)
  /-- ATT (R219) -/
  | att (l : LoomId)
  /-- PICK_GATHER (R155) -/
  | pickGather (l : LoomId)
  /-- PICK_SCATTER_ADD (R163) -/
  | pickScatterAdd (l : LoomId)
  /-- PICK_SEGMENT_REDUCE (R159) -/
  | pickSegmentReduce (l : LoomId)
  /-- PICK_DEDUPLICATE (R166) -/
  | pickDeduplicate (l : LoomId)
  /-- PICK_PAGE_WALK (R232) -/
  | pickPageWalk (l : LoomId)
  /-- PICK_LINE_ARRIVE (R157) -/
  | pickLineArrive (l : LoomId) (k : Nat)
  /-- PICK_OOB_CLEAR (R153) -/
  | pickOobClear (fn : FnId) (l : LoomId)
  /-- LINE_REDUCE (R164) -/
  | lineReduce (l : LoomId) (va : BitVec 52) (red : RedOp) (fp16 : Bool) (contrib : List W16 × LineEcc)
  /-- LINE_PARTIAL_WRITE (R258) -/
  | linePartialWrite (l : LoomId) (va : BitVec 52) (data : List Byte × LineEcc)
  /-- APX (R145) -/
  | apx (l : LoomId)
  /-- APX_COMBINE (R354) -/
  | apxCombine (l : LoomId)
  /-- XFER_SEND (R349) -/
  | xferSend (l : LoomId)
  /-- XFER_RECV (R349) -/
  | xferRecv (l : LoomId)
  /-- XFER_ALL_REDUCE (R349) -/
  | xferAllReduce (l : LoomId)
  /-- XFER_REDUCE_SCATTER (R349) -/
  | xferReduceScatter (l : LoomId)
  /-- XFER_ALL_GATHER (R349) -/
  | xferAllGather (l : LoomId)
  /-- XFER_BROADCAST (R349) -/
  | xferBroadcast (l : LoomId)
  /-- XFER_ALL_TO_ALL (R349) -/
  | xferAllToAll (l : LoomId)
  /-- TIER_FOLLOW (R329) -/
  | tierFollow (l : LoomId)
  /-- TIER_FETCH (R328) -/
  | tierFetch (l : LoomId)
  /-- TIER_WRITE_BACK (R328) -/
  | tierWriteBack (l : LoomId)
  /-- TIER_MIGRATE (R328) -/
  | tierMigrate (l : LoomId)
  /-- ROUTE_ENTRY_START (R331) -/
  | routeEntryStart (l : LoomId)
  /-- ROUTE_ENTRY_COMPLETE (R332) -/
  | routeEntryComplete (l : LoomId)
  /-- SLOT_REQUEST (R193) -/
  | slotRequest (l : LoomId) (port : Fin 16) (rcv : LoomId) (rport : Fin 16)
  /-- SLOT_GRANT (R193) -/
  | slotGrant (l : LoomId) (slot : SlotId)
  /-- TILE_SEND (R193) -/
  | tileSend (l : LoomId) (port : Fin 16)
  /-- TILE_ARRIVE (R133) -/
  | tileArrive (snd : LoomId) (port : Fin 16) (rcv : LoomId) (rport : Fin 16)
  /-- TILE_ACK (R193) -/
  | tileAck (src : AckFrom)
  /-- PLAN_LOAD (R210) -/
  | planLoad (fn : FnId) (st : StallId)
  /-- PLAN_UNLOAD (R212) -/
  | planUnload (fn : FnId) (st : StallId)
  /-- DPLAN_LOAD (R184) -/
  | dplanLoad
  /-- DPLAN_UNLOAD (R185) -/
  | dplanUnload
  /-- PLAN_VERIFY (R207) -/
  | planVerify (tgt : PlanTarget)
  /-- PLAN_PLACE (R210) -/
  | planPlace (tgt : PlanTarget)
  /-- PLAN_REGIONS (R210) -/
  | planRegions (st : StallId)
  /-- CAPACITY_ZERO_COMPLETE (R214) -/
  | capacityZeroComplete (st : StallId)
  /-- PGE_PUBLISH (R237) -/
  | pgePublish (fn : FnId) (st : StallId) (dom : Fin 16) (v : W32)
  /-- ATT_MISS_CLEAR (R235) -/
  | attMissClear (fn : FnId) (l : LoomId)
  /-- BAR4_WRITE (R450) -/
  | bar4Write (fn : FnId) (off : W32) (data : List Byte × LineEcc)
  /-- BAR4_READ (R450) -/
  | bar4Read (fn : FnId) (off : W32) (n : Nat × LineEcc)
  /-- BAR4_READ_TIMEOUT (R451) -/
  | bar4ReadTimeout (fn : FnId) (off : W32) (n : Nat) (us : Nat)
  /-- HOSTF_CLEAR (R303) -/
  | hostfClear (fn : FnId) (st : StallId)
  /-- TIER_FAULT_CLEAR (R302) -/
  | tierFaultClear (fn : FnId) (l : LoomId)
  /-- STC_UE_CLEAR (R322) -/
  | stcUeClear (fn : FnId) (st : StackId)
  /-- REGULATOR_SERVE (R317) -/
  | regulatorServe (u : RegUnit)
  /-- STORE_LINE_ACCESS (R321) -/
  | storeLineAccess (l : LoomId) (va : BitVec 52) (data : Option (List Byte)) (ecc : LineEcc)
  /-- SHELF_ACCESS (R313) -/
  | shelfAccess (l : LoomId) (va : BitVec 52) (hint : BitVec 2) (data : Option (List Byte)) (ecc : ShelfEcc)
  /-- SCRUB_LINE (R323) -/
  | scrubLine (st : StackId) (ecc : LineEcc) (odecc : Nat)
  /-- FRAME_RELOCATE (R312) -/
  | frameRelocate (st : StallId) (region : BitVec 12) (block : BitVec 32)
  /-- STACK_OUT (R326) -/
  | stackOut (st : StackId)
  /-- CALLUP_GRANULE (R309) -/
  | callupGranule (st : StallId) (region : BitVec 12) (block : BitVec 32)
  /-- GRANULE_WRITEBACK (R310) -/
  | granuleWriteback (st : StallId) (region : BitVec 12) (block : BitVec 32) (g : Fin 32)
  /-- GRANULE_PUT_DOWN (R310) -/
  | granulePutDown (st : StallId) (region : BitVec 12) (block : BitVec 32) (g : Fin 32)
  /-- CELLAR_PORT_FAIL (R325) -/
  | cellarPortFail (p : CelPortId)
  /-- CELLAR_PORT_RESTORE (R325) -/
  | cellarPortRestore (p : CelPortId)
  /-- STALL_FAULT (R364) -/
  | stallFault (st : StallId) (c : StallCause)
  /-- WEIGHT_WITHDRAW (R366) -/
  | weightWithdraw (st : StallId) (u : RegUnit)
  /-- FAULT_NOTIFY (R364) -/
  | faultNotify (st : StallId)
  /-- FW_WATCHDOG_EXPIRE (R373) -/
  | fwWatchdogExpire (p : Proc) (us : Nat) (d : CrashInfo)
  /-- FW_TRAP (R373) -/
  | fwTrap (p : Proc) (us : Nat) (d : CrashInfo)
  /-- FW_RESTART_COMPLETE (R373) -/
  | fwRestartComplete (p : Proc)
  /-- CRASH_DUMP_COPY (R441) -/
  | crashDumpCopy
  /-- CDUMP_SELECT (R441) -/
  | cdumpSelect (fn : FnId) (seq : W64)
  /-- FW_ACTIVATE (R437) -/
  | fwActivate (fn : FnId) (image : BitVec 3)
  /-- FW_HANDOVER_READY (R438) -/
  | fwHandoverReady (p : Proc) (us : Nat) (body : List Byte) (failed : Option CrashInfo)
  /-- FW_COMMIT (R438) -/
  | fwCommit
  /-- JUNCTION_TRIP (R423) -/
  | junctionTrip (t : Int)
  /-- INPUT_OVERCURRENT (R423) -/
  | inputOvercurrent (ma : Nat) (us : Nat)
  /-- LIMITER_RELEASE (R423) -/
  | limiterRelease (ma : Nat) (ms : Nat)
  /-- INPUT_SHORT (R423) -/
  | inputShort (ma : Nat) (us : Nat)
  /-- INPUT_UNDERVOLTAGE (R423) -/
  | inputUndervoltage (mv : Nat) (us : Nat)
  /-- INPUT_OVERVOLTAGE (R423) -/
  | inputOvervoltage (mv : Nat) (us : Nat)
  /-- INPUT_LOSS (R426) -/
  | inputLoss (mv : Nat)
  /-- VIN_PRSNT_BREAK (R482) -/
  | vinPrsntBreak
  /-- REGULATION_LOSS (R424) -/
  | regulationLoss (d : DomainId)
  /-- REGULATION_TIMEOUT (R424) -/
  | regulationTimeout (d : DomainId) (us : Nat)
  /-- COLD_RESET (R425) -/
  | coldReset (fn : FnId)
  /-- POWER_UP_START (R427) -/
  | powerUpStart (mv : Nat)
  /-- STANDBY_RELEASE (R427) -/
  | standbyRelease (mv : Nat) (ms : Nat)
  /-- BOOT_VERIFY (R435) -/
  | bootVerify (p : Proc)
  /-- RAMP_START (R427) -/
  | rampStart (mv : Nat) (cal : Bool)
  /-- DOMAIN_RAMP (R427) -/
  | domainRamp (ms : Nat)
  /-- PHY_TRAINING (R427) -/
  | phyTraining (stks : List StackId) (ports : List (CelPortId × Bool)) (cap : List W32)
  /-- RUN_REACHED (R427) -/
  | runReached
  /-- POWER_LOOP_PERIOD (R430) -/
  | powerLoopPeriod (mw : Nat) (mv : Nat) (clus : List Int) (dies : List Int)
  /-- THERMAL_MODEL_POPULATED (R432) -/
  | thermalModelPopulated (c : ClusterId) (ms : Nat)
  /-- EMERGENCY_SET (R436) -/
  | emergencySet (e : EmergCond)
  /-- EMERGENCY_CLEAR (R436) -/
  | emergencyClear (e : EmergCond) (ms : Nat)
  /-- NV_INHIBIT_START (R429) -/
  | nvInhibitStart (mv : Nat) (sb : Nat)
  /-- NV_INHIBIT_RELEASE (R429) -/
  | nvInhibitRelease (mv : Nat) (sb : Nat) (ms : Nat)
  /-- NV_EARLY_WARNING (R429) -/
  | nvEarlyWarning (mv : Nat) (sb : Nat)
  /-- NV_WRITE_COMPLETE (R428) -/
  | nvWriteComplete (sb : Nat)
  /-- HOPPER_DOORBELL (R452) -/
  | hopperDoorbell (fn : FnId) (h : HopId) (v : W64)
  /-- HOPPER_POP (R454) -/
  | hopperPop (fn : FnId) (h : HopId)
  /-- HOPPER_COUNT_READ (R454) -/
  | hopperCountRead (fn : FnId) (h : HopId)
  /-- FUNCTION_LEVEL_RESET (R446) -/
  | functionLevelReset (fn : FnId)
  /-- HOT_RESET (R446) -/
  | hotReset
  /-- LOG_SELECT (R460) -/
  | logSelect (fn : FnId) (seq : W64)
  /-- EVENT_LOG_WRITE (R460) -/
  | eventLogWrite (us : W64)
  /-- SENSOR_REFRESH (R459) -/
  | sensorRefresh (ms : Nat) (v : List (Nat × Int))
  /-- MCTP_CONTROL (R458) -/
  | mctpControl (b : Binding) (m : MctpCtl)
  /-- SET_NUMERIC_EFFECTER (R459) -/
  | setNumericEffecter (b : Binding) (v : BitVec 12)
  /-- LOG_READ (R458) -/
  | logRead (b : Binding) (seq : W64)
  /-- METER (R458) -/
  | meter (b : Binding) (cmd : List Byte)
  /-- MCTP_COLD_RESET (R425) -/
  | mctpColdReset (b : Binding)
  /-- UPDATE_COMPONENT (R461) -/
  | updateComponent (b : Binding) (image : Fin 6) (data : List Byte)
  /-- VERIFY_COMPLETE (R461) -/
  | verifyComplete (b : Binding) (image : Fin 6)
  /-- ACTIVATE_FIRMWARE (R461) -/
  | activateFirmware (b : Binding)
  /-- GET_STATUS (R461) -/
  | getStatus (b : Binding)
  /-- PRESENT_OPERATOR (R467) -/
  | presentOperator (cmd : List Byte)
  /-- FUSE_OPERATOR (R467) -/
  | fuseOperator (cmd : List Byte)
  /-- ENROLL_STALL (R467) -/
  | enrollStall (cmd : List Byte)
  /-- REMOVE_STALL (R467) -/
  | removeStall (cmd : List Byte)
  /-- RAISE_FLOOR (R464) -/
  | raiseFloor (cmd : List Byte)
  /-- TEST_UNLOCK (R472) -/
  | testUnlock (cmd : List Byte)
  /-- GET_VERSION (R470) -/
  | getVersion (b : Binding) (req : List Byte)
  /-- GET_CAPABILITIES (R470) -/
  | getCapabilities (b : Binding) (req : List Byte)
  /-- NEGOTIATE_ALGORITHMS (R470) -/
  | negotiateAlgorithms (b : Binding) (req : List Byte)
  /-- GET_DIGESTS (R470) -/
  | getDigests (b : Binding) (req : List Byte)
  /-- GET_CERTIFICATE (R470) -/
  | getCertificate (b : Binding) (req : List Byte) (slot : Fin 8) (off : Nat) (len : Nat)
  /-- CHALLENGE (R470) -/
  | challenge (b : Binding) (req : List Byte) (slot : Fin 8)
  /-- GET_MEASUREMENTS (R471) -/
  | getMeasurements (b : Binding) (req : List Byte) (idx : List (Fin 112))
  /-- CHUNK_GET (R470) -/
  | chunkGet (b : Binding) (off : Nat) (len : Nat)
  /-- LINK_FRAME_RX (R339) -/
  | linkFrameRx (i : LinkId) (rx : FrameRx) (bytes : List Byte)
  /-- LINK_ARBITRATE (R345) -/
  | linkArbitrate (i : LinkId)
  /-- LANE_LOCK_LOSS (R340) -/
  | laneLockLoss (i : LinkId)
  /-- LINK_RETRAIN (R340) -/
  | linkRetrain (ms : Nat)
  /-- LINK_TRAINING_TIMEOUT (R336) -/
  | linkTrainingTimeout (i : LinkId) (ms : Nat)
  /-- LINK_UP (R336) -/
  | linkUp (i : LinkId)
  /-- REQ (R347) -/
  | req
  /-- GRANT (R347) -/
  | grant
  /-- WAIT (R347) -/
  | wait
  /-- STALE (R347) -/
  | stale
  /-- ABSENT (R347) -/
  | absent
  /-- ROSTER_REWRITE (R356) -/
  | rosterRewrite (fn : FnId) (st : StallId) (group : BitVec 12)
  /-- ROSTER_REWRITE_DONE (R356) -/
  | rosterRewriteDone (st : StallId)
  /-- QUIRE_PREPARE (R383) -/
  | quirePrepare (fn : FnId) (st : StallId) (epoch : W32)
  /-- QUIRE_STAGE (R383) -/
  | quireStage (st : StallId) (rank : Fin 32) (deltas : List (Nat × Nat × List Byte))
  /-- QUIRE_PREPARED (R383) -/
  | quirePrepared (st : StallId)
  /-- QUIRE_COMMIT (R383) -/
  | quireCommit (fn : FnId) (st : StallId)
  /-- QUIRE_COMMIT_COMPLETE (R383) -/
  | quireCommitComplete (st : StallId)
  /-- QUIRE_ABORT (R384) -/
  | quireAbort (fn : FnId) (st : StallId)
  /-- QUIRE_RESTORE (R385) -/
  | quireRestore (fn : FnId) (st : StallId)
  /-- QUIRE_RECONSTRUCT (R385) -/
  | quireReconstruct (fn : FnId) (st : StallId) (rank : Fin 32) (epoch : W32) (from_ : List (Nat × List (List Byte)))
  /-- QUIRE_RESUME_COMMIT (R384) -/
  | quireResumeCommit (st : StallId)
  /-- METER_POLL (R393) -/
  | meterPoll (mv : Nat)
  /-- SENSE_REPLY (R395) -/
  | senseReply (src : Fin 9) (poll : Byte) (good : Bool) (charges : List W32) (us : Nat)
  /-- METER_MAP (R396) -/
  | meterMap
  /-- TEST_PULSE (R389) -/
  | testPulse
  /-- CLOSE (R404) -/
  | close
  /-- METER_RECORD_COMMIT (R404) -/
  | meterRecordCommit
  /-- ACK (R402) -/
  | ack
  /-- ENROLL (R402) -/
  | enroll
  /-- REVOKE (R402) -/
  | revoke
  /-- VERIFIED (R417) -/
  | verified
  /-- READ (R402) -/
  | read
  /-- GET_CERT (R414) -/
  | getCert
  /-- METER_STATE_WRITE (R410) -/
  | meterStateWrite (mv : Nat) (sb : Nat) (ends : Bool)
  /-- METER_INHIBIT_START (R411) -/
  | meterInhibitStart (mv : Nat) (sb : Nat)
  /-- METER_INHIBIT_RELEASE (R411) -/
  | meterInhibitRelease (mv : Nat) (sb : Nat) (ms : Nat)
  /-- METER_POWER_UP (R413) -/
  | meterPowerUp (trace : Bool)
  /-- SEAL_BREAK (R416) -/
  | sealBreak (broken : Bool)
  /-- METER_FW_LOAD (R415) -/
  | meterFwLoad (image : List Byte) (sig : List Byte)
  /-- CART_REMOVE (R418) -/
  | cartRemove
  /-- FRONT_END_SAMPLE (R389) -/
  | frontEndSample (ma : Nat) (mv : Nat)
  /-- METER_PROCESSOR_RESTART (R404) -/
  | meterProcessorRestart
  /-- HOST_LINK_DOWN (R484) -/
  | hostLinkDown
  /-- HOST_LINK_RETURN (R484) -/
  | hostLinkReturn (vf : Bool) (msix : List FnId)
  /-- VERIFICATION_KEY_ENROL (R417) -/
  | verificationKeyEnrol (key : List Byte)
  /-- TAP_INSTRUCTION (R472) -/
  | tapInstruction (i : Tap)
deriving DecidableEq, Repr

end Sys2Proof
end

