-- ==== Sys2Proof/Config.lean ====
section
/-!
DEFINITION. Values the spec leaves open: opaque constants without a body, so that no proof can see them.
Each is named in notes/assumptions.
-/
namespace Sys2Proof

/-- A free extended sum (24-bit code, R67) drawn by a command: `draw` is the command's draw number
(State.freeCtr), `idx` tells the draws of one command apart. Log entry 3. -/
opaque Config.freeExt : Nat → Nat → BitVec 24

/-- A free element code: what the device stores for an element whose code the spec does not fix. Log entry 3. -/
opaque Config.freeCode : Nat → Nat → BitVec 16

/-- A free 64-bit value. Log entry 3. -/
opaque Config.freeWord : Nat → Nat → BitVec 64

/-- SHA3-256, which the spec names but does not define: bytes to a 256-bit digest, byte 0 in bits 7:0. Log entry 4. -/
opaque Config.sha3_256 : List Byte → BitVec 256

/-- ML-DSA-44 verification: public key, message, signature. Log entry 4. -/
opaque Config.mldsaVerify : List Byte → List Byte → List Byte → Bool

/-- ML-DSA-44 signature by the key with the given identity number, over a message. Log entry 4. -/
opaque Config.mldsaSign : Nat → List Byte → List Byte

/-- The CRC-64 of a frame's 528 bytes and the 40 check bytes of its 536, whose polynomials R338 names and does not write out. Log
entry 35. -/
opaque Config.crc64 : List Byte → BitVec 64
opaque Config.rsCheck : List Byte → List Byte

/-- The Shelf's fixed hash of R313: a line address within a die to a set number below 262,144. Log entry 5. -/
opaque Config.shelfHash : Nat → BitVec 18

/-- What the image slots hold at manufacture, by 2 × image, plus 1 for slot B. Log entry 6. -/
opaque Config.factorySlot : Nat → List Byte

/-- The four Holost firmware-key digests fused at manufacture, and whether the revoke fuse of each is blown. Log entry 6. -/
opaque Config.firmwareKey : Nat → BitVec 256
opaque Config.firmwareKeyRevoked : Nat → Bool

/-- Holost's service key, its metrology key, the module's identity key and the meter key (public keys). Log entry 6. -/
opaque Config.serviceKey : List Byte
opaque Config.metrologyKey : List Byte
opaque Config.identityKey : List Byte
opaque Config.meterKey : List Byte

/-- The certificate chain of the identity key and the chain of the meter key, as written at manufacture. Log entry 6. -/
opaque Config.certChain : List Byte
opaque Config.meterChain : List Byte

/-- The digest of the meter firmware at manufacture. Log entry 6. -/
opaque Config.meterFirmware : BitVec 256

/-- Holost's manufacturer code in IDCODE. Log entry 6. -/
opaque Config.jtagMaker : BitVec 11

end Sys2Proof
end

