-- ==== Sys2Proof/Machine/Tab.lean ====
section
/-!
DEFINITION. Operations on sparse tables: every register file, memory and per-unit table of State is one.
-/
namespace Sys2Proof.Machine

/-- The value at key `i`: the entry's, or the default `d` where no entry has the key. -/
def tget {α : Type} (d : α) : Tab α → Nat → α
  | [], _ => d
  | (k, v) :: t, i => if i = k then v else tget d t i

/-- Insert an entry before the first that has a higher key. -/
def tput {α : Type} : Tab α → Nat → α → Tab α
  | [], i, v => [(i, v)]
  | (k, w) :: t, i, v => if i < k then (i, v) :: (k, w) :: t else (k, w) :: tput t i v

/-- Drop the entries of a key. -/
def tdel {α : Type} (t : Tab α) (i : Nat) : Tab α := t.filter (fun e => e.1 != i)

/-- Put `v` at key `i` in a table; an entry equal to the default is left out. -/
def tset {α : Type} [DecidableEq α] (d : α) (t : Tab α) (i : Nat) (v : α) : Tab α :=
  if v = d then tdel t i else tput (tdel t i) i v

/-- Change the value at key `i`. -/
def tmod {α : Type} [DecidableEq α] (d : α) (t : Tab α) (i : Nat) (f : α → α) : Tab α :=
  tset d t i (f (tget d t i))

/-- Every key of the table is above `lo`, keys rise strictly, and no entry equals the default. -/
def twfFrom {α : Type} [DecidableEq α] (d : α) : Option Nat → Tab α → Bool
  | _, [] => true
  | none, (k, v) :: t => decide (v ≠ d) && twfFrom d (some k) t
  | some lo, (k, v) :: t => decide (lo < k) && decide (v ≠ d) && twfFrom d (some k) t

/-- The canonical form of a sparse table. -/
def twf {α : Type} [DecidableEq α] (d : α) (t : Tab α) : Bool := twfFrom d none t

/-- Drop every entry whose key satisfies `p` (those keys read as the default afterwards). -/
def tdrop {α : Type} (p : Nat → Bool) (t : Tab α) : Tab α := t.filter (fun e => !p e.1)

/-- Put the values of a list at keys `i`, `i + 1`, … -/
def tsetRange {α : Type} [DecidableEq α] (d : α) : Tab α → Nat → List α → Tab α
  | t, _, [] => t
  | t, i, v :: vs => tsetRange d (tset d t i v) (i + 1) vs

/-- The `n` values at keys `i` to `i + n - 1`. -/
def tgetRange {α : Type} (d : α) (t : Tab α) (i n : Nat) : List α :=
  (List.range n).map (fun j => tget d t (i + j))

/-- Insert a number into a rising list without repeats. -/
def sinsert (x : Nat) : List Nat → List Nat
  | [] => [x]
  | y :: ys => if x < y then x :: y :: ys else if x = y then y :: ys else y :: sinsert x ys

/-- Change the element at position `i` of a list. -/
def lmod {α : Type} (l : List α) (i : Nat) (f : α → α) : List α :=
  match l, i with
  | [], _ => []
  | a :: t, 0 => f a :: t
  | a :: t, i + 1 => a :: lmod t i f

/-- The little-endian number of a list of bytes. -/
def leNat : List Byte → Nat
  | [] => 0
  | b :: bs => b.toNat + 256 * leNat bs

/-- The `n` little-endian bytes of a number. -/
def natLe : Nat → Nat → List Byte
  | 0, _ => []
  | n + 1, v => BitVec.ofNat 8 v :: natLe n (v / 256)

/-- Bits `hi` down to `lo` of a number, as a number. -/
def bits (v hi lo : Nat) : Nat := (v >>> lo) % 2 ^ (hi - lo + 1)

/-- One bit of a number. -/
def bit (v i : Nat) : Bool := (v >>> i) % 2 == 1

/-- 1 or 0 for a Bool, as a number. -/
def b2n (b : Bool) : Nat := if b then 1 else 0

end Sys2Proof.Machine
end

