-- ==== Sys2Proof/Machine/Num.lean ====
section
/-!
DEFINITION. Number formats, scales, the extended sum, conversion and rounding (R54 to R78, R83 to R88), Philox (R76).
-/
namespace Sys2Proof.Machine

/-- An exact value: NaN, a signed infinity, or a signed finite magnitude (the sign is kept for zero). -/
inductive FV where
  | nan
  | inf (neg : Bool)
  | fin (neg : Bool) (mag : Rat)
deriving DecidableEq, Repr

/-- The exact value of a rational: +0 for zero. -/
def FV.ofRat (q : Rat) : FV := if q < 0 then .fin true (-q) else .fin false q

def FV.zero : FV := .fin false 0
def FV.one : FV := .fin false 1

def FV.isNan : FV → Bool
  | .nan => true
  | _ => false

def FV.isZero : FV → Bool
  | .fin _ m => m == 0
  | _ => false

def FV.neg : FV → FV
  | .nan => .nan
  | .inf s => .inf (!s)
  | .fin s m => .fin (!s) m

/-- The rational of a finite value, 0 for the others. -/
def FV.rat : FV → Rat
  | .fin s m => if s then -m else m
  | _ => 0

def FV.isNeg : FV → Bool
  | .nan => false
  | .inf s => s
  | .fin s _ => s

/-- A value with the first invalid cause that made it NaN, if its operands were none (R78, R118):
the CAUSE of LOM_EXC_STATUS and the absolute K index of the product, 0xFFFF_FFFF for none. -/
structure XV where
  v : FV
  bad : Option (Nat × Nat) := none
deriving DecidableEq, Repr

def noK : Nat := 0xFFFFFFFF

/-- 2 to an integer power. -/
def pow2 (z : Int) : Rat :=
  match z with
  | .ofNat n => ((2 ^ n : Nat) : Rat)
  | .negSucc n => 1 / ((2 ^ (n + 1) : Nat) : Rat)

/-- The floor of the base-2 logarithm of a positive rational. -/
def floorLog2 (x : Rat) : Int :=
  let e : Int := (Nat.log2 x.num.toNat : Int) - (Nat.log2 x.den : Int)
  if x < pow2 e then e - 1 else e

/-- The floor of a non-negative rational, as a natural. -/
def natFloor (t : Rat) : Nat := t.num.toNat / t.den

/-- Round a non-negative rational to the nearest natural, ties to even. -/
def rneNat (t : Rat) : Nat :=
  let k := natFloor t
  let f := t - (k : Rat)
  if f < 1 / 2 then k
  else if (1 : Rat) / 2 < f then k + 1
  else if k % 2 == 0 then k else k + 1

/-- How a conversion rounds (R69): to nearest even, or stochastically with the 12-bit draw (R75). -/
inductive Rnd where
  | rne
  | sr (draw : Nat)
deriving DecidableEq, Repr

/-- Round a non-negative multiple of the ulp (R69, R75). -/
def rndNat (m : Rnd) (t : Rat) : Nat :=
  match m with
  | .rne => rneNat t
  | .sr r =>
    let k := natFloor t
    let f := natFloor ((t - (k : Rat)) * 4096)
    if r < f then k + 1 else k

/-- The exponent of R83: floor log2 limited to the format's normal range. -/
def ulpExp (emin emax : Int) (mag : Rat) : Int :=
  if mag = 0 then emin else min (max (floorLog2 mag) emin) emax

/-- The ulp of R83 at a magnitude, for significand width `p`. -/
def ulpOf (p : Nat) (emin emax : Int) (mag : Rat) : Rat := pow2 (ulpExp emin emax mag - (p : Int) + 1)

/-! ### The extended sum (R67) -/

/-- The largest finite extended sum. -/
def extMax : Rat := (2 - pow2 (-15)) * pow2 127

/-- Round an exact value to the extended sum (R67): to nearest, ties to even, overflow to infinity. -/
def extRound : FV → FV
  | .fin s m =>
    let q := ulpOf 16 (-126) 127 m
    let r := (rneNat (m / q) : Rat) * q
    if extMax < r then .inf s else .fin s r
  | v => v

/-- The value of a 24-bit extended-sum code: sign, 8-bit exponent of bias 127, 15 stored fraction bits (R67). -/
def extVal (c : BitVec 24) : FV :=
  let n := c.toNat
  let s := bit n 23
  let e := bits n 22 15
  let f := bits n 14 0
  if e = 255 then (if f = 0 then .inf s else .nan)
  else if e = 0 then .fin s ((f : Rat) * pow2 (-141))
  else .fin s (((32768 + f : Nat) : Rat) * pow2 ((e : Int) - 127 - 15))

/-- The 24-bit code of a value that the extended sum holds (a NaN is written 0x7FC000). -/
def extCode (v : FV) : BitVec 24 :=
  match v with
  | .nan => 0x7FC000
  | .inf s => BitVec.ofNat 24 (b2n s * 8388608 + 255 * 32768)
  | .fin s m =>
    let e := ulpExp (-126) 127 m
    let k := natFloor (m / pow2 (e - 15))
    if k < 32768 then BitVec.ofNat 24 (b2n s * 8388608 + k)
    else BitVec.ofNat 24 (b2n s * 8388608 + (e + 127).toNat * 32768 + (k - 32768))

/-- The NaN of two values one of which is NaN: it keeps the first cause that made one of them NaN from operands that were
none (R78, R81). -/
def nanOf (a b : XV) : XV :=
  match a.v, a.bad, b.bad with
  | .nan, some c, _ => ⟨.nan, some c⟩
  | _, _, some c => if b.v.isNan then ⟨.nan, some c⟩ else ⟨.nan, none⟩
  | _, _, none => ⟨.nan, none⟩

/-- The exact sum of two values under IEEE rules: infinities of opposite sign give NaN with cause 0x1;
an exact zero sum is +0 unless both are -0 (R57, R67). -/
def xaddExact (a b : XV) : XV :=
  match a.v, b.v with
  | .nan, _ => nanOf a b
  | _, .nan => nanOf a b
  | .inf s, .inf t => if s = t then a else ⟨.nan, some (1, noK)⟩
  | .inf _, .fin _ _ => a
  | .fin _ _, .inf _ => b
  | .fin s x, .fin t y =>
    let r := (FV.fin s x).rat + (FV.fin t y).rat
    if r = 0 then ⟨.fin (s && t && x == 0 && y == 0) 0, none⟩ else ⟨FV.ofRat r, none⟩

/-- The exact product under IEEE rules: zero times infinity gives NaN with cause 0x0 and the given K index. -/
def xmulExact (k : Nat) (a b : XV) : XV :=
  match a.v, b.v with
  | .nan, _ => nanOf a b
  | _, .nan => nanOf a b
  | .inf s, .inf t => ⟨.inf (s != t), none⟩
  | .inf s, .fin t y => if y = 0 then ⟨.nan, some (0, k)⟩ else ⟨.inf (s != t), none⟩
  | .fin s x, .inf t => if x = 0 then ⟨.nan, some (0, k)⟩ else ⟨.inf (s != t), none⟩
  | .fin s x, .fin t y => ⟨.fin (s != t) (x * y), none⟩

def XV.round (a : XV) : XV := { a with v := extRound a.v }

/-- Addition in the extended sum. -/
def xadd (a b : XV) : XV := (xaddExact a b).round

/-- Multiplication in the extended sum. -/
def xmul (a b : XV) : XV := (xmulExact noK a b).round

def XV.neg (a : XV) : XV := { a with v := a.v.neg }

def xsub (a b : XV) : XV := xadd a b.neg

/-- A value without an event. -/
def XV.ok (v : FV) : XV := ⟨v, none⟩

/-- `a < b` on values that are no NaN. -/
def fvLt (a b : FV) : Bool :=
  match a, b with
  | .nan, _ => false
  | _, .nan => false
  | .inf s, .inf t => s && !t
  | .inf s, .fin _ _ => s
  | .fin _ _, .inf t => !t
  | a, b => decide (a.rat < b.rat)

/-- The larger of two values; a NaN wins. -/
def xmax (a b : XV) : XV :=
  if a.v.isNan || b.v.isNan then nanOf a b else if fvLt a.v b.v then b else a

/-- The smaller of two values; a NaN wins. -/
def xmin (a b : XV) : XV :=
  if a.v.isNan || b.v.isNan then nanOf a b else if fvLt b.v a.v then b else a

/-- γ_n of "Error bounds", u = 2^-16. -/
def gammaN (n : Nat) : Rat := ((n : Rat) * pow2 (-16)) / (1 - (n : Rat) * pow2 (-16))

/-- The absolute value of a rational. -/
def rabs (q : Rat) : Rat := if q < 0 then -q else q

/-- Adjacent pairs added, a last odd one kept. -/
def pairUp : List XV → List XV
  | a :: b :: t => xadd a b :: pairUp t
  | l => l

/-- The pairwise tree of additions in the extended sum, `n` levels deep. -/
def treeSum : Nat → List XV → XV
  | 0, l => l.headD (.ok .zero)
  | n + 1, l => treeSum n (pairUp l)

/-- The depth of a pairwise tree over `n` terms. -/
def treeDepth (n : Nat) : Nat := if n ≤ 1 then 0 else Nat.log2 (n - 1) + 1

/-- The exponent of the largest power of two that divides a nonzero dyadic rational. -/
def twoAdic (q : Rat) : Int :=
  let low (n : Nat) : Nat := Nat.log2 (n - (n &&& (n - 1)))
  if q.den = 1 then (low q.num.natAbs : Int) else -(low q.den : Int)

/-- Every order of additions gives the exact sum: the terms are multiples of one power of two, and neither the positive nor
the negative ones reach 2^16 of it (R66, R67). -/
def exactSum (l : List XV) : Bool :=
  let qs := (l.map (fun x => x.v.rat)).filter (· ≠ 0)
  match qs with
  | [] => true
  | q :: t =>
    let g := t.foldl (fun e r => min e (twoAdic r)) (twoAdic q)
    let lim := 65536 * pow2 g
    decide (-141 ≤ g) && decide (qs.foldl (fun a r => if 0 < r then a + r else a) 0 ≤ lim) &&
      decide (qs.foldl (fun a r => if r < 0 then a - r else a) 0 ≤ lim)

/-- The sum of a list in the extended sum. Its order of additions is open (R9), so a free extended sum stands for
it wherever that value meets the bound γ_depth × Σ|terms| (R84, R87); otherwise, and where the order cannot matter (two
terms, or a sum that every order forms exactly), the pairwise tree's value. -/
def freeSum (draw idx : Nat) (l : List XV) : XV :=
  let d := treeDepth l.length
  let t := treeSum d l
  if l.length ≤ 2 || exactSum l then t else
  let exact := l.foldl (fun a x => a + x.v.rat) 0
  let mag := l.foldl (fun a x => a + rabs x.v.rat) 0
  match t.v with
  | .fin _ _ =>
    if mag = 0 then t else
    match extVal (Config.freeExt draw idx) with
    | .fin s m => if rabs ((FV.fin s m).rat - exact) ≤ gammaN d * mag then ⟨.fin s m, none⟩ else t
    | _ => t
  | _ => t

/-- A free extended sum where it lies within relative error `eps` of every value from `lo` to `hi`, between which the exact
positive value lies; otherwise the rounded midpoint. -/
def freeNear (draw idx : Nat) (s : Bool) (lo hi eps : Rat) : FV :=
  let d := extRound (.fin s ((lo + hi) / 2))
  match extVal (Config.freeExt draw idx) with
  | .fin t m =>
    if t = s ∧ hi * (1 - eps) ≤ m ∧ m ≤ lo * (1 + eps) then .fin s m else d
  | _ => d

/-- The unit of the fixed-point enclosure of the exponential. -/
def expUnit : Nat := 2 ^ 240

/-- The exponential series of a fixed-point argument below the unit, rounded down or up: the sum after `n` more terms. -/
def expSeries (y up : Nat) : Nat → Nat → Nat → Nat → Nat
  | 0, _, acc, _ => acc + up
  | n + 1, i, acc, term => let t := term * y / expUnit / (i + 1) + up; expSeries y up n (i + 1) (acc + t) t

/-- Squared `n` times, rounded down or up. -/
def sqTimes (up : Nat) : Nat → Nat → Nat
  | 0, a => a
  | n + 1, a => sqTimes up n (a * a / expUnit + up)

/-- A rational enclosure of exp at a non-negative rational below 128, as exp(x/128) to the 128th power; its relative width
is below 2^-180. -/
def expEnclose (x : Rat) : Rat × Rat :=
  let y := natFloor (x / 128 * (expUnit : Rat))
  ((sqTimes 0 7 (expSeries y 0 64 0 expUnit expUnit) : Rat) / (expUnit : Rat),
   (sqTimes 1 7 (expSeries (y + 1) 1 64 0 expUnit expUnit) : Rat) / (expUnit : Rat))

/-- exp in the extended sum: relative error at most 2^-14 (R87); limits at the infinities (R139). -/
def xexp (draw idx : Nat) (a : XV) : XV :=
  match a.v with
  | .nan => a
  | .inf true => .ok .zero
  | .inf false => .ok (.inf false)
  | .fin s m =>
    if m = 0 then .ok (freeNear draw idx false 1 1 (pow2 (-14)))
    else if 100 ≤ m then .ok (if s then .zero else .inf false)
    else
      let (lo, hi) := expEnclose m
      if s then
        (if 1 / lo < pow2 (-142) then .ok .zero else .ok (freeNear draw idx false (1 / hi) (1 / lo) (pow2 (-14))))
      else (if extMax < lo then .ok (.inf false) else .ok (freeNear draw idx false lo hi (pow2 (-14))))

/-- The reciprocal in the extended sum: relative error at most 2^-15 (R87). -/
def xrecip (draw idx : Nat) (a : XV) : XV :=
  match a.v with
  | .nan => a
  | .inf s => .ok (.fin s 0)
  | .fin s m =>
    if m = 0 then .ok (.inf s)
    else if extMax < 1 / m then .ok (.inf s)
    else .ok (freeNear draw idx s (1 / m) (1 / m) (pow2 (-15)))

/-- The integer square root by bits, from bit `n - 1` down. -/
def isqrtFrom (x : Nat) : Nat → Nat → Nat
  | 0, acc => acc
  | n + 1, acc =>
    let c := acc + 2 ^ n
    isqrtFrom x n (if c * c ≤ x then c else acc)

def isqrt (x : Nat) : Nat := isqrtFrom x (Nat.log2 x / 2 + 1) 0

/-- The square root in the extended sum, correctly rounded (R67, R283); of a value below zero NaN with cause 0x9. -/
def xsqrt (a : XV) : XV :=
  match a.v with
  | .nan => a
  | .inf true => ⟨.nan, some (9, noK)⟩
  | .inf false => a
  | .fin s m =>
    if m = 0 then a
    else if s then ⟨.nan, some (9, noK)⟩
    else
      let e := floorLog2 m / 2
      let q := pow2 (e - 15)
      let t := m / (q * q)
      let k := isqrt (natFloor t)
      let half : Rat := (k : Rat) + 1 / 2
      let r := if t < half * half then k else if half * half < t then k + 1 else (if k % 2 == 0 then k else k + 1)
      .ok (extRound (.fin false ((r : Rat) * q)))

/-! ### Element formats (R56, R58, R114) -/

/-- The twelve element formats, in the order of the FMT codes of R114. -/
inductive Fmt where
  | fp16 | bf16 | e5m2 | e4m3 | e3m2 | e2m3 | e2m1 | int16 | int8 | uint8 | int4 | uint4
deriving DecidableEq, Repr

/-- FMT of R114; codes 0xC to 0xF are reserved. -/
def Fmt.ofCode : Nat → Option Fmt
  | 0 => some .fp16 | 1 => some .bf16 | 2 => some .e5m2 | 3 => some .e4m3 | 4 => some .e3m2 | 5 => some .e2m3
  | 6 => some .e2m1 | 7 => some .int16 | 8 => some .int8 | 9 => some .uint8 | 10 => some .int4 | 11 => some .uint4
  | _ => none

def Fmt.code : Fmt → Nat
  | .fp16 => 0 | .bf16 => 1 | .e5m2 => 2 | .e4m3 => 3 | .e3m2 => 4 | .e2m3 => 5
  | .e2m1 => 6 | .int16 => 7 | .int8 => 8 | .uint8 => 9 | .int4 => 10 | .uint4 => 11

/-- Element width in bits. -/
def Fmt.width : Fmt → Nat
  | .fp16 => 16 | .bf16 => 16 | .int16 => 16
  | .e5m2 => 8 | .e4m3 => 8 | .int8 => 8 | .uint8 => 8
  | .e3m2 => 6 | .e2m3 => 6
  | .e2m1 => 4 | .int4 => 4 | .uint4 => 4

/-- Width class of R65 as LOM_STATUS.WIDTH codes it: 1 4-bit, 2 8-bit, 3 16-bit. -/
def Fmt.cls (f : Fmt) : Nat := if f.width = 4 then 1 else if f.width = 16 then 3 else 2

def Fmt.isInt : Fmt → Bool
  | .int16 => true | .int8 => true | .uint8 => true | .int4 => true | .uint4 => true
  | _ => false

def Fmt.isUnsigned : Fmt → Bool
  | .uint8 => true | .uint4 => true
  | _ => false

/-- Exponent bits, fraction bits and bias of a floating-point format (R56); zeros for an integer format. -/
def Fmt.fields : Fmt → Nat × Nat × Int
  | .fp16 => (5, 10, 15) | .bf16 => (8, 7, 127) | .e5m2 => (5, 2, 15) | .e4m3 => (4, 3, 7)
  | .e3m2 => (3, 2, 3) | .e2m3 => (2, 3, 1) | .e2m1 => (2, 1, 1)
  | _ => (0, 0, 0)

def Fmt.hasInf : Fmt → Bool
  | .fp16 => true | .bf16 => true | .e5m2 => true
  | _ => false

def Fmt.hasNan : Fmt → Bool
  | .fp16 => true | .bf16 => true | .e5m2 => true | .e4m3 => true
  | _ => false

/-- Canonical NaN (R57). -/
def Fmt.canonNan : Fmt → Nat
  | .fp16 => 0x7E00 | .bf16 => 0x7FC0 | .e5m2 => 0x7F | .e4m3 => 0x7F
  | _ => 0

/-- Smallest normal exponent. -/
def Fmt.emin (f : Fmt) : Int := 1 - f.fields.2.2

/-- Largest finite exponent. -/
def Fmt.emax : Fmt → Int
  | .fp16 => 15 | .bf16 => 127 | .e5m2 => 15 | .e4m3 => 8 | .e3m2 => 4 | .e2m3 => 2 | .e2m1 => 2
  | _ => 0

/-- Largest finite value of a floating-point format, or the end of the produced range of an integer one (R56, R58). -/
def Fmt.maxVal : Fmt → Rat
  | .fp16 => 65504 | .bf16 => (2 - pow2 (-7)) * pow2 127 | .e5m2 => 57344 | .e4m3 => 448
  | .e3m2 => 28 | .e2m3 => 15 / 2 | .e2m1 => 6
  | .int16 => 32767 | .int8 => 127 | .uint8 => 255 | .int4 => 7 | .uint4 => 15

/-- The value of an element code (R56, R58), before any scale; `mx` divides INT8 by 64 (R60). -/
def Fmt.value (f : Fmt) (mx : Bool) (c : Nat) : FV :=
  if f.isInt then
    let n := c % 2 ^ f.width
    let q : Rat := if !f.isUnsigned && 2 ^ (f.width - 1) ≤ n then (n : Rat) - ((2 ^ f.width : Nat) : Rat) else (n : Rat)
    FV.ofRat (if mx then q / 64 else q)
  else
    let (eb, fb, bias) := f.fields
    let s := bit c (eb + fb)
    let e := (c >>> fb) % 2 ^ eb
    let fr := c % 2 ^ fb
    if f.hasInf && e == 2 ^ eb - 1 then (if fr = 0 then .inf s else .nan)
    else if f == .e4m3 && e == 15 && fr == 7 then .nan
    else if e = 0 then .fin s ((fr : Rat) * pow2 (1 - bias - (fb : Int)))
    else .fin s (((2 ^ fb + fr : Nat) : Rat) * pow2 ((e : Int) - bias - (fb : Int)))

/-- Flush-to-zero reads of R74: a subnormal FP16, BF16, E5M2 or E4M3 value reads as zero of its sign. -/
def ftzRead (f : Fmt) (ftz : Bool) (v : FV) : FV :=
  if ftz && f.hasNan then
    match v with
    | .fin s m => if m < pow2 f.emin then .fin s 0 else v
    | _ => v
  else v

/-! ### Block and tensor-wide scales (R59 to R64, R115) -/

/-- A scale handle's fields (R115). -/
structure Handle where
  bfmt : Nat
  geom : Nat
  bsize : Nat
  tpres : Bool
  rsvd : Bool
  tscale : Nat
deriving DecidableEq, Repr

def Handle.ofNat (h : Nat) : Handle :=
  { bfmt := bits h 1 0, geom := bits h 3 2, bsize := bits h 5 4, tpres := bit h 6, rsvd := bit h 7, tscale := bits h 23 8 }

/-- b of the handle (BSIZE). -/
def Handle.b (h : Handle) : Nat := 8 * 2 ^ h.bsize

/-- The combinations of R60 and the handle rules of R115. -/
def handleOk (f : Fmt) (h : Handle) : Bool :=
  !h.rsvd && h.bfmt != 3 && h.geom != 3 && (h.geom != 2 || h.bsize == 3) && (h.tpres || h.tscale == 0) &&
  (match f with
   | .fp16 => h.bfmt == 0 | .bf16 => h.bfmt == 0 | .int16 => h.bfmt == 0
   | .e3m2 => h.bfmt != 0 | .e2m3 => h.bfmt != 0 | .e2m1 => h.bfmt != 0
   | _ => true)

/-- The value of a block-scale byte (R59): NaN for a NaN code, +0 for UE4M3 zero. -/
def scaleVal (bfmt : Nat) (c : Nat) : FV :=
  if bfmt = 1 then (if c = 255 then .nan else .fin false (pow2 ((c : Int) - 127)))
  else if bfmt = 2 then (if bit c 7 then .nan else Fmt.value .e4m3 false (c % 128))
  else .one

/-- The tensor-wide scale as R61 reads it: NaN unless a positive finite value. -/
def tscaleVal (h : Handle) : FV :=
  if h.tpres then
    match Fmt.value .bf16 false h.tscale with
    | .fin false m => if m = 0 then .nan else .fin false m
    | _ => .nan
  else .one

/-- The value of an element under its block scale (R60, R61): a NaN scale gives NaN, a zero scale +0 but for NaN. -/
def scaled (e s : FV) : FV :=
  match s with
  | .nan => .nan
  | .inf _ => .nan
  | .fin _ q => if q = 0 then (if e.isNan then .nan else .zero) else (xmulExact noK (.ok e) (.ok s)).v

/-- The least integer X with 2^X at least the positive rational. -/
def ceilLog2 (x : Rat) : Int := if x = pow2 (floorLog2 x) then floorLog2 x else floorLog2 x + 1

/-- The smallest UE4M3 code whose value is not less than `x`, from code `c` upward for `n` codes. -/
def ue4m3Up (x : Rat) : Nat → Nat → Nat
  | 0, c => c
  | n + 1, c => if x ≤ (Fmt.value .e4m3 false c).rat then c else ue4m3Up x n (c + 1)

/-- Largest finite value of an element format as R63 uses it (INT8 under E8M0 counts 1/64 a code, R60). -/
def eMax (f : Fmt) (bfmt : Nat) : Rat := if f = .int8 ∧ bfmt = 1 then f.maxVal / 64 else f.maxVal

def FV.isInf : FV → Bool
  | .inf _ => true
  | _ => false

/-- The largest magnitude of a block for R63: NaN ignored, an infinity counts as `infAs`. -/
def amaxOf (infAs : Rat) (l : List FV) : Rat :=
  l.foldl (fun a v => match v with
    | .nan => a
    | .inf _ => if a < infAs then infAs else a
    | .fin _ m => if a < m then m else a) 0

/-- The computed block-scale code of R63; NaN code where the block holds a NaN. `infAs` is what an infinity counts as in
saturating mode; in special mode (none) it is the amax, and the scale's upper limit applies. -/
def computeScale (f : Fmt) (bfmt : Nat) (infAs : Option Rat) (l : List FV) : Nat :=
  if l.any FV.isNan then (if bfmt = 1 then 255 else 127)
  else if infAs.isNone && l.any FV.isInf then (if bfmt = 1 then 254 else 126)
  else
    let a := amaxOf (infAs.getD 0) l
    if a = 0 then (if bfmt = 1 then 127 else 0x38)
    else if bfmt = 1 then
      let x := ceilLog2 (a / eMax f bfmt)
      (min (max x (-127)) 127 + 127).toNat
    else ue4m3Up (a / eMax f bfmt) 125 1

/-! ### Conversion into an element format (R69 to R74, R78) -/

/-- What converting one element gives: its code, whether it sets its block's scale to NaN, the X event, and the
V, O and U causes raised (LOM_EXC_STATUS.CAUSE), if any. -/
structure Conv where
  code : Nat
  scaleNan : Bool := false
  v : Option Nat := none
  o : Option Nat := none
  u : Option Nat := none
  x : Bool := false
deriving DecidableEq, Repr

/-- The code of a representable magnitude of a floating-point format. -/
def encodeMag (f : Fmt) (s : Bool) (m : Rat) : Nat :=
  let (eb, fb, bias) := f.fields
  let e := ulpExp f.emin f.emax m
  let k := natFloor (m / pow2 (e - (fb : Int)))
  let body := if k < 2 ^ fb then k else (e + bias).toNat * 2 ^ fb + (k - 2 ^ fb)
  b2n s * 2 ^ (eb + fb) + body

/-- The code of ±infinity. -/
def Fmt.infCode (f : Fmt) (s : Bool) : Nat :=
  let (eb, fb, _) := f.fields
  b2n s * 2 ^ (eb + fb) + (2 ^ eb - 1) * 2 ^ fb

/-- The two's-complement or plain code of an integer. -/
def intCode (f : Fmt) (s : Bool) (k : Nat) : Nat :=
  if s then (2 ^ f.width - k % 2 ^ f.width) % 2 ^ f.width else k % 2 ^ f.width

/-- Convert a value, already divided by its block scale, into format `f` (R69 to R74). `blk`: the destination has a
block scale; `mx`: INT8 codes count 1/64; `special`: the overflow mode of R70. -/
def convert (f : Fmt) (blk mx special ftz : Bool) (m : Rnd) (x : FV) : Conv :=
  match x with
  | .nan =>
    if f.hasNan then { code := f.canonNan }
    else if f.isInt && !blk then { code := 0, v := some 3 }
    else { code := 0, scaleNan := true }
  | .inf s =>
    if f.isInt then
      (if s && f.isUnsigned then { code := 0, o := some 6, x := true }
       else { code := intCode f s (natFloor f.maxVal), o := some 6, x := true })
    else if !special then { code := encodeMag f s f.maxVal, o := some 6, x := true }
    else if f.hasInf then { code := f.infCode s, o := some 6 }
    else if f = .e4m3 then { code := f.canonNan, v := some 2, o := some 2 }
    else { code := 0, scaleNan := true, v := some 2, o := some 2 }
  | .fin s mag =>
    if f.isInt then
      let t := if mx then mag * 64 else mag
      if s && f.isUnsigned && t != 0 then { code := 0, o := some 4, u := some 7, x := true }
      else if f.maxVal < t then { code := intCode f s (natFloor f.maxVal), o := some 4, x := true }
      else
        let k := rndNat m t
        { code := intCode f s k, u := if k = 0 ∧ t ≠ 0 then some 7 else none, x := decide ((k : Rat) ≠ t) }
    else if f.maxVal < mag then
      (if !special then { code := encodeMag f s f.maxVal, o := some 4, x := true }
       else if f.hasInf then { code := f.infCode s, o := some 5, x := true }
       else if f = .e4m3 then { code := f.canonNan, v := some 2, o := some 2 }
       else { code := 0, scaleNan := true, v := some 2, o := some 2 })
    else
      let q := ulpOf (f.fields.2.1 + 1) f.emin f.emax mag
      let r := (rndNat m (mag / q) : Rat) * q
      if ftz && f.hasNan && r != 0 && decide (r < pow2 f.emin) then
        { code := encodeMag f s 0, u := some 8, x := true }
      else { code := encodeMag f s r, u := if r = 0 ∧ mag ≠ 0 then some 7 else none, x := decide (r ≠ mag) }

/-! ### Philox-4x32-10 (R76) -/

/-- One Philox round on the counter words under the key words. -/
def philoxRound (c0 c1 c2 c3 k0 k1 : Nat) : Nat × Nat × Nat × Nat :=
  let p0 := 0xD2511F53 * c0
  let p1 := 0xCD9E8D57 * c2
  let m := 2 ^ 32
  (((p1 / m) ^^^ c1 ^^^ k0) % m, p1 % m, ((p0 / m) ^^^ c3 ^^^ k1) % m, p0 % m)

/-- `n` Philox rounds, the key bumped between rounds. -/
def philoxRounds : Nat → Nat → Nat → Nat → Nat → Nat → Nat → Nat × Nat × Nat × Nat
  | 0, c0, c1, c2, c3, _, _ => (c0, c1, c2, c3)
  | n + 1, c0, c1, c2, c3, k0, k1 =>
    let (a, b, c, d) := philoxRound c0 c1 c2 c3 k0 k1
    philoxRounds n a b c d ((k0 + 0x9E3779B9) % 2 ^ 32) ((k1 + 0xBB67AE85) % 2 ^ 32)

/-- The 16-bit field that the element of index `e` draws (R76): seed, purpose, tensor number, step, layer. -/
def philoxField (seed purpose tensor step layer e : Nat) : Nat :=
  let g := e / 8
  let j := e % 8
  let c1 := (g / 2 ^ 32) % 256 + 256 * (purpose % 256) + 65536 * (tensor % 65536)
  let (o0, o1, o2, o3) :=
    philoxRounds 10 (g % 2 ^ 32) c1 (step % 2 ^ 32) (layer % 2 ^ 32) (seed % 2 ^ 32) (seed / 2 ^ 32 % 2 ^ 32)
  let w := if j / 2 = 0 then o0 else if j / 2 = 1 then o1 else if j / 2 = 2 then o2 else o3
  bits w (16 * (j % 2) + 15) (16 * (j % 2))

/-- The 12-bit draw r of R75 and R76. -/
def philoxDraw (seed purpose tensor step layer e : Nat) : Nat := philoxField seed purpose tensor step layer e % 4096

end Sys2Proof.Machine
end

