-- ==== Sys2Proof/Machine/Draft.lean ====
section
/-!
DEFINITION. Draft words (R126 to R147), descriptors (R131 to R134) and the decoding checks of R148 with the rules that
extend it (R169, R245, R271, R298, R362).
-/
namespace Sys2Proof.Machine

/-- A descriptor: the fields of its four words (R131). -/
structure Desc where
  fmt : Nat
  scale : Nat
  kind : Nat
  base : Nat
  depth : Nat
  ch : Nat
  rowBase : Nat
  colBase : Nat
  planeBase : Nat
  rowMap : Nat
  colMap : Nat
  planeMap : Nat
  readers : Nat
  epochSrc : Nat
  lastRows : Nat
  lastCols : Nat
  lastF : Bool
  member : Nat
  sr : Nat
  sp : Nat
  mstride : Nat
deriving DecidableEq, Repr

def Desc.handle (d : Desc) : Handle := Handle.ofNat d.scale

/-- The element format of a descriptor; a reserved code (refused at decoding) reads as FP16. -/
def Desc.format (d : Desc) : Fmt := (Fmt.ofCode d.fmt).getD .fp16

def opc (w : Nat) : Nat := bits w 63 56

/-- The first word of the list that is part `part` (0 to 3, TDESC_A to TDESC_D) of descriptor `t`. -/
def descPart (words : List Nat) (t part : Nat) : Option Nat :=
  words.find? (fun w => opc w == 0x10 + part && bits w 55 52 == t)

/-- The descriptor that the words define, if all four parts stand among them (R131). -/
def descOf (words : List Nat) (t : Nat) : Option Desc :=
  match descPart words t 0, descPart words t 1, descPart words t 2, descPart words t 3 with
  | some a, some b, some c, some d =>
    some { fmt := bits a 51 48, scale := bits a 47 24, kind := bits a 23 22, base := bits a 21 13, depth := bits a 12 4,
           ch := bits a 3 0, rowBase := bits b 51 28, colBase := bits b 27 12, planeBase := bits b 11 0,
           rowMap := bits c 51 46, colMap := bits c 45 40, planeMap := bits c 39 34, readers := bits c 33 26,
           epochSrc := bits c 25 24, lastRows := bits c 23 18, lastCols := bits c 17 12, lastF := bit c 11,
           member := bits c 10 9, sr := bits d 51 39, sp := bits d 38 26, mstride := bits d 25 13 }
  | _, _, _, _ => none

/-! ### Fields of the operation words -/

def mmTA (w : Nat) : Nat := bits w 55 52
def mmTB (w : Nat) : Nat := bits w 51 48
def mmTC (w : Nat) : Nat := bits w 47 44
def mmTP (w : Nat) : Nat := bits w 43 40
def mmSpan (w : Nat) : Nat := 64 * (bits w 39 38 + 1)
def mmPre (w : Nat) : Bool := bit w 37
def mmKB (w : Nat) : Nat := bits w 36 25
def mmRnd (w : Nat) : Bool := bit w 24
def mmFin (w : Nat) : Bool := bit w 23
def mmSC (w : Nat) : Nat := bits w 22 21
def mmSplit (w : Nat) : Bool := bit w 20
def mmPfmt (w : Nat) : Bool := bit w 19

def fulFN (w : Nat) : Nat := bits w 55 50
def fulDir (w : Nat) : Bool := bit w 49
def fulTX (w : Nat) : Nat := bits w 48 45
def fulTY (w : Nat) : Nat := bits w 44 41
def fulTZ (w : Nat) : Nat := bits w 40 37
def fulG (w : Nat) : Nat := bits w 36 29
def fulRnd (w : Nat) : Bool := bit w 28
def fulSC (w : Nat) : Nat := bits w 27 26
def fulImm (w : Nat) : Nat := bits w 25 10

def castTX (w : Nat) : Nat := bits w 55 52
def castTY (w : Nat) : Nat := bits w 51 48
def castTZ (w : Nat) : Nat := bits w 47 44
def castRnd (w : Nat) : Bool := bit w 43
def castSC (w : Nat) : Nat := bits w 42 41
def castGrad (w : Nat) : Bool := bit w 40
def castOmap (w : Nat) : Bool := bit w 39
def castTM (w : Nat) : Nat := bits w 38 35

def updTW (w : Nat) : Nat := bits w 55 52
def updTG (w : Nat) : Nat := bits w 51 48
def updTM1 (w : Nat) : Nat := bits w 47 44
def updTM2 (w : Nat) : Nat := bits w 43 40
def updTE (w : Nat) : Nat := bits w 39 36
def updTR (w : Nat) : Nat := bits w 35 32
def updTQ (w : Nat) : Nat := bits w 31 28
def updAlg (w : Nat) : Nat := bits w 27 24
def updExp (w : Nat) : Int := if bit w 23 then (bits w 23 16 : Int) - 256 else (bits w 23 16 : Int)
def updCset (w : Nat) : Nat := bits w 15 12
def updGate (w : Nat) : Bool := bit w 11
def updEma (w : Nat) : Bool := bit w 10
def updKeep (w : Nat) : Bool := bit w 9

def attTQ (w : Nat) : Nat := bits w 55 52
def attTK (w : Nat) : Nat := bits w 51 48
def attTV (w : Nat) : Nat := bits w 47 44
def attTO (w : Nat) : Nat := bits w 43 40
def attTPG (w : Nat) : Nat := bits w 39 36
def attFin (w : Nat) : Bool := bit w 35
def attRnd (w : Nat) : Bool := bit w 34
def attSC (w : Nat) : Nat := bits w 33 32
def attMask (w : Nat) : Nat := bits w 31 30
def attSplit (w : Nat) : Bool := bit w 29
def attGnom (w : Nat) : Bool := bit w 28
def attWin (w : Nat) : Nat := bits w 27 16
def attScale (w : Nat) : Nat := bits w 15 0

def pickFN (w : Nat) : Nat := bits w 55 52
def pickTIDX (w : Nat) : Nat := bits w 51 48
def pickTSEG (w : Nat) : Nat := bits w 47 44
def pickTSRC (w : Nat) : Nat := bits w 43 40
def pickTDST (w : Nat) : Nat := bits w 39 36
def pickRED (w : Nat) : Nat := bits w 35 34
def pickDedup (w : Nat) : Bool := bit w 33

def apxTIN (w : Nat) : Nat := bits w 55 52
def apxTOUT (w : Nat) : Nat := bits w 51 48
def apxP (w : Nat) : Nat := bits w 47 40 + 1
def apxKind (w : Nat) : Bool := bit w 39
def apxRnd (w : Nat) : Bool := bit w 38
def apxSC (w : Nat) : Nat := bits w 37 36
def apxTML (w : Nat) : Nat := bits w 35 32

def xferTX (w : Nat) : Nat := bits w 55 52
def xferTZ (w : Nat) : Nat := bits w 51 48
def xferColl (w : Nat) : Nat := bits w 47 44
def xferAxis (w : Nat) : Nat := bits w 43 41
def xferDir (w : Nat) : Nat := bits w 40 39
def xferGroup (w : Nat) : Nat := bits w 38 27

def tierFN (w : Nat) : Nat := bits w 55 52
def tierRegion (w : Nat) : Nat := bits w 51 40
def tierEntry (w : Nat) : Nat := bits w 39 24
def tierTZ (w : Nat) : Nat := bits w 23 20
def tierHint (w : Nat) : Nat := bits w 19 18

def headRole (w : Nat) : Nat := bits w 55 52
def headFtz (w : Nat) : Bool := bit w 51
def headSpecial (w : Nat) : Bool := bit w 50
def headLayer (w : Nat) : Nat := bits w 31 0

def loopCtr (w : Nat) : Nat := bits w 55 53
def loopCount (w : Nat) : Nat := bits w 47 24

/-- A fuller function that spans a row group (R139). -/
def fulGroups (fn : Nat) : Bool := fn == 9 || fn == 10 || fn == 11 || fn == 14 || fn == 15 || fn == 16

/-- A fuller function that reads TY as a vector or a second tile (R139); `fin`: in a FIN, GLU reads no TY. -/
def fulReadsTY (fin : Bool) (fn : Nat) : Bool :=
  fn == 2 || fn == 10 || fn == 11 || fn == 12 || fn == 13 || (fn == 0x14 && !fin)

/-- Descriptors through which an operation word reads tiles. -/
def opReads (w : Nat) : List Nat :=
  match opc w with
  | 0x20 => [mmTA w, mmTB w] ++ (if mmPre w then [mmTP w] else [])
  | 0x21 => if fulReadsTY true (fulFN w) then [fulTY w] else []
  | 0x30 => fulTX w :: (if fulReadsTY false (fulFN w) || fulSC w == 2 then [fulTY w] else [])
  | 0x31 => castTX w :: ((if castSC w == 2 then [castTY w] else []) ++ (if castGrad w then [castTZ w + 1] else []))
  | 0x40 => [updTW w, updTG w] ++ (if updAlg w ≤ 1 then [updTM1 w] else []) ++ (if updAlg w = 0 then [updTM2 w] else [])
      ++ (if updEma w then [updTE w] else []) ++ (if updKeep w then [updTR w] else [])
  | 0x50 => [attTQ w, attTK w, attTV w]
  | 0x60 => if pickFN w = 1 then [pickTSRC w] else if pickFN w = 4 ∧ pickTSRC w ≠ 0 then [pickTSRC w, pickTSRC w + 1] else []
  | 0x70 => apxTIN w :: (if apxKind w then [apxTML w] else [])
  | 0x80 => if xferColl w = 1 then [] else if xferColl w = 5 ∧ xferTX w = 0 then [] else [xferTX w]
  | _ => []

/-- Descriptors through which an operation word writes tiles. -/
def opWrites (w : Nat) : List Nat :=
  match opc w with
  | 0x20 => [mmTC w]
  | 0x30 => [fulTZ w]
  | 0x31 => castTZ w :: (if castGrad w then [castTZ w + 2] else [])
  | 0x40 => [updTW w + 8, updTQ w] ++ (if updAlg w ≤ 1 then [updTM1 w + 8] else [])
      ++ (if updAlg w = 0 then [updTM2 w + 8] else []) ++ (if updEma w then [updTE w + 8] else [])
      ++ (if updKeep w then [updTR w + 8] else [updTR w])
  | 0x50 => attTO w :: (if attSplit w then [attTO w + 1] else [])
  | 0x60 => if pickFN w = 0 then [pickTDST w]
      else if pickFN w = 4 then [pickTDST w, pickTDST w + 1] ++ (if pickTSEG w ≠ 0 then [pickTSEG w] else []) else []
  | 0x70 => [apxTOUT w]
  | 0x80 => if xferColl w = 0 then [] else if xferColl w = 5 ∧ xferTZ w = 0 then [] else [xferTZ w]
  | 0x90 => if tierFN w ≤ 1 then [tierTZ w] else []
  | _ => []

/-- Other descriptors an operation word names: raw regions, tables and Bench sources of the picker. -/
def opOthers (w : Nat) : List Nat :=
  match opc w with
  | 0x31 => if castOmap w then [castTM w] else []
  | 0x40 => [15]
  | 0x50 => if attTPG w ≠ 0 then [attTPG w] else []
  | 0x60 => pickTIDX w ::
      ((if pickFN w = 2 then [pickTSEG w] else []) ++ (if pickFN w = 0 ∨ pickFN w = 2 then [pickTSRC w] else [])
       ++ (if pickFN w = 1 ∨ pickFN w = 2 ∨ pickFN w = 3 then [pickTDST w] else []))
  | _ => []

/-- The operation words (not structural). -/
def isOp (w : Nat) : Bool :=
  let o := opc w
  o == 0x20 || o == 0x21 || o == 0x30 || o == 0x31 || o == 0x40 || o == 0x50 || o == 0x60 || o == 0x70 || o == 0x80 || o == 0x90

/-- Operation words permitted for a role (R124). -/
def roleAllows (role o : Nat) : Bool :=
  match role with
  | 1 => o == 0x20 || o == 0x21 || o == 0x60
  | 2 => o == 0x30
  | 3 => o == 0x60
  | 4 => o == 0x31 || o == 0x30
  | 5 => o == 0x40
  | 6 => o == 0x50 || o == 0x21 || o == 0x60
  | 7 => o == 0x70
  | 8 => o == 0x80
  | 9 => o == 0x90
  | _ => false

/-- The RSVD bits of a word, all zero (R127), for a defined opcode; false for a reserved opcode. -/
def rsvdOk (w : Nat) : Bool :=
  match opc w with
  | 0x01 => bits w 52 48 == 0 && bits w 23 0 == 0
  | 0x02 => bits w 52 0 == 0
  | 0x03 => bits w 54 0 == 0
  | 0x04 => bits w 49 32 == 0
  | 0x10 => true
  | 0x11 => true
  | 0x12 => bits w 8 0 == 0
  | 0x13 => bits w 12 0 == 0
  | 0x20 => bits w 18 0 == 0
  | 0x21 => bits w 9 0 == 0
  | 0x30 => bits w 9 0 == 0
  | 0x31 => bits w 34 0 == 0
  | 0x40 => bits w 8 0 == 0
  | 0x50 => true
  | 0x60 => bits w 32 0 == 0
  | 0x70 => bits w 31 0 == 0
  | 0x80 => bits w 26 0 == 0
  | 0x90 => bits w 17 0 == 0
  | _ => false

/-- What decoding knows of the placement: the role the plan gives, and which port halves its CHANNELS records bind
for this station. -/
structure DraftEnv where
  role : Nat
  boundIn : List Nat
  boundOut : List Nat
deriving DecidableEq, Repr

/-- A descriptor's own fields (R131, R133, R60, R115), once its four words stand. -/
def descFieldsOk (d : Desc) : Bool :=
  d.kind != 3 && decide (1 ≤ d.depth) && decide (d.base + d.depth ≤ 512) && (d.kind == 1 || d.ch == 0) &&
  (if d.kind = 2 then d.fmt == 0 && d.scale == 0 && d.rowMap == 0 && d.colMap == 0 && d.planeMap == 0 && d.readers == 0
   else match Fmt.ofCode d.fmt with
     | some f => handleOk f d.handle
     | none => false)

/-- The fields of a TDESC_A alone that can already be judged (R131, R60, R115). -/
def descAOk (w : Nat) : Bool :=
  let kind := bits w 23 22
  kind != 3 && bits w 12 4 != 0 && decide (bits w 21 13 + bits w 12 4 ≤ 512) && (kind == 1 || bits w 3 0 == 0) &&
  (if kind = 2 then bits w 51 48 == 0 && bits w 47 24 == 0
   else match Fmt.ofCode (bits w 51 48) with
     | some f => handleOk f (Handle.ofNat (bits w 47 24))
     | none => false)

/-- A raw region's TDESC_C against its TDESC_A: maps and READERS zero (R133). -/
def rawPairOk (a c : Nat) : Bool :=
  bits a 23 22 != 2 || (bits c 51 46 == 0 && bits c 45 40 == 0 && bits c 39 34 == 0 && bits c 33 26 == 0)

/-- TSCALE of an output handle with TPRES 1 must be positive and finite (R104). -/
def outScaleOk (d : Desc) : Bool := !d.handle.tpres || !(tscaleVal d.handle).isNan

/-- SC against the output handle: 01 needs a block scale, 00 needs none, 10 only where `ten` (R148). -/
def scOk (sc : Nat) (d : Desc) (ten : Bool) : Bool :=
  match sc with
  | 0 => d.handle.bfmt == 0
  | 1 => d.handle.bfmt != 0
  | 2 => ten
  | _ => false

/-- READERS and port binding of a descriptor read or written (R108, R133, R148). -/
def readUseOk (env : DraftEnv) (d : Desc) : Bool :=
  d.kind != 1 || (d.readers != 0 && env.boundIn.contains d.ch)

def writeUseOk (env : DraftEnv) (d : Desc) : Bool :=
  outScaleOk d &&
  (if d.kind = 1 then d.readers == 0 && env.boundOut.contains d.ch else if d.kind = 0 then d.readers != 0 else true)

/-- A BF16 immediate as DROPOUT's keep probability (R271): from 2^-8 to 1. -/
def keepProbOk (imm : Nat) : Bool :=
  match Fmt.value .bf16 false imm with
  | .fin false m => decide (pow2 (-8) ≤ m) && decide (m ≤ 1)
  | _ => false

def isBf16Plain (d : Desc) : Bool := d.fmt == 1 && d.handle.bfmt == 0

/-- The format conditions of each operation word, with its descriptors at hand (R137, R148, R169, R245, R271, R298, R362). -/
def opFormOk (dsc : Nat → Option Desc) (w : Nat) : Bool :=
  let on (t : Nat) (p : Desc → Bool) : Bool := match dsc t with
    | some d => p d
    | none => false
  match opc w with
  | 0x20 =>
    mmKB w != 0 && (mmPre w || mmTP w == 0) && on (mmTC w) (fun d => scOk (mmSC w) d false) &&
    on (mmTA w) (fun a => on (mmTB w) (fun b => a.format.isInt == b.format.isInt)) &&
    (!mmPre w || on (mmTP w) (fun p => on (mmTC w) (fun c => p.format.isInt == c.format.isInt))) &&
    (!mmSplit w || (on (mmTC w) (fun c => c.fmt == (if mmPfmt w then 0 else 1) && c.handle.bfmt == 0)))
  | 0x30 =>
    decide (fulFN w ≤ 0x15) && (fulGroups (fulFN w) || fulG w == 0) && on (fulTZ w) (fun d => scOk (fulSC w) d true) &&
    (fulFN w != 0x13 || keepProbOk (fulImm w))
  | 0x31 =>
    on (castTZ w) (fun z => scOk (castSC w) z true &&
      (!castGrad w || (castRnd w && castSC w != 0 && decide (castTZ w ≤ 13) && z.fmt == 2 && z.scale == 0x21 &&
        on (castTZ w + 1) (fun a => a.fmt == 3 && a.scale == 0x21 && a.kind != 2) &&
        on (castTZ w + 2) (fun a => a.fmt == 3 && a.scale == 0x21 && a.kind != 2))) &&
      (if castOmap w then castSC w != 0 && z.handle.bfmt == 1 && on (castTM w) (fun m => m.kind == 2) else castTM w == 0) &&
      (castSC w != 2 || on (castTY w) (fun y => y.handle.bfmt == z.handle.bfmt && y.handle.geom == z.handle.geom &&
        y.handle.bsize == z.handle.bsize)))
  | 0x40 =>
    let used := updTW w :: ((if updAlg w ≤ 1 then [updTM1 w] else []) ++ (if updAlg w = 0 then [updTM2 w] else [])
      ++ (if updEma w then [updTE w] else []))
    let part := used ++ (if updKeep w then [updTR w] else [])
    let fields := used ++ [updTG w, updTR w, updTQ w]
    decide (updAlg w ≤ 2) &&
    part.all (fun t => decide (t ≤ 6) && (dsc (t + 8)).isSome && !fields.contains (t + 8)) &&
    on 15 (fun d => d.kind == 2) &&
    used.all (fun t => on t (fun d => isBf16Plain d && !d.handle.tpres) && on (t + 8) (fun d => isBf16Plain d && !d.handle.tpres)) &&
    on (updTG w) (fun d => d.fmt == 2 && d.scale == 0x21) && on (updTR w) (fun d => d.fmt == 3 && d.scale == 0x21) &&
    (!updKeep w || on (updTR w + 8) (fun d => d.fmt == 3 && d.scale == 0x21)) &&
    on (updTQ w) (fun d => d.fmt == 3 && (d.handle.bfmt == 1 || d.handle.bfmt == 2) && decide (32 ≤ d.handle.b) && !d.handle.tpres && d.epochSrc == 1) &&
    on (updTW w + 8) (fun d => d.epochSrc == 1) &&
    on (updTW w) (fun m => (part ++ part.map (· + 8) ++ [updTG w, updTQ w, updTR w]).all
      (fun t => on t (fun d => d.sr == m.sr && d.sp == m.sp)))
  | 0x50 =>
    on (attTO w) (fun o => scOk (attSC w) o false &&
      (!attSplit w || (attTO w != 15 && !attFin w && attSC w == 0 && (o.fmt == 0 || o.fmt == 1) && o.handle.bfmt == 0 &&
        on (attTO w + 1) isBf16Plain))) &&
    on (attTQ w) (fun q => (q.sr == 1 || q.sr == 2 || q.sr == 3) &&
      on (attTK w) (fun k => q.format.isInt == k.format.isInt &&
        (attTPG w == 0 || (k.fmt == 3 && k.scale == 0x22)))) &&
    on (attTV w) (fun v => !v.format.isInt && (attTPG w == 0 || (v.fmt == 3 && v.scale == 0x26))) &&
    attMask w != 3 && (attMask w != 2 || attWin w != 0) &&
    (!attGnom w || (attTPG w != 0 && !attSplit w && attMask w != 2)) &&
    (attTPG w == 0 || on (attTPG w) (fun d => d.kind == 2))
  | 0x60 =>
    decide (pickFN w ≤ 4) && on (pickTIDX w) (fun d => d.kind == 2) &&
    (match pickFN w with
     | 0 => pickTSEG w == 0 && on (pickTDST w) (fun d => d.kind == 0)
     | 1 => pickTSEG w == 0 && pickRED w != 3 && on (pickTDST w) (fun d => d.kind == 2) && on (pickTSRC w) (fun d => d.kind == 0)
     | 2 => pickTSEG w != 0 && on (pickTDST w) (fun d => d.kind == 2) &&
            on (pickTSRC w) (fun d => d.kind != 1 && (d.kind != 0 || !pickDedup w))
     | 3 => pickTSEG w == 0 && on (pickTDST w) (fun d => d.kind == 2)
     | _ => pickRED w == 0 && !pickDedup w && on (pickTDST w) (fun d => d.kind == 0) &&
            on (pickTDST w + 1) (fun d => d.kind == 0) &&
            (pickTSEG w == 0 || on (pickTSEG w) (fun d => d.kind == 0 && isBf16Plain d)))
  | 0x70 =>
    on (apxTOUT w) (fun d => scOk (apxSC w) d false) &&
    on (apxTIN w) (fun i => i.kind == 1 && (if apxKind w then on (apxTML w) (fun l => l.depth == i.depth) else apxTML w == 0))
  | 0x80 =>
    decide (xferColl w ≤ 6) && decide (xferAxis w ≤ 5) && xferDir w != 3 && (xferColl w != 0 || xferTZ w == 0) &&
    (xferColl w != 1 || xferTX w == 0) && (xferColl w != 6 || xferDir w == 0) &&
    (match opReads w, opWrites w with
     | [x], [z] => on x (fun a => on z (fun b => a.fmt == b.fmt && a.scale == b.scale))
     | _, _ => true) &&
    ((xferColl w != 2 && xferColl w != 3) ||
      on (xferTX w) (fun d => (d.fmt == 0 || d.fmt == 1) && d.handle.bfmt == 0 && !d.handle.tpres))
  | 0x90 => decide (tierFN w ≤ 3)
  | _ => true

/-- A FIN against the word before it (R138, R143, R148). -/
def finOk (dsc : Nat → Option Desc) (prev w : Nat) : Bool :=
  decide (fulFN w ≤ 0x15) && fulTX w == 0 && fulTZ w == 0 && fulG w == 0 && !fulRnd w && fulSC w == 0 &&
  (fulFN w != 0x13 || keepProbOk (fulImm w)) &&
  (if opc prev = 0x20 then mmFin prev && !mmSplit prev && (fulFN w != 0x14 || mmSpan prev % 128 == 0)
   else if opc prev = 0x50 then attFin prev && (fulFN w != 0x14 || (match dsc (attTQ prev) with
      | some q => q.sr == 2
      | none => false))
   else false)

/-- What the ascending decode has seen so far. -/
structure DecSt where
  seen : List Nat := []
  prev : Nat := 0
  loops : List (Nat × Nat) := []
  ended : Bool := false
deriving DecidableEq, Repr

/-- One word of the ascending decode: the new knowledge, or none where words 0 to this one break a condition. -/
def decWord (env : DraftEnv) (i : Nat) (w : Nat) (st : DecSt) : Option DecSt :=
  let o := opc w
  let pendingFin := (opc st.prev == 0x20 && mmFin st.prev) || (opc st.prev == 0x50 && attFin st.prev)
  let nxt := { st with seen := st.seen ++ [w], prev := w }
  if !rsvdOk w || st.ended || (i == 0) != (o == 0x04) then none
  else if pendingFin && o != 0x21 then none
  else if o = 0x04 then (if headRole w == env.role then some nxt else none)
  else if o = 0x01 then
    if loopCount w = 0 ∨ 8 ≤ st.loops.length ∨ st.loops.any (fun l => l.1 == loopCtr w) then none
    else some { nxt with loops := (loopCtr w, loopCount w) :: st.loops }
  else if o = 0x02 then
    match st.loops with
    | l :: t => if l.1 = loopCtr w then some { nxt with loops := t } else none
    | [] => none
  else if o = 0x03 then
    if st.loops ≠ [] then none else some { nxt with ended := true }
  else if 0x10 ≤ o ∧ o ≤ 0x13 then
    let t := bits w 55 52
    if st.loops ≠ [] ∨ (descPart st.seen t (o - 0x10)).isSome then none
    else if o = 0x10 && !descAOk w then none
    else
      match descPart nxt.seen t 0, descPart nxt.seen t 2 with
      | some a, some c => if rawPairOk a c then some nxt else none
      | _, _ => some nxt
  else
    let dsc := descOf st.seen
    if !roleAllows env.role o then none
    else if o = 0x21 && !finOk dsc st.prev w then none
    else if !(opReads w ++ opWrites w ++ opOthers w).all (fun t => (dsc t).isSome) then none
    else if !(opReads w).all (fun t => match dsc t with
        | some d => readUseOk env d
        | none => false) then none
    else if !(opWrites w).all (fun t => match dsc t with
        | some d => writeUseOk env d
        | none => false) then none
    else if !opFormOk dsc w then none
    else some nxt

/-- Decode the words in ascending order from index `i`: the first offending word, if any. A draft with no END is
reported at its last word (R148). -/
def decFrom (env : DraftEnv) : Nat → List Nat → DecSt → Option Nat
  | i, [], st => if st.ended then none else some (i - 1)
  | i, w :: ws, st =>
    match decWord env i w st with
    | some st' => decFrom env (i + 1) ws st'
    | none => some i

/-! ### Page walks and paged ATTs (R231) -/

def pageWord (w : Nat) : Bool := opc w == 0x60 && pickFN w == 4
def pagedAtt (w : Nat) : Bool := opc w == 0x50 && attTPG w != 0

/-- A list `n` times over. -/
def timesOver (n : Nat) (l : List (Nat × Nat)) : List (Nat × Nat) := if l.isEmpty then [] else (List.replicate n l).flatten

/-- The words that `sel` takes, with their numbers, in the order in which a run of the draft executes them (R129). `st`: the open
loops with what came before each; `acc`: the innermost body so far. -/
def execOrder (sel : Nat → Bool) : Nat → List Nat → List (Nat × List (Nat × Nat)) → List (Nat × Nat) → List (Nat × Nat)
  | _, [], st, acc => st.foldl (fun a f => f.2 ++ timesOver f.1 a) acc
  | i, w :: ws, st, acc =>
    if opc w = 0x01 then execOrder sel (i + 1) ws ((loopCount w, acc) :: st) []
    else if opc w = 0x02 then
      match st with
      | f :: fs => execOrder sel (i + 1) ws fs (f.2 ++ timesOver f.1 acc)
      | [] => execOrder sel (i + 1) ws [] acc
    else execOrder sel (i + 1) ws st (if sel w then acc ++ [(i, w)] else acc)

/-- Two descriptors name the same ring. -/
def sameRing (a b : Option Desc) : Bool :=
  match a, b with
  | some x, some y => x.kind == y.kind && x.base == y.base && x.depth == y.depth
  | _, _ => false

/-- A PICK FN 4 and the paged ATT of the same number in the run pair under R231. -/
def pageMatch (dsc : Nat → Option Desc) (p a : Nat) : Bool :=
  pickTIDX p == attTPG a && sameRing (dsc (pickTDST p)) (dsc (attTK a)) && attTV a == pickTDST p + 1 && (attGnom a == (pickTSEG p != 0))

/-- The word at which page walks and paged ATTs that do not pair are reported: the later of the two, or END where one is left
without a partner (R148, R231). -/
def pairRefused (words : List Nat) : Option Nat :=
  let ps := execOrder pageWord 0 words [] []
  let as := execOrder pagedAtt 0 words [] []
  let bad := ((ps.zip as).filter (fun e => !pageMatch (descOf words) e.1.2 e.2.2)).map (fun e => max e.1.1 e.2.1)
  (bad ++ (if ps.length = as.length then [] else (words.findIdx? (fun w => opc w == 0x03)).toList)).min?

/-- The first offending word of a draft (R148), if it is refused. -/
def draftRefused (env : DraftEnv) (words : List Nat) : Option Nat :=
  match decFrom env 0 words {}, pairRefused words with
  | some a, some b => some (min a b)
  | some a, none => some a
  | none, b => b

end Sys2Proof.Machine
end

