-- ==== Sys2Proof/Machine/Plan.lean ====
section
/-!
DEFINITION. Fethilen plans (R172 to R207): the records as data, their parsing from plan bytes, and the loader's
refusal conditions (R215).
-/
namespace Sys2Proof.Machine

/-- A STALL record of a device plan (R180). Quotas in MiB. -/
structure StallRec where
  stall : Nat
  reqSig : Bool
  stage : Nat
  clusters : BitVec 96
  hopFirst : Nat
  hopCount : Nat
  shelf : Nat
  store : Nat
  cellar : Nat
  wStore : Nat
  wShelf : Nat
  wRing : Nat
  wLink : Nat
  keyId : W64
deriving DecidableEq, Repr

/-- One axis of the AXES record (R182). -/
structure AxisRec where
  extent : Nat := 1
  coord : Nat := 0
  portPlus : Nat := 255
  portMinus : Nat := 255
  wrap : Bool := false
deriving DecidableEq, Repr

/-- The AXES record; a plan without one makes the module stand alone (R183). -/
structure AxesRec where
  deviceId : Nat := 0
  axes : List AxisRec := List.replicate 6 {}
deriving DecidableEq, Repr

/-- A loaded device plan. -/
structure DevPlan where
  stalls : List StallRec := []
  axes : AxesRec := {}
  /-- The plan has an AXES section (R184). -/
  hasAxes : Bool := false
  planId : W64 := 0
  digest : BitVec 256 := 0
deriving DecidableEq, Repr

/-- A STATIONS record (R186). -/
structure Station where
  num : Nat
  role : Nat
  looms : List Nat
  runHop : Nat
  /-- none for 0xFFFF_FFFF -/
  cplHop : Option Nat
  draft : List Nat
deriving DecidableEq, Repr

/-- A CHANNELS record (R190). -/
structure Chan where
  num : Nat
  src : Nat
  dst : Nat
  srcPort : Nat
  dstPort : Nat
  map : Nat
  aligned : Bool
  srcMember : Nat
  dstMember : Nat
deriving DecidableEq, Repr

/-- A REGIONS record (R196). -/
structure Region where
  num : Nat
  cellar : Bool
  interleave : Nat
  die : Nat
  write : Bool
  migrate : Bool
  spill : Bool
  hint : Nat
  va : Nat
  len : Nat
deriving DecidableEq, Repr

/-- A ROUTE CARD record (R199). -/
structure RouteEntry where
  layer : Nat
  region : Nat
  action : Nat
  hint : Nat
  next : Nat
  lead : Nat
  offset : Nat
  len : Nat
  rowBase : Nat
  colBase : Nat
  planeBase : Nat
  sr : Nat
deriving DecidableEq, Repr

/-- A ROSTER record (R201): members are (DEVICE_ID, stall) pairs in rank order. -/
structure Roster where
  group : Nat
  axis : Nat
  epoch : Nat
  members : List (Nat × Nat)
deriving DecidableEq, Repr

/-- A RAW record (R205); `member` none for every member. -/
structure RawRec where
  station : Nat
  member : Option Nat
  slot : Nat
  offset : Nat
  data : List Byte
deriving DecidableEq, Repr

/-- A stall plan (R172). -/
structure StallPlan where
  stations : List Station := []
  chans : List Chan := []
  regions : List Region := []
  keeps : List (Nat × Nat) := []
  route : List RouteEntry := []
  rosters : List Roster := []
  seeds : List (Nat × W64) := []
  coefs : List (Nat × Nat × List Nat) := []
  raws : List RawRec := []
  planId : W64 := 0
  digest : BitVec 256 := 0
deriving DecidableEq, Repr

/-! ### Bytes of a plan -/

def u8 (b : List Byte) (i : Nat) : Nat := (b.getD i 0).toNat
def u16 (b : List Byte) (i : Nat) : Nat := u8 b i + 256 * u8 b (i + 1)
def u32 (b : List Byte) (i : Nat) : Nat := u16 b i + 65536 * u16 b (i + 2)
def u64 (b : List Byte) (i : Nat) : Nat := u32 b i + 2 ^ 32 * u32 b (i + 4)
def slice (b : List Byte) (i n : Nat) : List Byte := (b.drop i).take n
def allZero (b : List Byte) (i n : Nat) : Bool := (slice b i n).all (· == 0)

/-- A section-table entry (R178). -/
structure Sect where
  type : Nat
  off : Nat
  len : Nat
  count : Nat
deriving DecidableEq, Repr

/-- A record: its section, its index in it, its type, and its bytes. -/
structure PRec where
  sect : Nat
  idx : Nat
  type : Nat
  bytes : List Byte
deriving DecidableEq, Repr

/-- A refusal as SCH_PLAN_FAIL reports it (R215). -/
structure Refuse where
  code : Byte
  section_ : Byte
  record : W16
  word : BitVec 10
deriving DecidableEq, Repr

def refuse (code sect rec word : Nat) : Refuse :=
  ⟨BitVec.ofNat 8 code, BitVec.ofNat 8 sect, BitVec.ofNat 16 rec, BitVec.ofNat 10 word⟩

/-- The section table of a plan. -/
def planSects (b : List Byte) : List Sect :=
  (List.range (min (u16 b 18) 9)).map (fun i =>
    let o := 128 + 16 * i
    ⟨u16 b o, u32 b (o + 4), u32 b (o + 8), u32 b (o + 12)⟩)

/-- The records of a section, laid end to end from its offset (R179): at most COUNT of them, while a nonzero SIZE
leads on inside the section. -/
def sectRecs (b : List Byte) (s : Sect) : Nat → Nat → Nat → List PRec
  | 0, _, _ => []
  | n + 1, i, off =>
    let size := 8 * u16 b (off + 2)
    if size = 0 ∨ s.off + s.len < off + size then []
    else ⟨s.type, i, u16 b off, slice b off size⟩ :: sectRecs b s n (i + 1) (off + size)

def recsOf (b : List Byte) (s : Sect) : List PRec := sectRecs b s (min s.count (s.len / 8)) 0 s.off

/-- All records of the section of a type. -/
def recsOfType (b : List Byte) (t : Nat) : List PRec :=
  ((planSects b).filter (fun s => s.type == t)).flatMap (recsOf b)

/-- KEYID of a public key (R206). -/
def keyIdOf (key : List Byte) : W64 := (Config.sha3_256 key).setWidth 64

/-! ### Records as data -/

def parseStall (r : List Byte) : StallRec :=
  { stall := u8 r 4, reqSig := bit (u8 r 5) 0, stage := u8 r 6, clusters := BitVec.ofNat 96 (leNat (slice r 8 12)),
    hopFirst := u32 r 20, hopCount := u32 r 24, shelf := u32 r 28, store := u32 r 32, cellar := u32 r 36,
    wStore := u8 r 40, wShelf := u8 r 41, wRing := u8 r 42, wLink := u8 r 43, keyId := BitVec.ofNat 64 (u64 r 48) }

def parseAxes (r : List Byte) : AxesRec :=
  { deviceId := u16 r 4,
    axes := (List.range 6).map (fun a =>
      { extent := u16 r (8 + 8 * a) + 1, coord := u16 r (10 + 8 * a), portPlus := u8 r (12 + 8 * a),
        portMinus := u8 r (13 + 8 * a), wrap := bit (u8 r (14 + 8 * a)) 0 }) }

def stationPad (m : Nat) : Nat := (24 + 2 * m + 7) / 8 * 8

def parseStation (r : List Byte) : Station :=
  let m := u16 r 8
  { num := u16 r 4, role := u8 r 6, looms := (List.range m).map (fun i => u16 r (24 + 2 * i)), runHop := u32 r 12,
    cplHop := if u32 r 16 = 0xFFFFFFFF then none else some (u32 r 16),
    draft := (List.range (u16 r 10)).map (fun i => u64 r (stationPad m + 8 * i)) }

def parseChan (r : List Byte) : Chan :=
  { num := u16 r 4, src := u16 r 6, dst := u16 r 8, srcPort := u8 r 10, dstPort := u8 r 11, map := u8 r 12,
    aligned := bit (u8 r 13) 0, srcMember := u16 r 16, dstMember := u16 r 18 }

def parseRegion (r : List Byte) : Region :=
  { num := u16 r 4, cellar := u8 r 6 == 1, interleave := u8 r 7, die := u8 r 8, write := bit (u8 r 9) 0,
    migrate := bit (u8 r 9) 1, spill := bit (u8 r 9) 2, hint := bits (u8 r 9) 4 3, va := u64 r 16, len := u64 r 24 }

def parseRoute (r : List Byte) : RouteEntry :=
  { layer := u32 r 4, region := u16 r 8, action := u8 r 10, hint := u8 r 11, next := u16 r 12, lead := u16 r 14,
    offset := u64 r 16, len := u32 r 24, rowBase := u32 r 32 % 2 ^ 24, colBase := u16 r 36, planeBase := u16 r 38 % 4096,
    sr := u16 r 40 }

def parseRoster (r : List Byte) : Roster :=
  { group := u16 r 4, axis := u8 r 6, epoch := u32 r 8,
    members := (List.range (u32 r 12)).map (fun i => (u16 r (16 + 4 * i), u8 r (18 + 4 * i))) }

def parseRaw (r : List Byte) : RawRec :=
  { station := u16 r 4, member := if u16 r 6 = 0xFFFF then none else some (u16 r 6), slot := u16 r 8, offset := u16 r 10,
    data := slice r 16 (u32 r 12) }

def planDigest (b : List Byte) : BitVec 256 := BitVec.ofNat 256 (leNat (slice b 32 32))

def parseDev (b : List Byte) : DevPlan :=
  { stalls := ((recsOfType b 4).filter (fun r => r.type == 0x401)).map (fun r => parseStall r.bytes),
    axes := match recsOfType b 6 with
      | r :: _ => parseAxes r.bytes
      | [] => {},
    hasAxes := !(recsOfType b 6).isEmpty, planId := BitVec.ofNat 64 (u64 b 24), digest := planDigest b }

def parseStallPlan (b : List Byte) : StallPlan :=
  let cons := recsOfType b 8
  { stations := (recsOfType b 1).map (fun r => parseStation r.bytes),
    chans := (recsOfType b 2).map (fun r => parseChan r.bytes),
    regions := (recsOfType b 3).map (fun r => parseRegion r.bytes),
    keeps := (recsOfType b 4).map (fun r => (u16 r.bytes 4, u32 r.bytes 8)),
    route := (recsOfType b 5).map (fun r => parseRoute r.bytes),
    rosters := (recsOfType b 7).map (fun r => parseRoster r.bytes),
    seeds := (cons.filter (fun r => r.type == 0x801)).map (fun r => (u16 r.bytes 4, BitVec.ofNat 64 (u64 r.bytes 8))),
    coefs := (cons.filter (fun r => r.type == 0x802)).map (fun r =>
      (u16 r.bytes 4, u8 r.bytes 6, (List.range 16).map (fun i => u16 r.bytes (8 + 2 * i)))),
    raws := (cons.filter (fun r => r.type == 0x803)).map (fun r => parseRaw r.bytes),
    planId := BitVec.ofNat 64 (u64 b 24), digest := planDigest b }

/-! ### Channels of a plan -/

def StallPlan.station (p : StallPlan) (n : Nat) : Option Station := p.stations.find? (fun t => t.num == n)

def StallPlan.region (p : StallPlan) (n : Nat) : Option Region := p.regions.find? (fun r => r.num == n)

def Station.m (t : Station) : Nat := t.looms.length

def Station.desc (t : Station) (d : Nat) : Option Desc := descOf t.draft d

/-- The (sending member, receiving member) pairs that a record connects (R190). -/
def chanPairs (c : Chan) (ms md : Nat) : List (Nat × Nat) :=
  match c.map with
  | 0 => (List.range (min ms md)).map (fun m => (m, m))
  | 1 => (List.range ms).map (fun m => (m, c.dstMember))
  | 2 => (List.range md).map (fun m => (c.srcMember, m))
  | 3 => [(c.srcMember, c.dstMember)]
  | 4 => (List.range ms).flatMap (fun a => (List.range md).map (fun b => (a, b)))
  | _ => []

/-- A connection between two looms: (sending loom, output port, receiving loom, input port, aligned). -/
structure Conn where
  sndLoom : Nat
  outPort : Nat
  rcvLoom : Nat
  inPort : Nat
  aligned : Bool
  chan : Nat
deriving DecidableEq, Repr

/-- Every loom-to-loom connection of a plan, in CHANNELS record order and then member order. -/
def StallPlan.conns (p : StallPlan) : List Conn :=
  p.chans.flatMap (fun c =>
    match p.station c.src, p.station c.dst with
    | some a, some b =>
      (chanPairs c a.m b.m).filterMap (fun q =>
        match a.looms[q.1]?, b.looms[q.2]? with
        | some x, some y => some ⟨x, c.srcPort, y, c.dstPort, c.aligned, c.num⟩
        | _, _ => none)
    | _, _ => [])

/-- Input ports of a station that some CHANNELS record reaches, and output ports. -/
def StallPlan.boundIn (p : StallPlan) (n : Nat) : List Nat := (p.chans.filter (fun c => c.dst == n)).map (·.dstPort)
def StallPlan.boundOut (p : StallPlan) (n : Nat) : List Nat := (p.chans.filter (fun c => c.src == n)).map (·.srcPort)

def StallPlan.env (p : StallPlan) (t : Station) : DraftEnv := ⟨t.role, p.boundIn t.num, p.boundOut t.num⟩

/-- Descriptors of KIND 01 that a draft's operations read (`rd`) or write. -/
def chanDescs (t : Station) (rd : Bool) : List Desc :=
  let ops := t.draft.filter isOp
  let ts := (ops.flatMap (fun w => if rd then opReads w else opWrites w)).eraseDups
  (ts.filterMap t.desc).filter (fun d => d.kind == 1)

/-- A station put in its place in a list in order of station number. -/
def insStation (t : Station) : List Station → List Station
  | [] => [t]
  | u :: us => if t.num ≤ u.num then t :: u :: us else u :: insStation t us

/-- The update-role looms of the stall, in order of station number and then member (R294). -/
def updLooms (p : StallPlan) : List Nat :=
  ((p.stations.filter (fun t => t.role == 5)).foldr insStation []).flatMap (fun t => t.looms)

/-- The network port of the station's looms holds spill places where the plan has a SPILL region: TG is a channel ring (R294). -/
def spills (t : Station) : Bool :=
  t.role == 5 && t.draft.any (fun w => opc w == 0x40 && (match t.desc (updTG w) with
    | some d => d.kind == 1
    | none => false))

/-- Image length of a tile in a tier (R327). -/
def imageLen (d : Desc) : Nat :=
  let s := if d.handle.bfmt = 0 then 0 else 4096 / d.handle.b
  64 * ((512 * d.format.width + s + 16 + 63) / 64)

/-- Producers of an APX: the sending members that reach TIN's input half on one loom (R352). -/
def apxProducers (p : StallPlan) (loom port : Nat) : List Conn :=
  p.conns.filter (fun c => c.rcvLoom == loom && c.inPort == port)

/-! ### The refusal conditions of R215 -/

/-- What the loader knows beside the plan's bytes. -/
structure PlanEnv where
  dev : Bool
  stall : Nat
  viaPf : Bool
  lenReg : Nat
  stageBytes : Nat
  opKey : Option (List Byte)
  stallKeys : List (List Byte)
  devPlan : DevPlan
  /-- stall numbers that have a plan loaded (STATE not NONE), or whose released capacity is still being zeroed -/
  withPlan : List Nat
  zeroing : List Nat
  /-- what each stall's loaded plan uses of its SHELF (KEEP), STORE and CELLAR quotas, in MiB (R184) -/
  used : List (Nat × Nat × Nat × Nat)
  cellarCap : Nat
  cellarMode : Nat
  /-- physical capacity holds the regions of the plan -/
  placeable : List Region → Bool

def firstSome : List (Option Refuse) → Option Refuse
  | [] => none
  | some r :: _ => some r
  | none :: t => firstSome t

/-- The first record of a list that fails the test, as a refusal. -/
def badRec (code : Nat) (l : List PRec) (ok : PRec → Bool) : Option Refuse :=
  (l.find? (fun r => !ok r)).map (fun r => refuse code (r.sect % 256) r.idx 0)

/-- Of refusals with one code, that of the first condition in plan order: by section-table entry, then by record (R215). -/
def planFirst (b : List Byte) (l : List (Option Refuse)) : Option Refuse :=
  let ts := (planSects b).map (·.type)
  let key (r : Refuse) : Nat := 65536 * ts.idxOf r.section_.toNat + r.record.toNat
  (l.filterMap id).foldl (fun a r => match a with
    | none => some r
    | some q => if key r < key q then some r else some q) none

def noDup (l : List Nat) : Bool := l.eraseDups.length == l.length

/-- Records of section `t` before this one. -/
def before (l : List PRec) (r : PRec) : List PRec := l.filter (fun x => decide (x.idx < r.idx))

def headerRefuse (e : PlanEnv) (b : List Byte) : Option Refuse :=
  let body := u32 b 8
  let total := u32 b 12
  firstSome [
    if u32 b 0 = 0x4C485446 then none else some (refuse 0x01 0 0 0),
    if u16 b 4 = 0x0300 then none else some (refuse 0x02 0 0 0),
    if e.dev then (if u16 b 6 = 1 ∧ e.viaPf ∧ u16 b 16 = 0xFFFF then none else some (refuse 0x03 0 0 0))
    else (if u16 b 6 = 2 ∧ u16 b 16 = e.stall then none else some (refuse 0x03 0 0 0)),
    if body % 8 = 0 ∧ total % 8 = 0 ∧ body ≤ total ∧ total = e.lenReg ∧ total ≤ e.stageBytes then none
    else some (refuse 0x04 0 0 0),
    if Config.sha3_256 ((slice b 0 body).zipIdx.map (fun e => if 32 ≤ e.2 ∧ e.2 < 64 then 0 else e.1)) = planDigest b then none
    else some (refuse 0x05 0 0 0)]

def needsSig (e : PlanEnv) : Bool :=
  e.dev || (match e.devPlan.stalls.find? (fun s => s.stall == e.stall) with
    | some s => s.reqSig
    | none => false)

/-- The keys that may sign the plan (R207): the operator key, and for a stall plan the key its STALL record names. -/
def planKeys (e : PlanEnv) : List (List Byte) :=
  e.opKey.toList ++ (if e.dev then [] else
    match e.devPlan.stalls.find? (fun s => s.stall == e.stall) with
    | some s => e.stallKeys.filter (fun k => keyIdOf k == s.keyId)
    | none => [])

def sigRefuse (e : PlanEnv) (b : List Byte) : Option Refuse :=
  match (planSects b).find? (fun s => s.type == 0xF) with
  | none => if needsSig e then some (refuse 0x06 0 0 0) else none
  | some _ =>
    let o := u32 b 8
    let r := slice b o 2448
    let ok := u32 b 12 - o == 2448 && (planSects b).all (fun s => s.type != 0xF || (s.len == 2448 && s.count == 1)) &&
      u16 r 2 == 306 && u16 r 4 == 1 && u16 r 6 == 2420 &&
      (planKeys e).any (fun k => keyIdOf k == BitVec.ofNat 64 (u64 r 8) &&
        Config.mldsaVerify k (natLe 32 (planDigest b).toNat) (slice r 16 2420))
    if ok then none else some (refuse 0x07 0xF 0 0)

/-- Section types permitted for the kind (R174). -/
def sectPermitted (dev : Bool) (t : Nat) : Bool :=
  if dev then t == 4 || t == 6 || t == 0xF else (decide (1 ≤ t) && decide (t ≤ 8) && t != 6) || t == 0xF

/-- Sections in ascending order without overlap, gaps zero, all but SIGNATURE within BODY_LEN (R178). -/
def sectsFrom (b : List Byte) (body total : Nat) : Nat → List Sect → Bool
  | at_, [] => allZero b at_ (body - at_)
  | at_, s :: t =>
    s.off % 8 == 0 && s.len % 8 == 0 && decide (at_ ≤ s.off) && allZero b at_ (s.off - at_) &&
    (if s.type = 0xF then t.isEmpty && s.off == body && s.off + s.len == total
     else decide (s.off + s.len ≤ body) && sectsFrom b body total (s.off + s.len) t)

def tableRefuse (e : PlanEnv) (b : List Byte) : Option Refuse :=
  let ss := planSects b
  let n := u16 b 18
  let ok := decide (1 ≤ n) && decide (n ≤ 9) && allZero b 20 4 && allZero b 64 64 &&
    (List.range n).all (fun i => u16 b (130 + 16 * i) == 0) &&
    ss.all (fun s => sectPermitted e.dev s.type) && noDup (ss.map (·.type)) &&
    ss.any (fun s => if e.dev then s.type == 4 else s.type == 1 && decide (1 ≤ s.count)) &&
    ss.all (fun s => s.type != 6 || s.count == 1) &&
    sectsFrom b (u32 b 8) (u32 b 12) ((128 + 16 * n + 7) / 8 * 8) ss
  if ok then none else some (refuse 0x08 0 0 0)

/-- The record's type belongs to its section, its SIZE is that of its layout, and its RSVD bytes and bits are zero. -/
def recordOk (dev : Bool) (r : PRec) : Bool :=
  let b := r.bytes
  let n := b.length
  match r.sect, r.type with
  | 4, 0x401 => dev && n == 64 && bits (u8 b 5) 7 1 == 0 && u8 b 7 == 0 && allZero b 44 4 && allZero b 56 8
  | 4, 0x402 => !dev && n == 16 && allZero b 6 2 && allZero b 12 4
  | 6, 0x601 => n == 64 && allZero b 6 2 && allZero b 56 8 &&
      (List.range 6).all (fun a => bits (u8 b (14 + 8 * a)) 7 1 == 0 && u8 b (15 + 8 * a) == 0)
  | 1, 0x101 => n == stationPad (u16 b 8) + 8 * u16 b 10 && u8 b 7 == 0 && allZero b 20 4 &&
      allZero b (24 + 2 * u16 b 8) (stationPad (u16 b 8) - (24 + 2 * u16 b 8))
  | 2, 0x201 => n == 24 && bits (u8 b 13) 7 1 == 0 && allZero b 14 2 && allZero b 20 4 &&
      (u8 b 12 == 2 || u8 b 12 == 3 || u16 b 16 == 0) && (u8 b 12 == 1 || u8 b 12 == 3 || u16 b 18 == 0)
  | 3, 0x301 => n == 40 && bits (u8 b 9) 7 5 == 0 && allZero b 10 6 && allZero b 32 8 && (u8 b 7 == 3 || u8 b 8 == 0) &&
      bits (u64 b 16) 63 52 == 0
  | 5, 0x501 => n == 48 && bits (u8 b 11) 7 2 == 0 && allZero b 28 4 && u8 b 35 == 0 && allZero b 42 6 && bits (u16 b 38) 15 12 == 0
  | 7, 0x701 => n == (16 + 4 * u32 b 12 + 7) / 8 * 8 && u8 b 7 == 0 && (List.range (u32 b 12)).all (fun i => u8 b (19 + 4 * i) == 0) &&
      allZero b (16 + 4 * u32 b 12) (n - (16 + 4 * u32 b 12))
  | 8, 0x801 => n == 16 && allZero b 6 2
  | 8, 0x802 => n == 40 && u8 b 7 == 0
  | 8, 0x803 => n == 16 + (u32 b 12 + 7) / 8 * 8 && allZero b (16 + u32 b 12) (n - (16 + u32 b 12))
  | 15, 0xF01 => n == 2448 && allZero b 2436 12
  | _, _ => false

/-- R179: the records of a section number COUNT and fill LENGTH; each passes `recordOk`. -/
def recordsRefuse (e : PlanEnv) (b : List Byte) : Option Refuse :=
  firstSome ((planSects b).map (fun s =>
    let rs := recsOf b s
    match badRec 0x09 rs (recordOk e.dev) with
    | some r => some r
    | none =>
      if rs.length = s.count ∧ (rs.map (fun r => r.bytes.length)).sum = s.len then none
      else some (refuse 0x09 (s.type % 256) rs.length 0)))

def sumBy (l : List StallRec) (f : StallRec → Nat) : Nat := (l.map f).sum

/-- Device-plan conditions 0x10 to 0x14 (R181, R183, R184). A stall that the new plan leaves out has no record in it: RECORD is then
0 (log entry 31). -/
def devRefuse (e : PlanEnv) (b : List Byte) : Option Refuse :=
  let rs := recsOfType b 4
  let ss := rs.map (fun r => parseStall r.bytes)
  let d := parseDev b
  let st (r : PRec) : StallRec := parseStall r.bytes
  let prior (r : PRec) : List StallRec := (before rs r).map st
  let q12 (r : PRec) : Bool :=
    let x := st r
    let sofar := prior r ++ [x]
    x.wStore != 0 && x.wShelf != 0 && x.wRing != 0 && x.wLink != 0 && decide (1 ≤ x.stage) && decide (x.stage ≤ 64) &&
    decide (x.shelf ≤ 2048) && x.store % 2 == 0 && x.cellar % 2 == 0 && decide (sumBy sofar (·.shelf) ≤ 2048) &&
    decide (sumBy sofar (fun y => y.store + y.stage) ≤ 3144704) && decide (sumBy sofar (·.cellar) ≤ e.cellarCap)
  let old := e.devPlan
  let oldOk (o : StallRec) : Bool :=
    let busy := e.withPlan.contains o.stall || e.zeroing.contains o.stall
    match ss.find? (fun x => x.stall == o.stall) with
    | none => !busy
    | some x =>
      ((x.clusters == o.clusters && x.hopFirst == o.hopFirst && x.hopCount == o.hopCount && x.stage == o.stage) || !busy) &&
      (match e.used.find? (fun u => u.1 == o.stall) with
       | some (_, us, ut, uc) => decide (us ≤ x.shelf) && decide (ut ≤ x.store) && decide (uc ≤ x.cellar)
       | none => true)
  let axesOk : Bool :=
    let ax := d.axes.axes
    let ports := ax.flatMap (fun a => (if a.portPlus = 255 then [] else [a.portPlus]) ++ (if a.portMinus = 255 then [] else [a.portMinus]))
    decide ((ax.map (·.extent)).foldl (· * ·) 1 ≤ 65536) && ax.all (fun a => decide (a.coord < a.extent)) &&
    d.axes.deviceId == (ax.foldl (fun (acc : Nat × Nat) a => (acc.1 + a.coord * acc.2, acc.2 * a.extent)) (0, 1)).1 &&
    ports.all (fun p => decide (p ≤ 11)) && noDup ports &&
    ax.all (fun a => if a.extent = 1 then a.portPlus == 255 && a.portMinus == 255
      else (a.portPlus != 255) == (decide (a.coord + 1 < a.extent) || a.wrap) &&
           (a.portMinus != 255) == (decide (0 < a.coord) || a.wrap))
  firstSome [
    badRec 0x10 rs (fun r => decide ((st r).stall ≤ 95) && (st r).clusters != 0 &&
      (prior r).all (fun p => p.stall != (st r).stall && p.clusters &&& (st r).clusters == 0)),
    badRec 0x11 rs (fun r => decide (1 ≤ (st r).hopCount) && decide ((st r).hopFirst + (st r).hopCount ≤ 262144) &&
      (prior r).all (fun p => decide (p.hopFirst + p.hopCount ≤ (st r).hopFirst) || decide ((st r).hopFirst + (st r).hopCount ≤ p.hopFirst))),
    badRec 0x12 rs q12,
    planFirst b ((old.stalls.filter (fun o => !oldOk o)).map (fun o => some (refuse 0x13 4 (ss.findIdx (fun x => x.stall == o.stall) % max ss.length 1) 0)) ++
      [if (d.axes == old.axes && d.hasAxes == old.hasAxes) || e.withPlan.isEmpty then none else some (refuse 0x13 6 0 0)]),
    (if axesOk then none else some (refuse 0x14 6 0 0))]

/-- The XFER words of a station with their word numbers. -/
def opsAt (t : Station) (o : Nat) : List (Nat × Nat) :=
  (t.draft.zipIdx.filter (fun x => opc x.1 == o)).map (fun x => (x.2, x.1))

/-- The tiles N of an XFER on this station (R348); rank 0 of a broadcast takes TX's DEPTH. -/
def xferN (t : Station) (w : Nat) (rank : Nat) : Nat :=
  let d := if xferColl w = 1 ∨ xferColl w = 4 then xferTZ w else if xferColl w = 5 ∧ rank ≠ 0 then xferTZ w else xferTX w
  match t.desc d with
  | some x => x.depth
  | none => 0

/-- Conditions of code 0x22 on one station: the first offending word (R148 and R362's loader checks). -/
def draftWordBad (p : StallPlan) (t : Station) : Option Nat :=
  let apxBad (x : Nat × Nat) : Bool :=
    t.looms.any (fun l => match t.desc (apxTIN x.2) with
      | some d => (apxProducers p l d.ch).length != apxP x.2 || d.depth % apxP x.2 != 0 || d.depth == 0
      | none => true)
  let xferBad (x : Nat × Nat) : Bool :=
    let w := x.2
    (match p.rosters.find? (fun r => r.group == xferGroup w) with
     | some r => ((xferColl w == 2 || xferColl w == 3) && decide (256 < r.members.length)) ||
         (xferColl w == 6 && r.members.length != 0 && xferN t w 0 % r.members.length != 0)
     | none => false) ||
    (p.stations.takeWhile (fun u => u.num != t.num)).any (fun u => (opsAt u 0x80).any (fun y => xferGroup y.2 == xferGroup w))
  let l := (draftRefused (p.env t) t.draft).toList ++ ((opsAt t 0x70).filter apxBad).map (·.1) ++ ((opsAt t 0x80).filter xferBad).map (·.1)
  l.min?

/-- A directed graph on station numbers has a cycle: some station reaches itself in at most `n` edges. -/
def reaches (edges : List (Nat × Nat)) : Nat → List Nat → List Nat
  | 0, fr => fr
  | n + 1, fr => reaches edges n ((fr ++ (edges.filter (fun e => fr.contains e.1)).map (·.2)).eraseDups)

/-- An aligned channel lies on a cycle of aligned channels (R195). -/
def onCycle (p : StallPlan) (c : Chan) : Bool :=
  let es := (p.chans.filter (·.aligned)).map (fun c => (c.src, c.dst))
  c.aligned && (reaches es es.length [c.dst]).contains c.src

/-- A roster keeps R201 and R202: its fields' ranges, this module's pair once, no pair twice, and its members on its axis. -/
def rosterOk (a : AxesRec) (me : Nat × Nat) (x : Roster) : Bool :=
  let coordsOf (id : Nat) : List Nat := (a.axes.foldl (fun (acc : List Nat × Nat) y => (acc.1 ++ [acc.2 % y.extent], acc.2 / y.extent)) ([], id)).1
  (decide (x.axis ≤ 5) || x.axis == 255) && decide (1 ≤ x.members.length) && decide (x.members.length ≤ 65536) &&
  x.members.all (fun m => decide (m.2 ≤ 95)) && (x.members.filter (· == me)).length == 1 && x.members.eraseDups.length == x.members.length &&
  (x.axis == 255 || (decide (x.members.length ≤ (a.axes.getD x.axis {}).extent) &&
    x.members.all (fun m => decide (m.1 < (a.axes.map (·.extent)).foldl (· * ·) 1) && (coordsOf m.1).eraseIdx x.axis == (coordsOf me.1).eraseIdx x.axis)))

/-- Stall-plan conditions 0x15 to 0x70. -/
def stallRefuse (e : PlanEnv) (b : List Byte) : Option Refuse :=
  let p := parseStallPlan b
  match e.devPlan.stalls.find? (fun s => s.stall == e.stall) with
  | none => some (refuse 0x15 0 0 0)
  | some sr =>
    let sts := recsOfType b 1
    let st (r : PRec) : Station := parseStation r.bytes
    let chs := recsOfType b 2
    let ch (r : PRec) : Chan := parseChan r.bytes
    let rgs := recsOfType b 3
    let rg (r : PRec) : Region := parseRegion r.bytes
    let kps := recsOfType b 4
    let rts := recsOfType b 5
    let ros := recsOfType b 7
    let ro (r : PRec) : Roster := parseRoster r.bytes
    let cns := recsOfType b 8
    let inStall (l : Nat) : Bool := decide (l < 1152) && sr.clusters.getLsbD (l / 12)
    let ok20 (r : PRec) : Bool :=
      let t := st r
      decide (t.num ≤ 1151) && decide (1 ≤ t.role) && decide (t.role ≤ 9) && decide (1 ≤ t.m) && decide (t.m ≤ 1152) &&
      decide (2 ≤ t.draft.length) && decide (t.draft.length ≤ 1024) && t.looms.all inStall && noDup t.looms &&
      (before sts r).all (fun q => (st q).num != t.num && (st q).looms.all (fun l => !t.looms.contains l)) &&
      headRole (t.draft.headD 0) == t.role
    let ok21 (r : PRec) : Bool :=
      let t := st r
      decide (t.runHop < sr.hopCount) && (match t.cplHop with
        | some h => decide (h < sr.hopCount)
        | none => true) &&
      (before sts r ++ [r]).all (fun q => (st q).cplHop != some t.runHop && t.cplHop != some (st q).runHop) &&
      (!(t.draft.any (fun w => opc w == 3 && bit w 55)) || t.cplHop.isSome)
    let ok30 (r : PRec) : Bool :=
      let c := ch r
      match p.station c.src, p.station c.dst with
      | some a, some z => decide (c.srcPort ≤ 15) && decide (c.dstPort ≤ 15) && decide (c.map ≤ 4) &&
          decide (c.srcMember < a.m) && decide (c.dstMember < z.m) && (c.map != 0 || a.m == z.m) &&
          (before chs r).all (fun q => (ch q).num != c.num)
      | _, _ => false
    let conns := p.conns
    let named31 (t : Station) : Bool :=
      (chanDescs t true).all (fun d => t.looms.all (fun l => conns.any (fun c => c.rcvLoom == l && c.inPort == d.ch))) &&
      (chanDescs t false).all (fun d => t.looms.all (fun l => conns.any (fun c => c.sndLoom == l && c.outPort == d.ch)))
    let ok31 (r : PRec) : Bool :=
      let c := ch r
      match p.station c.src, p.station c.dst with
      | some a, some z => (chanDescs a false).any (fun d => d.ch == c.srcPort) && (chanDescs z true).any (fun d => d.ch == c.dstPort)
      | _, _ => true
    let same (d f : Desc) : Bool := d.fmt == f.fmt && d.scale == f.scale
    let sameIn (d f : Desc) : Bool := same d f && d.base == f.base && d.depth == f.depth && d.rowBase == f.rowBase &&
      d.colBase == f.colBase && d.planeBase == f.planeBase && d.sr == f.sr && d.sp == f.sp
    let drafts32 (t : Station) : Bool :=
      let ri := chanDescs t true
      let wo := chanDescs t false
      let ops := t.draft.filter isOp
      ((ops.flatMap opReads).filter (fun x => (ops.flatMap opWrites).contains x)).all
        (fun x => match t.desc x with
          | some d => d.kind != 1
          | none => true) &&
      ri.all (fun d => ri.all (fun f => d.ch != f.ch || sameIn d f)) &&
      wo.all (fun d => d.readers == 0 && wo.all (fun f => d.ch != f.ch || same d f))
    let ok32 (r : PRec) : Bool :=
      let c := ch r
      match p.station c.src, p.station c.dst with
      | some a, some z => (chanDescs a false).all (fun d => d.ch != c.srcPort ||
          (chanDescs z true).all (fun f => f.ch != c.dstPort || same d f))
      | _, _ => true
    let ok33 (r : PRec) : Bool := (before chs r).all (fun q =>
      (ch q).dst != (ch r).dst || (ch q).dstPort != (ch r).dstPort || (ch q).aligned == (ch r).aligned)
    let m2 := 2097152
    let ok40 (r : PRec) : Bool :=
      let x := rg r
      decide (x.num ≤ 4095) && decide (u8 r.bytes 6 ≤ 1) && decide (x.interleave ≤ 3) && decide (x.die ≤ 7) &&
      x.va % m2 == 0 && x.len % m2 == 0 && decide (m2 ≤ x.len) && decide (x.va + x.len ≤ 0xFFFFFFC000000) &&
      (before rgs r).all (fun q => (rg q).num != x.num &&
        (decide ((rg q).va + (rg q).len ≤ x.va) || decide (x.va + x.len ≤ (rg q).va)) && !((rg q).spill && x.spill)) &&
      (!x.cellar || (x.interleave == 2 && x.die == 0)) && (!x.spill || (x.write && !x.cellar))
    let ok41 (r : PRec) : Bool :=
      let sofar := ((before rgs r) ++ [r]).map rg
      let x := rg r
      decide (((sofar.filter (fun y => !y.cellar)).map (·.len)).sum ≤ sr.store * 1048576) &&
      decide (((sofar.filter (fun y => y.cellar)).map (·.len)).sum ≤ sr.cellar * 1048576) &&
      (!x.cellar || e.cellarMode == 2 || (e.cellarMode == 1 && !x.write)) && e.placeable sofar
    let ok42 (r : PRec) : Bool :=
      (p.region (u16 r.bytes 4)).isSome && (before kps r).all (fun q => u16 q.bytes 4 != u16 r.bytes 4) &&
      decide (((before kps r ++ [r]).map (fun q => u32 q.bytes 8)).sum ≤ sr.shelf)
    let ok50 (r : PRec) : Bool :=
      let x := parseRoute r.bytes
      decide (x.action ≤ 3) && decide (1 ≤ x.lead) && decide (x.lead ≤ 256) && x.len % 64 == 0 && decide (64 ≤ x.len) &&
      (x.next == 0xFFFF || decide (x.next < rts.length)) && decide (rts.length ≤ 65535) &&
      (match p.region x.region with
       | some g => decide (x.offset + x.len ≤ g.len) && (x.action != 2 || g.cellar) && (x.action != 3 || g.write)
       | none => false) &&
      (x.action == 1 || (x.rowBase == 0 && x.colBase == 0 && x.planeBase == 0 && x.sr == 0))
    let tier50 (t : Station) : Bool := (opsAt t 0x90).all (fun x =>
      (p.region (tierRegion x.2)).isSome && (tierFN x.2 != 0 || decide (tierEntry x.2 < rts.length)))
    let me := (e.devPlan.axes.deviceId, e.stall)
    let ok60 (r : PRec) : Bool :=
      let x := ro r
      decide (x.group ≤ 4095) && rosterOk e.devPlan.axes me x && (before ros r).all (fun q => (ro q).group != x.group)
    let xfer60 (t : Station) : Bool := (opsAt t 0x80).all (fun x =>
      match p.rosters.find? (fun r => r.group == xferGroup x.2) with
      | some r => r.axis == 255 || r.axis == xferAxis x.2
      | none => false)
    let ok70 (r : PRec) : Bool :=
      match p.station (u16 r.bytes 4) with
      | none => false
      | some t =>
        match r.type with
        | 0x801 => (before cns r).all (fun q => q.type != 0x801 || u16 q.bytes 4 != t.num)
        | 0x802 => decide (u8 r.bytes 6 ≤ 15) &&
            (before cns r).all (fun q => q.type != 0x802 || u16 q.bytes 4 != t.num || u8 q.bytes 6 != u8 r.bytes 6)
        | _ => (u16 r.bytes 6 == 0xFFFF || decide (u16 r.bytes 6 < t.m)) && decide (u16 r.bytes 10 + u32 r.bytes 12 ≤ 8192) &&
            (List.range 16).any (fun d => match t.desc d with
              | some x => x.kind == 2 && decide (x.base ≤ u16 r.bytes 8) && decide (u16 r.bytes 8 < x.base + x.depth)
              | none => false)
    let upd70 (t : Station) : Bool := (opsAt t 0x40).all (fun x => p.coefs.any (fun c => c.1 == t.num && c.2.1 == updCset x.2))
    let word22 : Option Refuse := firstSome (sts.map (fun r => (draftWordBad p (st r)).map (fun w => refuse 0x22 1 r.idx w)))
    firstSome [
      badRec 0x20 sts ok20, badRec 0x21 sts ok21, word22, badRec 0x30 chs ok30,
      planFirst b [badRec 0x31 sts (fun r => named31 (st r)), badRec 0x31 chs ok31],
      planFirst b [badRec 0x32 sts (fun r => drafts32 (st r)), badRec 0x32 chs ok32],
      badRec 0x33 chs (fun r => ok33 r && !onCycle p (ch r)),
      badRec 0x40 rgs ok40, badRec 0x41 rgs ok41, badRec 0x42 kps ok42,
      planFirst b [badRec 0x50 sts (fun r => tier50 (st r)), badRec 0x50 rts ok50],
      planFirst b [badRec 0x60 sts (fun r => xfer60 (st r)), badRec 0x60 ros ok60],
      planFirst b [badRec 0x70 sts (fun r => upd70 (st r)), badRec 0x70 cns ok70]]

/-- The refusal of a plan (R215): the lowest code, then plan order; none where the plan is accepted. A stall that does not exist has
no staging area, so no plan stands there whose header could be wrong: its code is 0x15 (DEDUCED, log entry 31). -/
def planRefuse (e : PlanEnv) (b : List Byte) : Option Refuse :=
  if !e.dev && !e.devPlan.stalls.any (fun s => s.stall == e.stall) then some (refuse 0x15 0 0 0) else
  firstSome [headerRefuse e b, sigRefuse e b, tableRefuse e b, recordsRefuse e b,
    if e.dev then devRefuse e b else stallRefuse e b]

end Sys2Proof.Machine
end

