-- ==== Sys2Proof/Machine/State.lean ====
section
/-!
DEFINITION. The state of the block as plain data, and State.reset.
-/
namespace Sys2Proof.Machine

/-! ### Tally (R37 to R53) -/

/-- The in-flight record of one unaligned input (R42); `used` once a snapshot has opened it. -/
structure InFlight where
  used : Bool := false
  lateTok : Nat := 0
  lateBytes : Nat := 0
  earlyTok : Nat := 0
  earlyBytes : Nat := 0
  complete : Bool := false
deriving DecidableEq, Repr

/-- One tally unit: live counters, the two shadow banks, the tag of each bank, and the wave in hand (R40 to R42, R51). -/
structure UnitSt where
  live : Tab W64 := []
  bank0 : Tab W64 := []
  bank1 : Tab W64 := []
  wave0 : W32 := 0
  wave1 : W32 := 0
  /-- ABANDONED of the tag (R48): set by the most recent wave that named the unit. -/
  abandoned : Bool := false
  /-- Number of the last wave whose snapshot the unit took; 0 for none. -/
  snap : W32 := 0
  /-- The wave that `marked` and `early` belong to. -/
  markWave : W32 := 0
  /-- Inputs (streams) whose marker of that wave has been accepted. -/
  marked : List Nat := []
  /-- EARLY counts of that wave, before the snapshot. -/
  early : Tab InFlight := []
  /-- The controller's marker of the wave in progress waits at the unit. -/
  ctlMarker : Bool := false
  /-- In-flight records of the two shadow banks, by input. -/
  rec0 : Tab InFlight := []
  rec1 : Tab InFlight := []
deriving DecidableEq, Repr

/-- The tally controller and the scheduler core's part in it (R45 to R48). -/
structure TallySt where
  enable : Bool := true
  busy : Bool := false
  partialWave : Bool := false
  injected : W32 := 0
  done : W32 := 0
  gap : BitVec 24 := 0x3E8
  timeout : BitVec 24 := 0x2710
  lag : BitVec 12 := 0
  stallDone : Tab W32 := []
  pendPf : Bool := false
  /-- Stalls with a pending request. -/
  pendStalls : List Nat := []
  /-- Timeout captured at injection (R48). -/
  timeoutNow : Nat := 0
  /-- Stalls that take part in the wave in progress (R46). -/
  participants : List Nat := []
  /-- Stall-local units of the wave in progress: (stall, loom). -/
  members : List (Nat × Nat) := []
  /-- Units whose reports have reached the controller, by key. -/
  reported : List Nat := []
  /-- Clusters that no stall held when the wave was injected: their looms get the controller's marker too (R43). -/
  loose : List Nat := []
  /-- Waves that were abandoned (R48): their markers are discarded. -/
  lost : List Nat := []
deriving DecidableEq, Repr

/-! ### Tiles, channels, Bench -/

/-- A tile: its selvedge and the bytes of its slot (elements and scales, R107). -/
structure Tile where
  tag : Tag
  data : List Byte
deriving DecidableEq, Repr

/-- Slot states of R108. -/
inductive SlotState where
  | empty | filling | full | pinned | raw
deriving DecidableEq, Repr

/-- One Bench slot: state, quarter-full bits, reader count, tag (R108). -/
structure Slot where
  state : SlotState := .empty
  quarters : BitVec 4 := 0
  tagWritten : Bool := false
  /-- The reader count the slot takes when it becomes FULL or PINNED. -/
  setReaders : BitVec 8 := 0
  readers : BitVec 8 := 0
  tag : Tag := 0
  /-- The port that claimed the slot (PORT of LOM_FAULT: 2 drain, 3 fuller, 4 picker, 5 network). -/
  claimant : Nat := 0
  /-- Sender stream (network claims, R193) whose tile the slot was granted to. -/
  grantee : Option Nat := none
deriving DecidableEq, Repr

/-- A token on a channel stream in the network: a tile for a granted slot, or a tally marker (R37, R193). -/
inductive Token where
  | tile (t : Tile) (slot : Nat)
  | marker (wave : W32)
deriving DecidableEq, Repr

/-- A tile in an output half's queue (R193): its slot, and how far its requests, grants and acknowledgements are,
by receiver stream. -/
structure OutItem where
  slot : Nat
  tag : Tag
  run : Nat := 0
  requested : List Nat := []
  /-- Grants: the stream and the slot granted, 512 + q for spill place q. -/
  granted : List (Nat × Nat) := []
  sent : Bool := false
  acked : List Nat := []
deriving DecidableEq, Repr

/-! ### The loom -/

/-- LOM_EXC_STATUS and LOM_EXC_COORD (R118). -/
structure ExcRec where
  valid : Bool := false
  overrun : Bool := false
  event : BitVec 2 := 0
  cause : BitVec 4 := 0
  seq : Byte := 0
  elemRow : BitVec 6 := 0
  elemCol : BitVec 6 := 0
  kIndex : W32 := 0xFFFFFFFF
  row : BitVec 24 := 0
  col : W16 := 0
  plane : BitVec 12 := 0
  op : BitVec 10 := 0
  /-- The place of the latched event in the order in which the rows accept results (R82, R118): 64 × the acceptance plus
  the row. -/
  ord : Nat := 0
deriving DecidableEq, Repr

/-- LOM_FAULT (R121). -/
structure LomFault where
  faulted : Bool := false
  cause : BitVec 3 := 0
  slot : BitVec 9 := 0
  port : BitVec 3 := 0
  line : BitVec 7 := 0
  op : BitVec 10 := 0
deriving DecidableEq, Repr

/-- An open loop (R129): its counter, its value, its COUNT and the index of its LOOP word. -/
structure LoopFrame where
  ctr : Nat
  val : Nat
  count : Nat
  at_ : Nat
deriving DecidableEq, Repr

/-- What an operation samples when it is issued (R132, R141): its word and index, the loop counters with their
"last iteration" marks, the run's STEP and VERSION, the run's number, whether this is the word's last execution in the run. -/
structure Sample where
  op : Nat := 0
  word : W64 := 0
  ctr : List Nat := []
  lastIter : List Bool := []
  step : W32 := 0
  version : W32 := 0
  runSeq : Nat := 0
  lastExec : Bool := false
deriving DecidableEq, Repr

/-- A quarter-vector in a feeder window (R95): the beat it belongs to, its element codes, its block-scale codes,
which elements lie within the tile's extents (R117), and the tile's tag. -/
structure QVec where
  beat : Nat
  codes : List Nat
  scales : List Nat
  inside : List Bool
  tag : Tag
deriving DecidableEq, Repr

/-- One quarter sum (R96): the comb's sum for the quarter, and the product of block scales along K that a
cross-quarter level still has to apply (R97), as an exact value, with b′ of the two operands. -/
structure QSum where
  sum : BitVec 24
  bad : Option (Nat × Nat) := none
  scale : FV
  bp : Nat
deriving DecidableEq, Repr

/-- The array's operation in progress (R92 to R103). -/
structure ArrJob where
  smp : Sample
  /-- Quarter-vectors each feeder has accepted from Bench. -/
  fed : Tab Nat := []
  /-- Window entries by feeder, oldest first. -/
  win : Tab (List QVec) := []
  /-- Beats taken, by row-quarter 4r + q. -/
  taken : Tab Nat := []
  /-- K-block of the current warp plus one, by row-quarter; 0 before the first. -/
  warpKb : Tab Nat := []
  /-- Current warp element and scale codes, by row-quarter. -/
  warp : Tab QVec := []
  /-- The complete shadows, by row-quarter, and how many the warp port has filled: 256 a K-block, in row order (R91). -/
  shadow : Tab (Option QVec) := []
  filled : Nat := 0
  /-- Quarter-sum buffers, by row-quarter, oldest first. -/
  qsum : Tab (List QSum) := []
  /-- Beats whose sums each row has accumulated. -/
  accd : Tab Nat := []
  /-- Beats retired (R93). -/
  retired : Nat := 0
  /-- Drain buffers by row: results not yet taken by the collector, oldest first. -/
  drain : Tab (List (BitVec 24 × Option (Nat × Nat))) := []
  /-- The final result that a row's accumulate stage holds because the drain is full (R100). -/
  hold : Tab (Option (BitVec 24 × Option (Nat × Nat))) := []
  /-- When the final accumulate of entry 256 × row + column was accepted (R82, R118). -/
  finAt : Tab Nat := []
  /-- C tiles of an accumulate whose operands have tensor-wide scales, by 256 × row + column (R85). -/
  cpre : Tab (BitVec 24) := []
  /-- Results the collector has taken, by row. -/
  collected : Tab Nat := []
  /-- Output tiles converted. -/
  converted : Nat := 0
  /-- EPOCH of the first warp tile, for EPOCH_SRC 10 (R134). -/
  firstEpoch : Nat := 0
  /-- Row-quarters that wait for a window entry (R98) and for their shadow (R99): an episode of a feeder or of the warp lasts
  while one does (R123). -/
  dry : List Nat := []
  warpWait : List Nat := []
deriving DecidableEq, Repr

/-! ### Operations in progress of the loom's other units -/

/-- A finished tile that waits for its slot to be EMPTY (R108, R133): the descriptor, the coordinates, and the tile. -/
structure PendTile where
  t : Nat
  coord : Nat × Nat × Nat
  tile : Tile
deriving DecidableEq, Repr

/-- A FUL or CAST in progress: its sample and the tiles it has still to write. -/
structure FulJob where
  smp : Sample
  outs : List PendTile := []
deriving DecidableEq, Repr

/-- A key group of the block that an ATT has in hand: its number, the slots of its value tiles, its keys' positions. -/
structure KeyGroup where
  k : Nat
  vs : List Nat
  pos : List Nat
deriving DecidableEq, Repr

/-- An ATT in progress (R219): the next key group and the key tiles of it that have been read, the key streams read to their
end, running maximum (BF16 codes) and running sum by query row; the block in hand: its key groups, whether a key tile of the
group in hand carried LAST, whether its logits pass is over and every key of it masked, the factors α and the probabilities by
row, and the value tiles read; whether the last block is in hand and done; and the output tiles still to be written. The
logits and the running output stand in the accumulator file (R217). -/
structure AttJob where
  smp : Sample
  group : Nat := 0
  kt : Nat := 0
  streams : Nat := 0
  m : List W16 := []
  l : List (BitVec 24 × Option (Nat × Nat)) := []
  gs : List KeyGroup := []
  sawLast : Bool := false
  closed : Bool := false
  skip : Bool := false
  alpha : List (BitVec 24 × Option (Nat × Nat)) := []
  ps : List (List (BitVec 24)) := []
  vt : Nat := 0
  last : Bool := false
  done : Bool := false
  out : Bool := false
  outs : List PendTile := []
deriving DecidableEq, Repr

/-- A key group that a walk has delivered (R233): its first position, its tokens, the slots of its key and value tiles. -/
structure WalkGroup where
  first : Nat
  toks : Nat
  ks : List Nat
  vs : List Nat
deriving DecidableEq, Repr

/-- What a page walk passes to its paired ATT (R232): the epoch, the header's fields and QDIV, the sequence and plane; whether the
new tokens are appended; the page list; the pages that step 4 writes; the summaries of those whose last token it wrote, by page
(R241); the groups of summary tiles delivered and the scores formed of them (R242); the pages found missing (R235); and the key
groups delivered. -/
structure WalkInfo where
  epoch : W32
  sigma : Nat
  plane : Nat
  seqVa : Nat
  len : Nat
  new_ : Nat
  npmax : Nat
  nplane : Nat
  qdiv : Nat := 1
  ready : Bool := false
  list : Option (List Nat) := none
  appended : List Nat := []
  summaries : List (Nat × List Byte) := []
  sums : Nat := 0
  scores : List (Nat × FV) := []
  missing : List Nat := []
  groups : List WalkGroup := []
  ended : Bool := false
deriving DecidableEq, Repr

/-- A row that a gather fetches (R155 to R157): its VA, its line count, the lines that have arrived, and the places
(tile row, row) that it goes to. -/
structure PickFetch where
  idx : Nat := 0
  va : Nat := 0
  lines : Nat := 0
  got : Tab (List Byte) := []
  users : List (Nat × Nat) := []
deriving DecidableEq, Repr

/-- What a page walk has still to do (R232, R233). -/
inductive WalkPhase where
  | pin | append | deliver | unpin
deriving DecidableEq, Repr

/-- A PICK in progress (R154 to R166, R232): its sample, its range b to e (exclusive), its tile rows and the next one;
for a gather its fetches by number, the numbers of the window in hand, the line requests not yet issued and outstanding,
and the rows in place by quarter region; for a segment reduce the segment in hand, its offsets, the next position, the
accumulators, the terms contributed and the end of the run; for a scatter-add the window's combined contributions; for
a de-duplication the block and window numbers; for a page walk its phase and the groups it delivers; for a segment reduce
whether its results are undefined (R158). `recs` holds the records of TIDX, TSEG, TSRC and TDST as they stood at issue (R154,
R170). A gather further holds how many column tiles of the newest tile row it has claimed, that row's null positions, and the
slots that it is filling; `outs` are tiles of a walk that wait for their slots. -/
structure PickJob where
  smp : Sample
  recs : List (List Byte) := []
  b : Nat := 0
  e : Nat := 0
  rows : Nat := 0
  next : Nat := 0
  fetches : Tab PickFetch := []
  nfetch : Nat := 0
  win : List Nat := []
  todo : List (Nat × Nat) := []
  pend : List (Nat × Nat) := []
  placed : Tab Nat := []
  full : Bool := false
  seg : Nat := 0
  segEnd : Nat := 0
  open_ : Bool := false
  lo : Nat := 0
  hi : Nat := 0
  pos : Nat := 0
  acc : List XV := []
  terms : Nat := 0
  winAcc : List (Nat × List XV) := []
  block : Nat := 0
  phase : WalkPhase := .pin
  undef : Bool := false
  cols : Nat := 0
  nulls : List Nat := []
  claims : List Nat := []
  outs : List PendTile := []
deriving DecidableEq, Repr

/-- A UPD in progress (R274 to R290): MODE of the shard, its ledger entry's VA and number and bytes as read, its first
tile number and tile count, LRS, the draw of the run's factors (R281), the pass (1, 2, 3 copying) and the next tile, N and
the non-finite count so far, the FLAGS found, and the tiles that wait for their slots. -/
structure UpdJob where
  smp : Sample
  mode : Nat := 0
  va : Nat := 0
  entryNo : Nat := 0
  entry : List Byte := []
  t0 : Nat := 0
  nt : Nat := 0
  lrs : W16 := 0
  fdraw : Nat := 0
  pass : Nat := 1
  i : Nat := 0
  outs : List PendTile := []
  n : BitVec 24 := 0
  nf : Nat := 0
  flags : Nat := 0
deriving DecidableEq, Repr

/-- An APX in progress (R352, R354): the partial's number j in the run, and whether a wait episode is under way. -/
structure ApxJob where
  smp : Sample
  j : Nat := 0
  waits : Bool := false
deriving DecidableEq, Repr

/-- How far a send is (R193, R347): not requested, requested, told to wait, granted, sent. -/
inductive SendSt where
  | fresh | requested | waits | granted | sent
deriving DecidableEq, Repr

/-- A tile that an XFER sends (R348, R349): its number, its flow's SDIR (R337) and destination rank, the coordinates it is sent
to, its state, the tile where the port holds it, and the TX slot to be released with the last acknowledgement. -/
structure XferOut where
  k : Nat
  minus : Bool
  dst : Nat
  coord : Nat × Nat × Nat
  st : SendSt := .fresh
  tile : Option Tile := none
  tx : Option Nat := none
deriving DecidableEq, Repr

/-- A tile that has arrived for a link station's loom: its group, the member that sent it, its slot and itself. -/
structure XferIn where
  group : Nat
  src : Nat × Nat
  slot : Nat
  tile : Tile
deriving DecidableEq, Repr

/-- An XFER in progress (R348 to R351): the rank and the number of ranks, the sends, the tiles it writes from its own TX,
the coordinates it has still to write through TZ and the largest row and column among those it writes (R134), the tiles whose
partial has passed, and whether it is aborted (R358). -/
structure XferJob where
  smp : Sample
  rank : Nat := 0
  ranks : Nat := 0
  n : Nat := 0
  outs : List XferOut := []
  own : List Nat := []
  toWrite : List (Nat × Nat × Nat) := []
  edge : Nat × Nat := (0, 0)
  seen : List Nat := []
  /-- TX slots whose tile has still to be released. -/
  rel : List Nat := []
  aborted : Bool := false
deriving DecidableEq, Repr

/-- A started position of a pass (R331): position, entry number, members whose share is complete, complete, late. -/
structure RoutePos where
  pos : Nat
  entry : Nat
  done : List Nat := []
  complete : Bool := false
  late : Bool := false
deriving DecidableEq, Repr

/-- A pass of a TIER FN 0 word (R329 to R332), which every member of the station walks: the station, the word, the run
and the loop counters that tell its executions apart, the use frontier, the started positions, the members that have
ended it. -/
structure PassSt where
  station : Nat
  op : Nat
  runSeq : Nat
  ctr : List Nat
  frontier : Nat := 0
  entries : List RoutePos := []
  ended : List Nat := []
deriving DecidableEq, Repr

/-- A TIER word in progress on a loom (R328 to R330): how far it is, and how far its share of each route position is. -/
structure TierJob where
  smp : Sample
  next : Nat := 0
  prog : Tab Nat := []
deriving DecidableEq, Repr


/-- LOM_TIER_FAULT (R302). -/
structure TierFault where
  va : BitVec 52 := 0
  kind : BitVec 3 := 0
  valid : Bool := false
deriving DecidableEq, Repr

/-! ### Plans (R208 to R214) -/

/-- STATE of SCH_PLAN_STATUS. -/
inductive PlanState where
  | none | verifying | placing | loaded | unloading | failed | waiting
deriving DecidableEq, Repr

/-- A plan register block: SCH_PLAN_*[s] or SCH_DPLAN_*. -/
structure PlanBlk where
  len : BitVec 27 := 0
  state : PlanState := .none
  /-- STATE to restore when the command is refused (R210 steps 3 and 4). -/
  prev : PlanState := .none
  cmdLost : Bool := false
  stageLost : Bool := false
  dropped : W32 := 0
  fail : Refuse := ⟨0, 0, 0, 0⟩
  planId : W64 := 0
  digest : BitVec 256 := 0
  /-- The function that issued the command in progress (R457). -/
  issuer : Nat := 0
deriving DecidableEq, Repr

/-- A plan command that was accepted and has not ended (R213): its target (0 the device plan, s + 1 stall s) and whether it unloads. -/
structure HeldCmd where
  tgt : Nat
  unload : Bool
  verified : Bool := false
deriving DecidableEq, Repr

/-- A run in progress of a station (R130). -/
structure RunRec where
  seq : Nat
  step : W32
  version : W32
  ended : List Nat := []
deriving DecidableEq, Repr

/-- A finished run whose completion entry waits to be posted (R455), and its number in the stall's order of completions (R188). -/
structure CplRec where
  step : W32
  status : BitVec 2
  seq : Nat := 0
deriving DecidableEq, Repr

/-- A run entry that has been taken from a run hopper, and the stations that have still to begin its run (R188). -/
structure RunTaken where
  entry : W64 := 0
  left : List Nat := []
deriving DecidableEq, Repr

/-- One station's runs: in progress, and completions held. -/
structure StationSt where
  runs : List RunRec := []
  nextSeq : Nat := 0
  held : List CplRec := []
deriving DecidableEq, Repr

/-- One page-epoch domain (R236): pins per pinning loom are held by the looms. -/
structure EpochDom where
  epoch : W32 := 0
  pinCur : W16 := 0
  pinPrev : W16 := 0
  refused : Bool := false
deriving DecidableEq, Repr

/-- Where a block's home frame lies (R305, R307): frame, band or triple index and slot position. -/
structure Place where
  frame : Nat
  slot : Nat := 0
deriving DecidableEq, Repr

/-- What a granule of a called-up or relocated block is going through (R311). -/
inductive Moving where
  | still | callingUp | writingBack | puttingDown | relocating
deriving DecidableEq, Repr

/-- The state of one 2 MiB block of a region (R301, R309 to R312, R382). -/
structure Block where
  home : Option Place := none
  /-- Guest frame: (stack, frame). -/
  guest : Option (Nat × Nat) := none
  /-- The fresh home of a block being relocated (R312). -/
  fresh : Option Place := none
  present : BitVec 32 := 0
  dirty : BitVec 32 := 0
  /-- Granules already at the fresh home. -/
  moved : BitVec 32 := 0
  moving : Tab Moving := []
  /-- A call-up that waits for a pool frame (R311). -/
  waitPool : Bool := false
  quireDirty : Bool := false
deriving DecidableEq, Repr

/-- STATE of CEL_QUIRE_STATUS. -/
inductive QuireState where
  | idle | preparing | prepared | committing | restoring | reconstructing | failed
deriving DecidableEq, Repr

/-- The quire block of a stall and its engine (R381 to R385). -/
structure Quire where
  table : BitVec 52 := 0
  state : QuireState := .idle
  refused : Bool := false
  epoch : W32 := 0
  /-- The epoch being prepared or committed. -/
  target : W32 := 0
  /-- Data members whose deltas have been staged (parity member). -/
  staged : List Nat := []
  /-- The staged deltas: rank, entry, offset in the entry, offset in STG, length. -/
  pieces : List (Nat × Nat × Nat × Nat × Nat) := []
  /-- The data of the epoch being committed has been copied or applied. -/
  applied : Bool := false
  /-- The engine has started and not yet looked for a commit line in PHASE 1 (R384). -/
  resume : Bool := false
deriving DecidableEq, Repr

/-- STATE of LNK_RST_STATUS. -/
inductive RosterState where
  | idle | busy | done | refused
deriving DecidableEq, Repr

/-- A communication group as it stands (R201, R356). -/
structure Group where
  axis : Nat
  epoch : W32
  members : List (Nat × Nat)
  /-- Modules to avoid, as the last rewrite gave them (R356). -/
  avoid : List Nat := []
  /-- The route to each member (R359): descending axis order, and FLIP; none where the member is unreachable. -/
  routes : List (Option (Bool × Nat)) := []
deriving DecidableEq, Repr

/-- Everything a stall holds beside its clusters. -/
structure StallSt where
  blk : PlanBlk := {}
  plan : Option StallPlan := none
  cand : Option StallPlan := none
  /-- The stall is withdrawn from the tally (R46). -/
  outOfTally : Bool := false
  settled : Bool := false
  stage : Tab Byte := []
  faulted : Bool := false
  withdrawn : Bool := false
  cause : BitVec 3 := 0
  faultLoom : BitVec 11 := 0
  notified : Bool := false
  discard : W64 := 0
  later : W64 := 0
  stations : Tab StationSt := []
  /-- The entry taken from each run hopper, while a station has still to begin its run (R188). -/
  hopCur : Tab RunTaken := []
  /-- Runs of the stall completed with CPL so far. -/
  cplSeq : Nat := 0
  epochs : Tab EpochDom := []
  blocks : Tab Block := []
  /-- Free frames of the call-up pool are POOL.CAP − POOL.USED (R309). -/
  poolCap : Nat := 0
  poolUsed : Nat := 0
  hostfVa : BitVec 52 := 0
  hostfWrite : Bool := false
  hostfValid : Bool := false
  hopLost : W32 := 0
  hopFull : Bool := false
  quire : Quire := {}
  rstState : RosterState := .idle
  rstCode : Byte := 0
  rstGroup : BitVec 12 := 0
  rstEpoch : W32 := 0
  rstIssuer : Nat := 0
  /-- The staged record of a rewrite in progress has not been checked yet (R356). -/
  rstWaits : Bool := false
  groups : Tab (Option Group) := []
  /-- Leads by route-card entry (R332); an unlisted entry has no history. -/
  leads : Tab Nat := []
  /-- Passes of TIER FN 0 words in progress (R329). -/
  passes : List PassSt := []
  /-- Frames released and still being zeroed (R214): (home place, region interleave, die or port, Cellar). -/
  zeroing : List (Place × Nat × Nat × Bool) := []
  /-- Flows of the grants to other modules that the settling revoked, one entry a grant (R370). -/
  revoked : List Nat := []
deriving DecidableEq, Repr

/-! ### Tiers -/

/-- A Shelf line (R313 to R315): line address (stack × 2^31 + stack line), owner stall, region, state, data. -/
structure ShelfLine where
  line : Nat
  stall : Nat
  region : Nat
  dirty : Bool := false
  kept : Bool := false
  released : Bool := false
  data : List Byte
deriving DecidableEq, Repr

/-- STATE of STC_STATUS. -/
inductive StackState where
  | training | inService | out
deriving DecidableEq, Repr

/-- A Store controller and its stack (R320 to R326). -/
structure StackSt where
  state : StackState := .training
  retiring : List Nat := []
  ueAddr : BitVec 37 := 0
  ueStall : BitVec 7 := 0
  ueSource : BitVec 2 := 0
  ueValid : Bool := false
  poison : List Nat := []
  /-- Next line the scrub reads. -/
  scrubAt : Nat := 0
  /-- Controller-code corrections of this scrub pass, by frame (R312). -/
  passCe : Tab Nat := []
deriving DecidableEq, Repr

/-- STATE of CEL_PORT_STATUS. -/
inductive CelPortState where
  | absent | inService | failed
deriving DecidableEq, Repr

/-- A regulator (R317): units waiting by stall (96 for device traffic), its place in the round, stall units since the last
device unit, and the stalls whose weight is withdrawn here (R366). -/
structure RegSt where
  waiting : Tab Nat := []
  /-- The stall whose turn it is in the round, and the units it has had in it. -/
  pos : Nat := 0
  served : Nat := 0
  sinceDevice : Nat := 0
  withdrawn : List Nat := []
deriving DecidableEq, Repr

/-- The tiers of the module. -/
structure MemSt where
  /-- Store bytes by stack × 2^37 + stack address; an unlisted byte reads 0. -/
  store : Tab Byte := []
  /-- Cellar bytes by port × 2^44 + expander address; an unlisted byte reads 0. -/
  cellar : Tab Byte := []
  /-- Poisoned Cellar lines, by byte address div 64. -/
  cellarPoison : List Nat := []
  /-- Lines of each Shelf, most recently used first. -/
  shelf : Tab (List ShelfLine) := []
  stks : Tab StackSt := []
  /-- Bands given to interleave mode 0 or 1: mode and used slots. -/
  bands : Tab (Nat × BitVec 24) := []
  /-- Triples by die × 65536 + frame: used slots. -/
  triples : Tab (BitVec 3) := []
  /-- Single frames in use, by stack × 65536 + frame. -/
  singles : List Nat := []
  /-- Cellar frames in use, by port × 2^24 + frame. -/
  celFrames : List Nat := []
  celMode : BitVec 2 := 0
  celPorts : BitVec 4 := 0
  celCap : W32 := 0
  celState : Tab CelPortState := []
  /-- Regulators by code (regKey). -/
  regs : Tab RegSt := []
  /-- Usage counters U[k][s][x] of R394, by (k × 96 + s) × 4 + x, modulo 2^48. -/
  usage : Tab (BitVec 48) := []
deriving DecidableEq, Repr

/-! ### Host port, management, log -/

/-- HUB_ACC_ERR of one function (R445). -/
structure AccErr where
  valid : Bool := false
  writeLost : Bool := false
  readAbort : Bool := false
  bar : BitVec 2 := 0
  kind : BitVec 3 := 0
  offset : W32 := 0
deriving DecidableEq, Repr

/-- One MSI-X table entry. -/
structure MsixEntry where
  addr : W64 := 0
  data : W32 := 0
  masked : Bool := true
deriving DecidableEq, Repr

/-- A host write waiting in a function's BAR4 buffer (R451): stall translated, VA, bytes. -/
structure HostWrite where
  stall : Nat
  va : Nat
  data : List Byte
  /-- What the code will find in the line if the write needs it fetched (R322). -/
  ecc : LineEcc := .clean
deriving DecidableEq, Repr

/-- One PCIe function's state at the host port (R446, R449, R457). -/
structure FnSt where
  acc : AccErr := {}
  winBase : BitVec 26 := 0
  winStall : BitVec 7 := 0
  msixEnable : Bool := true
  msixMask : Bool := false
  msix : Tab MsixEntry := []
  pba : List Nat := []
  wbuf : List HostWrite := []
deriving DecidableEq, Repr

/-- An event-log entry (R460); DIGEST is derived from it. -/
structure LogEntry where
  seq : W64
  source : W16
  code : W16
  stall : Byte
  severity : Byte
  hostTime : W64
  since : W64
  data : List Nat
deriving DecidableEq, Repr

/-- What the block sends out: interrupt messages, read data, aborts, management messages, test pulses. -/
inductive Out where
  | msix (fn vec : Nat) (addr : W64) (data : W32)
  | frame (link : Nat) (bytes : List Byte)
  | delta (stall dstDev dstStall entry off : Nat) (d : List Byte)
  | readData (fn : Nat) (v : List Byte)
  | abort (fn : Nat)
  | mctp (binding : Nat) (kind : Nat) (payload : List Nat)
  | bytes (kind : Nat) (payload : List Byte)
  | pulse
  | irqCcc (cluster : Nat)
deriving DecidableEq, Repr

/-! ### Loom state -/

/-- One loom (R90 to R131): registers, Bench, draft store, run, units. -/
structure LoomSt where
  excOwner : Bool := false
  excIrqEn : Bool := true
  exc : ExcRec := {}
  /-- The record was latched and the cluster control core has not yet served it (R120). -/
  excIrq : Bool := false
  /-- SEQ that the cluster control core has read and logged and with which it is about to clear the record (R120). -/
  excCopied : Option Byte := none
  /-- Steps in which rows have accepted comb results, which order the events of the record (R82). -/
  accSeq : Nat := 0
  fault : LomFault := {}
  /-- Freeze causes (R122): cluster control core restart, stall fault, plan replacement or unload. -/
  frzCcc : Bool := false
  frzFault : Bool := false
  frzPlan : Bool := false
  role : Nat := 0
  station : Option Nat := none
  member : Nat := 0
  draft : List Nat := []
  running : Bool := false
  pc : Nat := 0
  step : W32 := 0
  version : W32 := 0
  runSeq : Nat := 0
  /-- The draw from which the run's factors are formed, the same for every loom of the station (R281). -/
  runDraw : Nat := 0
  loops : List LoopFrame := []
  /-- Waits of this loom's units on a tier that are under way, by the word that each runs: counted already (R333). -/
  waits : List Nat := []
  /-- Runs in which the loom raised a V, O or U event (R130). -/
  excRuns : List Nat := []
  slots : Tab Slot := []
  bench : Tab Byte := []
  /-- Words whose corrected value waits for the bank's next free access (R110): slot × 1024 + word. -/
  ceList : List Nat := []
  /-- Slots whose whole tile the array's ports have read and whose reader count has not yet fallen (R108). -/
  rdDone : List Nat := []
  /-- The accumulator file (R92), 256 r + n, with the invalid event of each entry. -/
  acc : Tab (BitVec 24 × Option (Nat × Nat)) := []
  /-- The two tile buffers (R103), 4096 b + 64 r + c. -/
  tbuf : Tab (BitVec 24 × Option (Nat × Nat)) := []
  width : BitVec 2 := 0
  arr : Option ArrJob := none
  /-- An MM or ATT, and a PICK, that is issued and that its unit has not yet accepted (R135). -/
  arrNext : Option Sample := none
  pickNext : Option PickJob := none
  ful : Option FulJob := none
  att : Option AttJob := none
  /-- Walks passed to paired ATTs, oldest first: the first belongs to the ATT in progress or next, the last to the walk. -/
  walks : List WalkInfo := []
  pick : Option PickJob := none
  /-- The run in which the loom last issued a page walk, and how many it has issued in it (R231). -/
  walkRun : Nat × Nat := (0, 0)
  upd : Option UpdJob := none
  apx : Option ApxJob := none
  xfer : Option XferJob := none
  tier : Option TierJob := none
  /-- Output halves: tiles written and not yet acknowledged, oldest first (R193). -/
  outq : Tab (List OutItem) := []
  pickOob : Bool := false
  pickOobPos : BitVec 40 := 0
  pickOobVal : W32 := 0
  pickRange : BitVec 40 := 0
  pickFn : BitVec 4 := 0
  attMiss : Bool := false
  attMissSeq : BitVec 24 := 0
  attMissPlane : BitVec 12 := 0
  attMissPos : BitVec 21 := 0
  attMissCause : BitVec 2 := 0
  attMissAppend : Bool := false
  attEpoch : W32 := 0
  attPinned : Bool := false
  attPinDom : Nat := 0
  updLate : List Nat := []
  updCause : Bool := false
  updEntry : W32 := 0
  updFlags : Byte := 0
  /-- LRS as read at the first UPD of a run (R276): the run's number and the code. -/
  updRun : Option (Nat × W16) := none
  /-- Spilled gradient tiles, oldest first: (spill place, slot the tile maps to) (R294). -/
  spills : List (Nat × Nat) := []
  spillCap : W16 := 0
  /-- Spill places granted to senders whose tile has not arrived: (place, slot). -/
  spillGranted : List (Nat × Nat) := []
  /-- Partials requested of an apex by stream: the sender's run and the number requested in it (R352). -/
  apxSeq : Tab (Nat × Nat) := []
  /-- Output tiles that each TIN's APX words have begun in a run: the run's number plus one, and the count (R352). -/
  apxRun : Tab (Nat × Nat) := []
  /-- Slots of the apex's input ring in the order in which they became FULL (R354). -/
  apxOrder : List Nat := []
  /-- Tiles that the network port holds for XFERs, oldest first (R347, R349). -/
  xferIn : List XferIn := []
  tierFault : TierFault := {}
deriving DecidableEq, Repr

/-- A DATA or CONTROL frame (R337) but for the fields that a link puts on it. -/
structure Frame where
  ctl : Bool
  last : Bool := false
  minus : Bool
  vc : Nat
  epoch : Nat
  dstDev : Nat
  dstStall : Nat
  srcDev : Nat
  srcStall : Nat
  flip : Nat
  group : Nat
  member : Nat
  fseq : Nat := 0
  payload : List Byte
  /-- Base die from which it leaves this module (R341). -/
  die : Nat := 0
deriving DecidableEq, Repr

/-- STATE of LNK_LINK_STATUS (R336). -/
inductive LinkState where
  | off | training | up | down
deriving DecidableEq, Repr

/-- One link (R336 to R345): state and last DOWN cause; the next LSEQ, the replay buffer and the place in it from which
frames are sent again; how often its first frame was replayed; the next LSEQ expected, a NAK owed, and whether one has been
sent since the last frame taken in order; frames sent against
each virtual channel's credits; credits owed; and the frames that wait: control, forwarded by virtual channel with the link
they came from, and local by stall. -/
structure LinkOne where
  state : LinkState := .off
  cause : BitVec 2 := 0
  txSeq : Nat := 0
  replay : List (Nat × Frame) := []
  cursor : Nat := 0
  replays : Nat := 0
  rxSeq : Nat := 0
  nak : Bool := false
  naked : Bool := false
  used : Tab Nat := []
  owed : Tab Nat := []
  ctl : List Frame := []
  fwd : Tab (List (Frame × Nat)) := []
  loc : Tab (List Frame) := []
  fwdVc : Nat := 0
  fwdServed : Nat := 0
deriving DecidableEq, Repr

/-- A control message of R346 as delivered: its flow, the module and stall it came from, and its fields. -/
structure CtlMsg where
  op : Nat
  srcDev : Nat
  srcStall : Nat
  dstStall : Nat
  group : Nat
  member : Nat
  minus : Bool
  epoch : W32
  row : Nat
  col : Nat
  plane : Nat
  link : Nat
deriving DecidableEq, Repr

/-- The links of the module: each link; the link that a flow leaves on, plus one; the next FSEQ of a flow that begins here
and the next acceptable FSEQ of one that ends here; the image bytes in hand by flow; the control messages delivered; and the
requests that wait for a slot or for their loom and those that were granted, with the loom and the slot. -/
structure LinkSt where
  links : Tab LinkOne := []
  flows : Tab Nat := []
  fseq : Tab Nat := []
  seen : Tab Nat := []
  asm : Tab (List Byte) := []
  inbox : List CtlMsg := []
  reqs : List (CtlMsg × Nat × Nat) := []
  grants : List (CtlMsg × Nat × Nat) := []
deriving DecidableEq, Repr

/-! ### Power and firmware -/

/-- PWR_STATUS.STATE (R426). -/
inductive PwrState where
  | off | standby | ramp | run | tripped
deriving DecidableEq, Repr

/-- The power registers and the limits' and loops' state (R422 to R433). Domains are numbered under R391; voltages are in
mV; `lost` are the domains that lost regulation and hold 0.65 V, `dark` those switched off. -/
structure PowerSt where
  state : PwrState := .standby
  trip : BitVec 2 := 0
  emerg : BitVec 5 := 0
  nvInh : Bool := false
  nvWarn : Bool := false
  clamps : Byte := 0
  pcHeld : Bool := false
  limiter : Bool := false
  vset : BitVec 10 := 750
  stay : Bool := false
  pcap : BitVec 12 := 3800
  tlim : BitVec 7 := 98
  vmax : Tab (BitVec 10) := []
  target : Tab (BitVec 10) := []
  lost : List Nat := []
  dark : List Nat := []
  vpw : Nat := 750
  /-- V_th,c by cluster; an unlisted one stands at 700. -/
  vth : Tab Nat := []
  /-- Base-die rails; an unlisted one stands at 750. -/
  rail : Tab Nat := []
  /-- Clusters whose thermal model is populated (R432). -/
  model : List Nat := []
  /-- The auxiliary converter runs (R427 step 1), the domains have ramped (step 5), the PHYs have trained (step 7). -/
  aux : Bool := true
  ramped : Bool := false
  trained : Bool := false
deriving DecidableEq, Repr

/-- One bank of the boot record (R428, R434): its write sequence number, the images whose active slot is B, and whether its
digest checks. -/
structure BootBank where
  seq : Nat := 0
  slotB : List Nat := []
  good : Bool := false
deriving DecidableEq, Repr

/-- An activation in progress (R438): the image, the processors that have not reported ready, whether the boot record's
write has begun and whether it has completed, and whether PLDM asked for it. -/
structure ActJob where
  image : Nat
  wait : List Nat
  writing : Bool := false
  written : Bool := false
  pldm : Bool := false
deriving DecidableEq, Repr

/-- A non-volatile write that has begun and not yet ended (R429). -/
inductive NvWrite where
  | log (seq : Nat)
  | dump (seq : Nat)
  | operatorFuse (i : Nat)
  | floorFuse (i : Nat)
  | slot (key : Nat)
  | boot (bank : Nat)
deriving DecidableEq, Repr

/-- Firmware processors, images, activation and crash dumps (R373, R374, R434 to R441). Processors are numbered as PROC of
R441; a slot's key is 2 × image, plus 1 for slot B. -/
structure FwSt where
  /-- Processors whose image has been verified and started since their supply came up. -/
  released : List Nat := []
  down : List Nat := []
  held : List Nat := []
  handing : List Nat := []
  /-- Processors that run from slot B. -/
  slotB : List Nat := []
  restarts : Tab Byte := []
  /-- Restart times within the last 600 s, in µs of the processor's timer. -/
  times : Tab (List Nat) := []
  /-- Sequence number of the last event-log entry that a processor wrote. -/
  logOf : Tab W64 := []
  dumpSeq : Nat := 0
  dumpBuf : List (Nat × List Byte) := []
  dumpsLost : Byte := 0
  crashes : Tab (Option (List Byte)) := []
  cdumpSel : W64 := 0
  bank0 : BootBank := { good := true }
  bank1 : BootBank := {}
  /-- A boot-record write that waits for the inhibit's end: the images whose active slot is to be B. -/
  bootHeld : Option (List Nat) := none
  /-- Image slots as written since manufacture. -/
  slots : Tab (Option (List Byte)) := []
  /-- Hand-over records in the hub's SRAM (R440). -/
  handover : Tab (List Byte) := []
  act : Option ActJob := none
  actImage : BitVec 3 := 0
  actResult : Byte := 0
  /-- Writes begun and not ended, oldest first. -/
  nv : List NvWrite := []
deriving DecidableEq, Repr

/-! ### Security core and management core -/

/-- Keys, fuses, command mailbox and SPDM state (R464 to R472). -/
structure SecSt where
  opKey : Option (List Byte) := none
  stallKeys : List (List Byte) := []
  /-- The identity key stands in key SRAM. -/
  identity : Bool := true
  /-- Operator fuse entries burned: digest, and whether the entry's digest checks. -/
  opFuses : List (BitVec 256 × Bool) := []
  /-- Rollback-floor entries burned: image, version, and whether the entry's digest checks. -/
  floors : List (Nat × W32 × Bool) := []
  state : BitVec 2 := 0
  code : Byte := 0
  challenge : List Byte := List.replicate 16 0
  window : Tab Byte := []
  /-- A command accepted while the security core was away. -/
  waiting : Option (List Byte) := none
  testOpen : Bool := false
  /-- SPDM: the negotiation's progress, the transcript, the last large response. -/
  spdm : Nat := 0
  transcript : List Byte := []
  large : List Byte := []
deriving DecidableEq, Repr

/-- Ozsol's state (R458 to R461): endpoint IDs, sensors by ID, and the PLDM update. -/
structure MgtSt where
  eidI3c : Byte := 0
  eidPcie : Byte := 0
  sensors : Tab Int := []
  /-- Images updated and not yet activated. -/
  updated : List Nat := []
  /-- Images still to be activated, in order, and whether ActivateFirmware is under way. -/
  queue : List Nat := []
  activating : Bool := false
  /-- The image and code of the last refusal. -/
  refused : Option (Nat × Nat) := none
deriving DecidableEq, Repr

/-! ### The Elzarak meter (R387 to R419) -/

/-- What a state bank holds of the meter (R409): the cumulative register, the open interval, keys, sequence numbers, seal.
Energies of the front end are in units of 1/8000 µJ, those of domains and accounts in nJ. -/
structure MtrWork where
  reg : Nat := 0
  tsOpen : List Byte := []
  lastClose : Option (List Byte) := none
  eIn : Nat := 0
  eOut : Nat := 0
  nsamp : Nat := 0
  dom : Tab Nat := []
  acct : Tab Nat := []
  /-- Stalls that had clusters under a map of the interval. -/
  stalls : List Nat := []
  nmap : Nat := 0
  /-- FLAGS of R407 that the interval has gathered. -/
  flags : Nat := 0
  authKeys : List (Option (List Byte)) := [none, none]
  verKey : Option (List Byte) := none
  seq : Nat := 0
  acked : Nat := 0
  eventsLost : Nat := 0
  sealBroken : Bool := false
  lastModule : Option W64 := none
deriving DecidableEq, Repr

/-- One state bank (R409): write sequence, content, whether its digest checks, and whether the write was one made at an early
warning or at release. -/
structure MtrBank where
  wseq : Nat := 0
  work : MtrWork := {}
  good : Bool := false
  clean : Bool := false
deriving DecidableEq, Repr

/-- The last good reply of a sense-bus source (R395): its charges and usage counts, and when it came, in poll cycles. -/
structure SenseLast where
  charge : List Nat
  usage : List Nat
  at_ : Nat
deriving DecidableEq, Repr

/-- A cluster map (R396): stall by cluster, 255 for none, and the device plan's DIGEST. -/
structure MtrMap where
  stalls : List Nat
  digest : BitVec 256
deriving DecidableEq, Repr

/-- A CLOSE on its way (R404): its mailbox and command, the interval cut at the boundary and the record once it is built. -/
structure CloseJob where
  mbx : Nat
  cmd : List Byte
  cut : Option MtrWork := none
  /-- 1 where the map in force at the cut stays in force, and so is counted on both sides. -/
  shared : Nat := 0
  record : List Byte := []
deriving DecidableEq, Repr

/-- A mailbox (R419). -/
structure Mbx where
  state : BitVec 2 := 0
  code : Byte := 0
  window : Tab Byte := []
  resp : List Byte := []
deriving DecidableEq, Repr

/-- The cartridge and its hub interface. -/
structure MeterSt where
  present : Bool := false
  ready : Bool := false
  work : MtrWork := {}
  bank0 : MtrBank := {}
  bank1 : MtrBank := {}
  /-- Records by place: SEQ modulo 96, with SEQ. -/
  records : Tab (Option (Nat × List Byte)) := []
  inhibit : Bool := false
  inWarn : Bool := false
  sbWarn : Bool := false
  recon : Bool := false
  heartbeat : W16 := 0
  regShown : W64 := 0
  challenge : List Byte := List.replicate 16 0
  fwDigest : BitVec 256 := 0
  traceBroken : Bool := false
  /-- Energy since the last state write and since the last test pulse. -/
  sinceWrite : Nat := 0
  sincePulse : Nat := 0
  poll : Byte := 0
  cycle : Nat := 0
  polling : Bool := false
  map : Option MtrMap := none
  nextMap : Option MtrMap := none
  last : Tab (Option SenseLast) := []
  /-- Differences of the cycle in hand: charge by domain, usage by stall × 4 + x summed over base dies. -/
  dq : Tab Nat := []
  du : Tab Nat := []
  mbx0 : Mbx := {}
  mbx1 : Mbx := {}
  queue : List (Nat × List Byte) := []
  closing : Option CloseJob := none
  /-- Events that wait for the inhibit's end or for a record write: code and data. -/
  evHeld : List (Nat × List Byte) := []
  /-- The management request that a mailbox 1 command came with: the binding. -/
  vendor : Option Nat := none
deriving DecidableEq, Repr

/-- The hub's shared state: device plan, hoppers, functions, log (R45, R208, R445 to R460). -/
structure HubSt where
  dblk : PlanBlk := {}
  devPlan : Option DevPlan := none
  dcand : Option DevPlan := none
  dstage : Tab Byte := []
  held : List HeldCmd := []
  hoppers : Tab (List W64) := []
  fns : Tab FnSt := []
  vfEnable : Bool := false
  hostTime : W64 := 0
  hostTimeSet : Bool := false
  linkUp : Bool := false
  logSel : W64 := 0
  logSeq : W64 := 0
  log : Tab (Option LogEntry) := []
  /-- Log entries that cluster control cores hold while the management core is away, and their lost counts (R373). -/
  cluHeld : Tab (List LogEntry) := []
  cluLost : Tab W32 := []
  /-- Entries of other sources that wait for the management core. -/
  logQueue : List LogEntry := []
  logLost : Nat := 0
  moduleFault : Bool := false
deriving DecidableEq, Repr

/-- Everything of the block but the meter and the queue. -/
structure Dev where
  out : List Out := []
  /-- The model's own counter of free draws (log entry 3). -/
  freeCtr : Nat := 0
  tally : TallySt := {}
  units : Tab UnitSt := []
  looms : Tab LoomSt := []
  stalls : Tab StallSt := []
  /-- Tokens in the network by stream (R193). -/
  net : Tab (List Token) := []
  /-- Requests waiting for a slot, by loom × 512 + slot: streams in order of acceptance (R193). -/
  waiters : Tab (List Nat) := []
  /-- Acknowledgements under way, by stream. -/
  acks : Tab Nat := []
  mem : MemSt := {}
  hub : HubSt := {}
  links : LinkSt := {}
  power : PowerSt := {}
  fw : FwSt := {}
  sec : SecSt := {}
  mgt : MgtSt := {}
deriving DecidableEq, Repr

/-- The block: the module, the meter cartridge with its hub interface, and the commands that wait, first in, first out. -/
structure State extends Dev where
  meter : MeterSt := {}
  pending : List Instr := []
deriving DecidableEq, Repr

/-- The block after reset (R474): every register at its stated value, the queue empty. -/
def State.reset : State := {}

/-- Why the block stops with a fault. -/
inductive Fault where
  /-- Raised by no command of this table as modelled; kept so that the type is inhabited. Safe. -/
  | unused
deriving DecidableEq, Repr

/-- Why a command has no meaning. -/
inductive Refusal where
  /-- Raised by Dispatch for a command not modelled yet. Safe. -/
  | notModelled (mnemonic : String)
deriving DecidableEq, Repr

end Sys2Proof.Machine
end

