-- ==== Sys2Proof/Machine/Ops.lean ====
section
/-!
DEFINITION. Named operations over Dev: access to its tables, counters (R52), MSI-X (R457), the event log (R460),
loom status, faults and freezing (R121, R122, R363).
-/
namespace Sys2Proof.Machine

/-! ### Commands that leave the meter alone -/

/-- An effect on the module; the meter and the queue stay as they are. -/
def State.onDev (s : State) (f : Dev → Host.Outcome Dev Fault Refusal) : Host.Outcome State Fault Refusal :=
  match f s.toDev with
  | .next d => .next { s with toDev := d }
  | .fault r => .fault r
  | .refused r => .refused r

/-- A change of the module. -/
def State.modDev (s : State) (f : Dev → Dev) : State := { s with toDev := f s.toDev }

/-! ### Access to the tables of Dev -/

def Dev.loom (s : Dev) (l : Nat) : LoomSt := tget {} s.looms l
def Dev.setLoom (s : Dev) (l : Nat) (x : LoomSt) : Dev := { s with looms := tset {} s.looms l x }
def Dev.modLoom (s : Dev) (l : Nat) (f : LoomSt → LoomSt) : Dev := s.setLoom l (f (s.loom l))
def Dev.stall (s : Dev) (k : Nat) : StallSt := tget {} s.stalls k
def Dev.setStall (s : Dev) (k : Nat) (x : StallSt) : Dev := { s with stalls := tset {} s.stalls k x }
def Dev.modStall (s : Dev) (k : Nat) (f : StallSt → StallSt) : Dev := s.setStall k (f (s.stall k))
def Dev.fn (s : Dev) (f : Nat) : FnSt := tget {} s.hub.fns f
def Dev.setFn (s : Dev) (f : Nat) (x : FnSt) : Dev := { s with hub := { s.hub with fns := tset {} s.hub.fns f x } }
def Dev.modFn (s : Dev) (f : Nat) (g : FnSt → FnSt) : Dev := s.setFn f (g (s.fn f))
def Dev.emit (s : Dev) (o : Out) : Dev := { s with out := s.out ++ [o] }
def Dev.modTally (s : Dev) (f : TallySt → TallySt) : Dev := { s with tally := f s.tally }
def Dev.modMem (s : Dev) (f : MemSt → MemSt) : Dev := { s with mem := f s.mem }
def Dev.modHub (s : Dev) (f : HubSt → HubSt) : Dev := { s with hub := f s.hub }

/-- One free draw: the draw number, and the state with the counter advanced. -/
def Dev.draw (s : Dev) : Nat × Dev := (s.freeCtr, { s with freeCtr := s.freeCtr + 1 })

/-- A host access reaches the block only while the host link is up (R446, R484). -/
def Dev.host (s : Dev) (k : Dev) : Host.Outcome Dev Fault Refusal := if s.hub.linkUp then .next k else .next s

/-! ### Tally units and counters -/

/-- The table key of a tally unit. -/
def unitKey : TUnit → Nat
  | .loom l => l.val
  | .shelf k => 2000 + k.val
  | .store k => 2100 + k.val
  | .ring k => 2200 + k.val
  | .port p => 2300 + p.val
  | .cellar p => 2400 + p.val
  | .hopper => 2500

def shelfKey (k : Nat) : Nat := 2000 + k
def storeKey (k : Nat) : Nat := 2100 + k
def ringKey (k : Nat) : Nat := 2200 + k
def portKey (p : Nat) : Nat := 2300 + p
def celKey (p : Nat) : Nat := 2400 + p
def hubKey : Nat := 2500

def Dev.unit (s : Dev) (u : Nat) : UnitSt := tget {} s.units u
def Dev.setUnit (s : Dev) (u : Nat) (x : UnitSt) : Dev := { s with units := tset {} s.units u x }
def Dev.modUnit (s : Dev) (u : Nat) (f : UnitSt → UnitSt) : Dev := s.setUnit u (f (s.unit u))

/-- Counter `n` of unit `u` rises by `k`, modulo 2^64 (R52). -/
def Dev.count (s : Dev) (u n k : Nat) : Dev :=
  s.modUnit u (fun x => { x with live := tset 0 x.live n (tget 0 x.live n + BitVec.ofNat 64 k) })

/-- A marker of wave `n` that unit `i` presents reaches a shared unit, whose channels from units of the module hold nothing
between commands (R37, R40, log entry 15): before the unit's snapshot it opens the EARLY counts, after it it ends the
LATE ones (R42). -/
def takeMark (n : W32) (i : Nat) (x : UnitSt) : UnitSt :=
  if x.markWave = n then
    let f (r : InFlight) : InFlight := if r.used then { r with complete := true } else r
    let y := { x with marked := sinsert i x.marked }
    if x.snap ≠ n then y else if n.toNat % 2 = 0 then { y with rec0 := tmod {} y.rec0 i f } else { y with rec1 := tmod {} y.rec1 i f }
  else x

/-- `n` tokens of `b` bytes in all from unit `i` in the records of a shared unit (R42). -/
def sharedFlight (i n b : Nat) (x : UnitSt) : UnitSt :=
  let late (r : InFlight) : InFlight := { r with used := true, lateTok := r.lateTok + n, lateBytes := r.lateBytes + b }
  if x.markWave = 0 then x
  else if x.snap = x.markWave then
    if x.marked.contains i then x
    else if x.snap.toNat % 2 = 0 then { x with rec0 := tmod {} x.rec0 i late } else { x with rec1 := tmod {} x.rec1 i late }
  else if x.marked.contains i then
    { x with early := tmod {} x.early i (fun r => { r with earlyTok := r.earlyTok + n, earlyBytes := r.earlyBytes + b }) }
  else x

/-- Unit `src` passes the wave's marker: a shared unit, or a loom that takes part (R42, R43). -/
def Dev.passesMarker (s : Dev) (src : Nat) : Bool := decide (2000 ≤ src) || s.tally.members.any (fun m => m.2 == src)

/-- A shared unit accepts `n` tokens of `b` bytes in all from another unit of the module (R42). -/
def Dev.accept (s : Dev) (src dst n b : Nat) : Dev :=
  if s.passesMarker src then s.modUnit dst (sharedFlight src n b) else s

/-- The live value of a counter. -/
def Dev.counter (s : Dev) (u n : Nat) : W64 := tget 0 (s.unit u).live n

/-! ### Stalls and looms (R19 to R21, R187) -/

/-- The STALL record of a stall in the loaded device plan. -/
def Dev.stallRec (s : Dev) (k : Nat) : Option StallRec :=
  match s.hub.devPlan with
  | some d => d.stalls.find? (fun r => r.stall == k)
  | none => none

/-- The stall that holds a cluster, if the device plan assigns it. -/
def Dev.clusterStall (s : Dev) (c : Nat) : Option Nat :=
  match s.hub.devPlan with
  | some d => (d.stalls.find? (fun (r : StallRec) => r.clusters.getLsbD c)).map (fun (r : StallRec) => r.stall)
  | none => none

/-- The stall that holds a loom. -/
def Dev.loomStall (s : Dev) (l : Nat) : Option Nat := s.clusterStall (l / 12)

/-- The looms of a stall, ascending. -/
def Dev.stallLooms (s : Dev) (k : Nat) : List Nat :=
  match s.stallRec k with
  | some r => (List.range 1152).filter (fun l => r.clusters.getLsbD (l / 12))
  | none => []

def LoomSt.frozen (x : LoomSt) : Bool := x.frzCcc || x.frzFault || x.frzPlan

/-- State of LOM_STATUS: 0 unassigned, 1 idle, 2 running, 3 frozen, 4 faulted. -/
def loomStateCode (assigned : Bool) (x : LoomSt) : Nat :=
  if !assigned then 0 else if x.fault.faulted then 4 else if x.frozen then 3 else if x.running then 2 else 1

/-- The loom accepts tokens and issues words: neither frozen nor faulted (R121, R122). -/
def LoomSt.live (x : LoomSt) : Bool := !x.frozen && !x.fault.faulted

/-! ### MSI-X (R457) -/

def vecCount (fn : Nat) : Nat := if fn = 0 then 16 else 8

/-- Raise a vector: a message where MSI-X is enabled and nothing masks it, the pending bit where it is masked. -/
def Dev.msix (s : Dev) (fn vec : Nat) : Dev :=
  let f := s.fn fn
  let e := tget {} f.msix vec
  if !f.msixEnable then s
  else if f.msixMask || e.masked then s.modFn fn (fun f => { f with pba := sinsert vec f.pba })
  else s.emit (.msix fn vec e.addr e.data)

/-! ### The event log -/

/-- A firmware processor runs (R373, R374, R438): 0 security, 1 power, 2 scheduler, 3 management, 16 + c cluster core c. -/
def Dev.coreUp (s : Dev) (p : Nat) : Bool :=
  s.fw.released.contains p && !s.fw.down.contains p && !s.fw.held.contains p && !s.fw.handing.contains p

/-- An event for the log: it waits for EVENT_LOG_WRITE by the management core, which keeps 256 entries during the supply
inhibit (R429, R460). While that core is away, cluster cores keep 64 entries each and other sources' entries are not kept
(R373). -/
def Dev.logEvent (s : Dev) (source code stall severity : Nat) (data : List Nat) : Dev :=
  let e : LogEntry :=
    { seq := 0, source := BitVec.ofNat 16 source, code := BitVec.ofNat 16 code, stall := BitVec.ofNat 8 stall,
      severity := BitVec.ofNat 8 severity, hostTime := s.hub.hostTime, since := 0, data := data }
  if s.coreUp 3 then
    if s.power.nvInh && decide (256 ≤ s.hub.logQueue.length) then s.modHub (fun h => { h with logLost := h.logLost + 1 })
    else s.modHub (fun h => { h with logQueue := h.logQueue ++ [e] })
  else if 16 ≤ source ∧ source < 112 then
    let c := source - 16
    if (tget [] s.hub.cluHeld c).length < 64 then s.modHub (fun h => { h with cluHeld := tmod [] h.cluHeld c (· ++ [e]) })
    else s.modHub (fun h => { h with cluLost := tmod 0 h.cluLost c (· + 1) })
  else s

/-- The domain of cluster `c` is switched off (R424). -/
def Dev.dead (s : Dev) (c : Nat) : Bool := s.power.dark.contains c

/-! ### Stall faults and loom faults (R121, R363, R364) -/

/-- Steps 1 and 2 of R364: latch the first cause and freeze every loom of the stall; its kept marks go (R367), a quire
epoch in progress fails (R384); later causes are counted. -/
def Dev.faultStall (s : Dev) (k cause loom : Nat) : Dev :=
  let x := s.stall k
  if x.faulted then s.modStall k (fun x => { x with later := x.later + 1 })
  else
    let s1 := s.modStall k (fun x => { x with faulted := true, notified := false, cause := BitVec.ofNat 3 cause, faultLoom := BitVec.ofNat 11 (if cause = 1 then loom else 0) })
    let s2 := (s.stallLooms k).foldl (fun t l => t.modLoom l (fun y => { y with frzFault := true })) s1
    let s2 := s2.modMem (fun m => { m with shelf := m.shelf.map (fun e => (e.1, e.2.map (fun x => if x.stall = k then { x with kept := false } else x))) })
    let q := (s2.stall k).quire
    if q.state == .preparing || q.state == .prepared || q.state == .committing || q.state == .restoring || q.state == .reconstructing then
      s2.modStall k (fun x => { x with quire := { x.quire with state := .failed } })
    else s2

/-- A loom records a fault (R121): the first is latched; its cluster control core is interrupted and its stall faults. The register
gives SLOT a meaning for causes 1 to 3, LINE for cause 3 and OP for causes 4 to 6. Where it gives a field none, the model writes the
index of the word at work in OP for causes 1 to 3, and 0 in SLOT, LINE and PORT for causes 4 to 6, but PORT 4 for a PICK's cause 5
(DESIGN CHOICE, log entry 93). -/
def Dev.faultLoom (s : Dev) (l cause slot port line op : Nat) : Dev :=
  let x := s.loom l
  let s1 := if x.fault.faulted then s else
    (s.modLoom l (fun y => { y with fault :=
      { faulted := true, cause := BitVec.ofNat 3 cause, slot := BitVec.ofNat 9 slot, port := BitVec.ofNat 3 port,
        line := BitVec.ofNat 7 line, op := BitVec.ofNat 10 op } })).emit (.irqCcc (l / 12))
  match s.loomStall l with
  | some k => s1.faultStall k 1 l
  | none => s1

/-- Causes that outlast a plan (R374, R376, R424): a stall on a dead cluster, on a held cluster core or on a faulted module
faults at once. -/
def Dev.refault (s : Dev) (k : Nat) : Dev :=
  let cs := match s.stallRec k with
    | some r => (List.range 96).filter (fun c => r.clusters.getLsbD c)
    | none => []
  if s.hub.moduleFault then s.faultStall k 4 0
  else if cs.any s.dead then s.faultStall k 2 0
  else if cs.any (fun c => s.fw.held.contains (16 + c)) then s.faultStall k 3 0
  else s

/-- A module fault (R376): every existing stall faults with cause 4. -/
def Dev.moduleFault (s : Dev) : Dev :=
  let ks := match s.hub.devPlan with
    | some d => d.stalls.map (fun (r : StallRec) => r.stall)
    | none => []
  ks.foldl (fun t k => t.faultStall k 4 0) (s.modHub (fun h => { h with moduleFault := true }))

/-- LOM_TIER_FAULT latches if it is empty (R302), and the loom faults with CAUSE 6. -/
def Dev.tierFault (s : Dev) (l op va kind : Nat) : Dev :=
  let s1 := s.modLoom l (fun y => if y.tierFault.valid then y else
    { y with tierFault := { va := BitVec.ofNat 52 va, kind := BitVec.ofNat 3 kind, valid := true } })
  s1.faultLoom l 6 0 0 0 op

/-! ### Bench bytes and slots (R106, R108) -/

def benchByte (x : LoomSt) (a : Nat) : Byte := tget 0 x.bench a

/-- Bytes of the Bench of a loom from an address on. -/
def benchBytes (x : LoomSt) (a n : Nat) : List Byte := tgetRange 0 x.bench a n

def benchWrite (x : LoomSt) (a : Nat) (d : List Byte) : LoomSt := { x with bench := tsetRange 0 x.bench a d }

def LoomSt.slot (x : LoomSt) (i : Nat) : Slot := tget {} x.slots i
def LoomSt.setSlot (x : LoomSt) (i : Nat) (v : Slot) : LoomSt := { x with slots := tset {} x.slots i v }

/-- The bytes of a slot. -/
def slotBytes (x : LoomSt) (i : Nat) : List Byte := benchBytes x (8192 * i) 8192

/-- A slot whose four quarters are full and whose tag is written becomes FULL, or PINNED at reader count 255 (R108). -/
def Slot.settle (v : Slot) : Slot :=
  if v.state = .filling ∧ v.quarters = 15 ∧ v.tagWritten then
    { v with state := if v.setReaders = 255 then .pinned else .full, readers := v.setReaders }
  else v

/-- Write a whole tile into a slot: data, tag, reader count (R108). -/
def writeTile (x : LoomSt) (i : Nat) (t : Tile) (readers : Nat) (claimant : Nat) : LoomSt :=
  let v : Slot := { state := .filling, quarters := 15, tagWritten := true, setReaders := BitVec.ofNat 8 readers, tag := t.tag, claimant := claimant }
  (benchWrite x (8192 * i) t.data).setSlot i v.settle

/-- One completed read of a whole tile (R108): the count falls by one, the slot becomes EMPTY at zero; PINNED stays. -/
def readDone (x : LoomSt) (i : Nat) : LoomSt :=
  let v := x.slot i
  match v.state with
  | .full => if v.readers ≤ 1 then x.setSlot i {} else x.setSlot i { v with readers := v.readers - 1 }
  | _ => x

/-- A slot whose whole tile can be read now. -/
def readable (x : LoomSt) (i : Nat) : Bool := (x.slot i).state == .full || (x.slot i).state == .pinned

end Sys2Proof.Machine
end

