-- ==== Sys2Proof/Machine/Flags.lean ====
section
/-!
DEFINITION. Selvedges (R113 to R117), exception events, counters and the exception record (R78 to R82, R118).
-/
namespace Sys2Proof.Machine

/-! ### The selvedge -/

/-- One CRC-8 step over a bit: polynomial x^8 + x^2 + x + 1. -/
def crcBit (crc : Nat) (b : Bool) : Nat :=
  let top := (bit crc 7) != b
  let sh := (crc * 2) % 256
  if top then sh ^^^ 7 else sh

def crcByte (crc byte : Nat) : Nat :=
  (List.range 8).foldl (fun c i => crcBit c (bit byte (7 - i))) crc

/-- CHECK of R116 over bits [119:0], least significant byte first. -/
def crc8 (t : Nat) : Nat := (List.range 15).foldl (fun c i => crcByte c (bits t (8 * i + 7) (8 * i))) 0

def tagRow (t : Tag) : Nat := bits t.toNat 23 0
def tagCol (t : Tag) : Nat := bits t.toNat 39 24
def tagPlane (t : Tag) : Nat := bits t.toNat 51 40
def tagExtR (t : Tag) : Nat := bits t.toNat 57 52
def tagExtC (t : Tag) : Nat := bits t.toNat 63 58
def tagFmt (t : Tag) : Nat := bits t.toNat 67 64
def tagScale (t : Tag) : Nat := bits t.toNat 91 68
def tagV (t : Tag) : Bool := bit t.toNat 92
def tagO (t : Tag) : Bool := bit t.toNat 93
def tagU (t : Tag) : Bool := bit t.toNat 94
def tagX (t : Tag) : Bool := bit t.toNat 95
def tagStall (t : Tag) : Nat := bits t.toNat 102 96
def tagLast (t : Tag) : Bool := bit t.toNat 103
def tagEpoch (t : Tag) : Nat := bits t.toNat 119 104
def tagCheck (t : Tag) : Nat := bits t.toNat 127 120

/-- The fields a producer writes (R117). -/
structure TagFields where
  row : Nat
  col : Nat
  plane : Nat
  extR : Nat
  extC : Nat
  fmt : Nat
  scale : Nat
  v : Bool := false
  o : Bool := false
  u : Bool := false
  x : Bool := false
  stall : Nat
  last : Bool := false
  epoch : Nat := 0
deriving DecidableEq, Repr

/-- The selvedge with CHECK written last (R117). -/
def mkTag (f : TagFields) : Tag :=
  let body := f.row % 2 ^ 24 + (f.col % 2 ^ 16) * 2 ^ 24 + (f.plane % 2 ^ 12) * 2 ^ 40 + (f.extR % 64) * 2 ^ 52 + (f.extC % 64) * 2 ^ 58 +
    (f.fmt % 16) * 2 ^ 64 + (f.scale % 2 ^ 24) * 2 ^ 68 + b2n f.v * 2 ^ 92 + b2n f.o * 2 ^ 93 + b2n f.u * 2 ^ 94 + b2n f.x * 2 ^ 95 +
    (f.stall % 128) * 2 ^ 96 + b2n f.last * 2 ^ 103 + (f.epoch % 65536) * 2 ^ 104
  BitVec.ofNat 128 (body + crc8 body * 2 ^ 120)

/-- The selvedge is well formed but for its STALL field (R116). -/
def tagFormOk (t : Tag) : Bool :=
  tagCheck t == crc8 t.toNat &&
  (match Fmt.ofCode (tagFmt t) with
   | some f => handleOk f (Handle.ofNat (tagScale t))
   | none => false)

/-- What the check of R116 finds for a reading loom of stall `k`: none passes; 1 or 2 is the CAUSE of R121. -/
def tagCheckCause (k : Nat) (t : Tag) : Option Nat :=
  if !tagFormOk t then some 1 else if tagStall t = k then none else some 2

/-! ### Events -/

/-- Events of one output element: the V cause with its K index, the O cause, the U cause, and X (R78). -/
structure Ev where
  v : Option (Nat × Nat) := none
  o : Option Nat := none
  u : Option Nat := none
  x : Bool := false
deriving DecidableEq, Repr

/-- Events of a tile: (row, column, events) in the order in which they are raised. -/
abbrev EvList := List (Nat × Nat × Ev)

/-- What reaches the record of one element (R118): a V with an O from one special-mode overflow is one event. -/
def evRecords (e : Ev) : List (Nat × Nat × Nat) :=
  match e.v, e.o with
  | some (c, k), some 2 => [(0, c, k)]
  | some (c, k), o => (0, c, k) :: ((o.map (fun d => (1, d, noK))).toList ++ (e.u.map (fun d => (2, d, noK))).toList)
  | none, o => (o.map (fun d => (1, d, noK))).toList ++ (e.u.map (fun d => (2, d, noK))).toList

/-- One event reaches the record (R81, R82, R118). The first is first in the order in which the rows accept results: an
event of the converter whose element was accepted before the latched one takes its place. -/
def latchOne (r : ExcRec) (row col plane op er ec ord : Nat) (ev : Nat × Nat × Nat) : ExcRec :=
  if r.valid && decide (r.ord ≤ ord) then { r with overrun := true, seq := r.seq + 1 }
  else { valid := true, overrun := r.overrun || r.valid, ord := ord, event := BitVec.ofNat 2 ev.1, cause := BitVec.ofNat 4 ev.2.1, seq := r.seq + 1,
         elemRow := BitVec.ofNat 6 er, elemCol := BitVec.ofNat 6 ec, kIndex := BitVec.ofNat 32 ev.2.2,
         row := BitVec.ofNat 24 row, col := BitVec.ofNat 16 col, plane := BitVec.ofNat 12 plane, op := BitVec.ofNat 10 op }

/-- An event reaches the record of a loom: the record, the interrupt when it latches, and the run's mark (R81, R120, R130). -/
def Dev.excEvent (s : Dev) (l row col plane op runSeq er ec ord : Nat) (ev : Nat × Nat × Nat) : Dev :=
  let x := s.loom l
  let first := !x.exc.valid
  let s1 := s.setLoom l { x with exc := latchOne x.exc row col plane op er ec ord ev, excRuns := sinsert runSeq x.excRuns,
                                 excIrq := x.excIrq || (first && x.excIrqEn) }
  if first && x.excIrqEn then s1.emit (.irqCcc (l / 12)) else s1

/-- An invalid cause that the comb latched when it arose carries this mark, so that the converter does not latch it again (R118). -/
def latchedMark : Nat := 16

/-- The mark of a value whose conversion raises no event (R88). -/
def quietMark : Nat := 32

def XV.isQuiet (a : XV) : Bool := match a.bad with
  | some (c, _) => c == quietMark
  | none => false

def XV.quiet (a : XV) : XV := { a with bad := some (quietMark, noK) }

/-- The place of an event that is raised now in the order of acceptances (R82). -/
def LoomSt.nowOrd (x : LoomSt) : Nat := 64 * x.accSeq + 63

/-- The run of an event V, O or U ends with status 1 (R130). -/
def Dev.markRun (s : Dev) (l runSeq : Nat) : Dev := s.modLoom l (fun x => { x with excRuns := sinsert runSeq x.excRuns })

/-- Record the events of an output tile: the record, the run's status, and the counters of R80. `ord`: the place of element
(row, column) in the order of acceptances, where it is not now (R82, R118). -/
def Dev.recordEvents (s : Dev) (l row col plane op runSeq : Nat) (evs : EvList) (ord : Option (Nat → Nat → Nat) := none) : Dev :=
  let at_ (e : Nat × Nat × Ev) : Nat := match ord with
    | some f => f e.1 e.2.1
    | none => (s.loom l).nowOrd
  let s0 := evs.foldl (fun t e =>
    (evRecords e.2.2).foldl (fun t r =>
      if latchedMark ≤ r.2.1 then t else t.excEvent l row col plane op runSeq e.1 e.2.1 (at_ e) r) t) s
  let s1 := if evs.any (fun e => e.2.2.v.isSome || e.2.2.o.isSome || e.2.2.u.isSome) then s0.markRun l runSeq else s0
  let nv := (evs.filter (fun e => e.2.2.v.isSome)).length
  let no := (evs.filter (fun e => e.2.2.o.isSome)).length
  let nu := (evs.filter (fun e => e.2.2.u.isSome)).length
  let nx := if evs.any (fun e => e.2.2.x) then 1 else 0
  (((s1.count l 3 nv).count l 4 no).count l 5 nu).count l 6 nx

def evsV (evs : EvList) : Bool := evs.any (fun e => e.2.2.v.isSome)
def evsO (evs : EvList) : Bool := evs.any (fun e => e.2.2.o.isSome)
def evsU (evs : EvList) : Bool := evs.any (fun e => e.2.2.u.isSome)
def evsX (evs : EvList) : Bool := evs.any (fun e => e.2.2.x)

end Sys2Proof.Machine
end

