-- ==== Sys2Proof/Machine/Operands.lean ====
section
/-!
DEFINITION. Operand forms: descriptors to coordinates and slots (R132 to R134), reading and writing the elements and
scales of tiles (R55, R60, R62, R107), and the converter's element path (R63, R64, R69 to R75, R104, R105).
-/
namespace Sys2Proof.Machine

/-! ### Coordinates and slots -/

/-- One coordinate of R132: base, map, member term and the operation's own offset, modulo its selvedge width. -/
def evalCoord (ctr : List Nat) (m base map : Nat) (mem : Bool) (mstride off width : Nat) : Nat :=
  (base + (if bit map 5 then ctr.getD (map % 8) 0 * 2 ^ bits map 4 3 else 0) + (if mem then m * mstride else 0) + off) % 2 ^ width

/-- ROW, COL and PLANE of a descriptor at issue, with the operation's offsets. -/
def coords (d : Desc) (smp : Sample) (m dr dc dp : Nat) : Nat × Nat × Nat :=
  (evalCoord smp.ctr m d.rowBase d.rowMap (d.member == 1) d.mstride dr 24,
   evalCoord smp.ctr m d.colBase d.colMap (d.member == 2) d.mstride dc 16,
   evalCoord smp.ctr m d.planeBase d.planeMap (d.member == 3) d.mstride dp 12)

/-- The slot of a tile in a ring (R133). -/
def ringSlot (d : Desc) (c : Nat × Nat × Nat) : Nat :=
  let dr := (c.1 + 2 ^ 24 - d.rowBase) % 2 ^ 24
  let dc := (c.2.1 + 2 ^ 16 - d.colBase) % 2 ^ 16
  let dp := (c.2.2 + 2 ^ 12 - d.planeBase) % 2 ^ 12
  d.base + (dr * d.sr + dc + dp * d.sp) % d.depth

/-- EXT of an output tile along one coordinate (R134): the edge extent where the map is disabled or its counter is in
its last iteration, and the tile is the one of the largest offset. -/
def edgeExt (smp : Sample) (map last : Nat) (largest : Bool) : Nat :=
  if largest && (!bit map 5 || smp.lastIter.getD (map % 8) true) then last else 63

/-- EPOCH of a tile written through a descriptor (R134). -/
def epochOf (d : Desc) (smp : Sample) (firstOperand : Nat) : Nat :=
  match d.epochSrc with
  | 1 => bits smp.version.toNat 15 0
  | 2 => firstOperand
  | 3 => bits smp.step.toNat 15 0
  | _ => 0

/-! ### Elements in a slot -/

/-- Bytes of a run of 16 elements (R107). -/
def runBytes (w : Nat) : Nat := 2 * w

/-- The code of element (x, k) of a tile whose slot bytes are `g` (R55, R107). -/
def elemCode (g : Nat → Nat) (w x k : Nat) : Nat :=
  let p := w * (k % 16)
  let a := 2048 * (k / 16) + x * runBytes w + p / 8
  bits (g a + 256 * g (a + 1)) (p % 8 + w - 1) (p % 8)

/-- The byte offset of the block scale of element (x, k) (R107). -/
def scaleOff (h : Handle) (w x k : Nat) : Nat :=
  let b := h.b
  match h.geom with
  | 0 =>
    let k0 := k / b * b
    2048 * (k0 / 16) + 64 * runBytes w + (k0 % 16) / b * 64 + x
  | 1 => 2048 * (k / 16) + 64 * runBytes w + (k % 16) * (64 / b) + x / b
  | _ =>
    let k0 := k / 8 * 8
    2048 * (k0 / 16) + 64 * runBytes w + (k0 % 16) / 8 * 8 + x / 8

/-- The bytes of a tile as a lookup. -/
def dataGet (d : List Byte) : Nat → Nat := fun i => (d.getD i 0).toNat

/-- The bytes of a slot of a loom as a lookup. -/
def slotGet (x : LoomSt) (slot : Nat) : Nat → Nat := fun i => (benchByte x (8192 * slot + i)).toNat

/-- The element's own value, before scales, under flush-to-zero reads (R60, R74). -/
def elemRaw (g : Nat → Nat) (f : Fmt) (h : Handle) (ftz : Bool) (x k : Nat) : FV :=
  ftzRead f ftz (f.value (h.bfmt == 1 && f == .int8) (elemCode g f.width x k))

/-- The block scale's value at an element, 1 where there is none. -/
def elemScale (g : Nat → Nat) (f : Fmt) (h : Handle) (x k : Nat) : FV :=
  if h.bfmt = 0 then .one else scaleVal h.bfmt (g (scaleOff h f.width x k))

/-- The exact value of a stored element: e × S_b × S_t (R60, R61); outside the tile's extents it reads as zero (R117). -/
def elemExact (g : Nat → Nat) (tag : Tag) (ftz : Bool) (x k : Nat) : XV :=
  if tagExtR tag < x ∨ tagExtC tag < k then .ok .zero
  else
    match Fmt.ofCode (tagFmt tag) with
    | none => .ok .nan
    | some f =>
      let h := Handle.ofNat (tagScale tag)
      let v := scaled (elemRaw g f h ftz x k) (elemScale g f h x k)
      .ok (if h.tpres then scaled v (tscaleVal h) else v)

/-- The value of a stored element as a unit of the loom reads it, in the extended sum (R60, R67). Where e × S_b leaves that
range the spec names the result for a matrix operation's scale points alone (R97); elsewhere the reading rounds it, to an
infinity or to zero, and raises no event, since a read raises none (R61) (DESIGN CHOICE, log entry 79). -/
def elemVal (g : Nat → Nat) (tag : Tag) (ftz : Bool) (x k : Nat) : XV := (elemExact g tag ftz x k).round

/-- All 64 × 64 values of a tile. -/
def tileVals (g : Nat → Nat) (tag : Tag) (ftz : Bool) : List (List XV) :=
  (List.range 64).map (fun x => (List.range 64).map (fun k => elemVal g tag ftz x k))

def matGet (m : List (List XV)) (x k : Nat) : XV := (m.getD x []).getD k (.ok .zero)

def matMap (f : Nat → Nat → XV → XV) (m : List (List XV)) : List (List XV) :=
  m.zipIdx.map (fun r => r.1.zipIdx.map (fun e => f r.2 e.2 e.1))

def matBuild (f : Nat → Nat → XV) : List (List XV) :=
  (List.range 64).map (fun x => (List.range 64).map (fun k => f x k))

def transpose (m : List (List XV)) : List (List XV) := matBuild (fun x k => matGet m k x)

/-! ### The converter (R104) -/

/-- Blocks of a handle: the byte offset of each scale and the block's elements. -/
def blocksOf (h : Handle) (w : Nat) : List (Nat × List (Nat × Nat)) :=
  let b := h.b
  match h.geom with
  | 0 => (List.range 64).flatMap (fun x => (List.range (64 / b)).map (fun i =>
      (scaleOff h w x (b * i), (List.range b).map (fun j => (x, b * i + j)))))
  | 1 => (List.range (64 / b)).flatMap (fun i => (List.range 64).map (fun k =>
      (scaleOff h w (b * i) k, (List.range b).map (fun j => (b * i + j, k)))))
  | _ => (List.range 8).flatMap (fun i => (List.range 8).map (fun j =>
      (scaleOff h w (8 * i) (8 * j), (List.range 64).map (fun e => (8 * i + e / 8, 8 * j + e % 8)))))

/-- Where the block scales of an output come from (SC). -/
inductive ScaleSrc where
  | none
  | computed
  | supplied (f : Nat → Nat)

/-- How a conversion is done: output descriptor's format and handle, extents, rounding of element (x, k), overflow mode,
flush-to-zero, the value an infinity counts for in amax (R63), and the draw for codes left open. -/
structure ConvEnv where
  fmt : Fmt
  handle : Handle
  extR : Nat
  extC : Nat
  rnd : Nat → Nat → Rnd
  special : Bool
  ftz : Bool
  infAs : Rat
  draw : Nat

/-- What an infinity counts as in amax: only saturating mode takes it as a finite value (R63). -/
def ConvEnv.amaxInf (e : ConvEnv) : Option Rat := if e.special then none else some e.infAs

/-- An element converted: position, code, events, whether it sets its block's scale to NaN. -/
structure ElemOut where
  x : Nat
  k : Nat
  code : Nat
  ev : Ev
  scaleNan : Bool := false

/-- Convert one element whose block scale has the code `sc` (R63, R64, R69 to R74). -/
def convElem (e : ConvEnv) (sc : Nat) (x k : Nat) (v : XV) : ElemOut :=
  let h := e.handle
  let blk := h.bfmt != 0
  let mx := h.bfmt == 1 && e.fmt == .int8
  let s := scaleVal h.bfmt sc
  let fin (c : Conv) : ElemOut :=
    { x := x, k := k, code := c.code, scaleNan := c.scaleNan,
      ev := if v.isQuiet then {} else match v.bad with
        | some b => { v := some b }
        | none => { v := c.v.map (fun a => (a, noK)), o := c.o, u := c.u, x := c.x } }
  if blk && s.isNan then
    { x := x, k := k, code := if e.fmt.hasNan then e.fmt.canonNan else (Config.freeCode e.draw (64 * x + k)).toNat % 2 ^ e.fmt.width,
      ev := if v.isQuiet then {} else { v := v.bad }, scaleNan := true }
  else if blk && s.isZero then
    (if v.v.isNan then fin (convert e.fmt blk mx e.special e.ftz (e.rnd x k) .nan)
     else fin { code := 0, u := if v.v.isZero then none else some 7 })
  else
    let q : FV := match v.v, s with
      | .fin n m, .fin _ d => .fin n (m / d)
      | w, _ => w
    let c := convert e.fmt blk mx e.special e.ftz (e.rnd x k) q
    fin (if c.scaleNan then { c with code := (Config.freeCode e.draw (64 * x + k)).toNat % 2 ^ e.fmt.width } else c)

/-- Division by the output's tensor-wide scale, one rounding in the extended sum (R104). -/
def divTscale (h : Handle) (v : XV) : XV :=
  if h.tpres then
    match v.v, tscaleVal h with
    | .fin n m, .fin _ d => { v with v := extRound (.fin n (m / d)) }
    | .fin _ _, _ => { v with v := .nan }
    | _, _ => v
  else v

/-- The converted elements of a tile within its extents, block by block, and the scale codes by byte offset. A block wholly
outside the extents takes no part in amax (R105); the spec gives its scale byte no value, and the model writes the code of
1.0 that R63 gives an amax of zero (DESIGN CHOICE, log entry 80). -/
def convBlocks (e : ConvEnv) (src : ScaleSrc) (vals : Nat → Nat → XV) : List ElemOut × List (Nat × Nat) :=
  let inExt (p : Nat × Nat) : Bool := decide (p.1 ≤ e.extR) && decide (p.2 ≤ e.extC)
  if e.handle.bfmt = 0 then
    (((List.range (e.extR + 1)).flatMap (fun x => (List.range (e.extC + 1)).map (fun k => convElem e 0 x k (vals x k)))), [])
  else
    let nanCode := if e.handle.bfmt = 1 then 255 else 127
    let parts := (blocksOf e.handle e.fmt.width).map (fun b =>
      let ms := b.2.filter inExt
      let sc := match src with
        | .supplied f => f b.1
        | _ => computeScale e.fmt e.handle.bfmt e.amaxInf (ms.map (fun p => (vals p.1 p.2).v))
      let els := ms.map (fun p => convElem e sc p.1 p.2 (vals p.1 p.2))
      (els, (b.1, if els.any (·.scaleNan) then nanCode else sc)))
    (parts.flatMap (·.1), parts.map (·.2))

/-- The 8 KiB of a slot from element codes and scale bytes; every other byte is zero (R105, R107). -/
def packTile (w : Nat) (code : Nat → Nat → Nat) (scales : List (Nat × Nat)) : List Byte :=
  (List.range 4).flatMap (fun q =>
    let runs := (List.range 64).flatMap (fun x =>
      natLe (runBytes w) ((List.range 16).foldl (fun a i => a + code x (16 * q + i) * 2 ^ (w * i)) 0))
    runs ++ (List.range (2048 - 64 * runBytes w)).map (fun i =>
      let a := 2048 * q + 64 * runBytes w + i
      match scales.find? (fun p => p.1 == a) with
      | some p => BitVec.ofNat 8 p.2
      | none => 0))

/-- The converted tile: its slot bytes, and its events in row order (R82, R104). -/
def convertTileData (e : ConvEnv) (src : ScaleSrc) (vals : List (List XV)) : List Byte × EvList :=
  let v (x k : Nat) : XV := divTscale e.handle (matGet vals x k)
  let (els, scs) := convBlocks e src v
  let code (x k : Nat) : Nat := match els.find? (fun o => o.x == x && o.k == k) with
    | some o => o.code
    | none => 0
  let evs := (List.range (e.extR + 1)).flatMap (fun x => (List.range (e.extC + 1)).filterMap (fun k =>
    match els.find? (fun o => o.x == x && o.k == k) with
    | some o => if o.ev = {} then none else some (x, k, o.ev)
    | none => none))
  (packTile e.fmt.width code scs, evs)

/-- The element index of R141 at row x and column y of the tile at the given coordinates. -/
def elemIndex (d : Desc) (c : Nat × Nat × Nat) (x y : Nat) : Nat :=
  c.2.2 * 4096 * d.sp + (64 * c.1 + x) * 64 * d.sr + 64 * c.2.1 + y

/-- The rounding of an output: RNE, or SR with the draw of R141. -/
def rndOf (sr : Bool) (seed purpose t step layer : Nat) (d : Desc) (c : Nat × Nat × Nat) (x y : Nat) : Rnd :=
  if sr then .sr (philoxDraw seed purpose t step layer (elemIndex d c x y)) else .rne

end Sys2Proof.Machine
end

