-- ==== Sys2Proof/Machine/Tier.lean ====
section
/-!
DEFINITION. The tiers: translation and placement (R300 to R312), the Shelf (R313 to R316), Store and Cellar lines
(R320 to R325), regulators' waiting units (R317), and byte access to a stall's device range.
-/
namespace Sys2Proof.Machine

/-! ### Regulators: units waiting (R317) -/

def regStore (st : Nat) : Nat := st
def regCellar (p : Nat) : Nat := 100 + p
def regShelf (k : Nat) : Nat := 200 + k
def regRing (k : Nat) (cw : Bool) : Nat := if cw then 300 + k else 400 + k

def Dev.reg (s : Dev) (i : Nat) : RegSt := tget {} s.mem.regs i
def Dev.modReg (s : Dev) (i : Nat) (f : RegSt → RegSt) : Dev :=
  s.modMem (fun m => { m with regs := tmod {} m.regs i f })

/-- `n` units of stall `k` (96: device traffic) wait at a regulator. -/
def Dev.regAdds (s : Dev) (i k n : Nat) : Dev :=
  s.modReg i (fun r => { r with waiting := tmod 0 r.waiting k (· + n) })

def Dev.regAdd (s : Dev) (i k : Nat) : Dev := s.regAdds i k 1

/-- The ring stops a token leaves from on its way between two dies, with the direction: fewer stretches, clockwise
when both take four (R192). -/
def ringHops (a b : Nat) : List (Nat × Bool) :=
  let cw := (b + 8 - a) % 8
  if cw ≤ 4 then (List.range cw).map (fun i => ((a + i) % 8, true))
  else (List.range (8 - cw)).map (fun i => ((a + 8 - i) % 8, false))

/-- `n` tokens of 64 bytes of stall `k` on the given hops, from unit `src` on: at each stop that they leave a unit waits at
the ring regulator, and the stop counts them, those that find another on its stretch also as waiting (R317, R479), and records
them by the unit that they come from (R42). -/
def Dev.ringPass (s : Dev) (k src n : Nat) (hops : List (Nat × Bool)) : Dev :=
  hops.foldl (fun t h =>
    let before := if h.2 then ((h.1 + 7) % 8, true) else ((h.1 + 1) % 8, false)
    let waits := if (t.reg (regRing h.1 h.2)).waiting.isEmpty then n - 1 else n
    (((t.regAdds (regRing h.1 h.2) k n).accept (if hops.contains before then ringKey before.1 else src) (ringKey h.1) n (64 * n)).count
      (ringKey h.1) (if h.2 then 0 else 1) n).count (ringKey h.1) 2 waits) s

/-- `n` tokens of 64 bytes of stall `k` from unit `src` on die `a` to die `b` (R13, R192). -/
def Dev.ringToken (s : Dev) (k src n a b : Nat) : Dev := s.ringPass k src n (ringHops a b)

/-! ### Places (R305 to R307) -/

/-- A physical location: a Store stack and stack address, or a Cellar port and expander address. -/
inductive Loc where
  | store (stack addr : Nat)
  | cellar (port addr : Nat)
deriving DecidableEq, Repr

def blockKey (r b : Nat) : Nat := r * 2 ^ 32 + b

def frameSz : Nat := 2097152

/-- The equations of R306 for a Store region's block `b` at place `p`, offset `x`. -/
def storeAddr (r : Region) (b : Nat) (p : Place) (x : Nat) : Nat × Nat :=
  let q := frameSz * p.slot + x
  match r.interleave with
  | 0 => let c := q / 256; (c % 24, frameSz * p.frame + 256 * (c / 24) + q % 256)
  | 1 => let c := q / 4096; (c % 24, frameSz * p.frame + 4096 * (c / 24) + q % 4096)
  | 2 => ((b + r.num) % 24, frameSz * p.frame + x)
  | _ => let c := q / 256; (3 * r.die + c % 3, frameSz * p.frame + 256 * (c / 3) + q % 256)

/-- A place of an interleave mode holds the Store byte at a stack address (R306). -/
def placeHolds (inter u : Nat) (p : Place) (st a : Nat) : Bool :=
  let within (c n : Nat) : Bool := decide (n * p.slot ≤ c) && decide (c < n * (p.slot + 1))
  a / frameSz == p.frame && (match inter with
    | 0 => within (a % frameSz / 256 * 24 + st) 8192
    | 1 => within (a % frameSz / 4096 * 24 + st) 512
    | 2 => st == u
    | _ => st / 3 == u && within (a % frameSz / 256 * 3 + st % 3) 8192)

/-- How many of the units `n * j` to `n * j + n - 1` lie on stack `i` of `m`. -/
def unitsOn (m i n j : Nat) : Nat := (n * (j + 1) + (m - 1) - i) / m - (n * j + (m - 1) - i) / m

/-- Lines of one stack that a place holds. -/
def placeLines (inter u : Nat) (p : Place) (st : Nat) : Nat :=
  match inter with
  | 0 => 4 * unitsOn 24 st 8192 p.slot
  | 1 => 64 * unitsOn 24 st 512 p.slot
  | 2 => if st = u then 32768 else 0
  | _ => if st / 3 = u then 4 * unitsOn 3 (st % 3) 8192 p.slot else 0

/-- The zeroing of released places is traffic of the stall at each Store and Cellar regulator that they lie behind: a unit
for each line to be written (R214, R317). -/
def Dev.zeroUnits (s : Dev) (k : Nat) (zs : List (Place × Nat × Nat × Bool)) : Dev :=
  zs.foldl (fun t z =>
    if z.2.2.2 then t.regAdds (regCellar z.2.2.1) k 32768
    else (List.range 24).foldl (fun u st => let n := placeLines z.2.1 z.2.2.1 z.1 st; if n = 0 then u else u.regAdds (regStore st) k n) t) s

/-- The populated Cellar ports, ascending. -/
def MemSt.ports (m : MemSt) : List Nat := (List.range 4).filter (fun p => m.celPorts.getLsbD p)

/-- The port of a Cellar region's block (R307). -/
def celPortOf (m : MemSt) (r : Region) (b : Nat) : Nat :=
  let ps := m.ports
  ps.getD ((b + r.num) % (max ps.length 1)) 0

def homeLoc (m : MemSt) (r : Region) (b : Nat) (p : Place) (x : Nat) : Loc :=
  if r.cellar then .cellar (celPortOf m r b) (frameSz * p.frame + x)
  else .store (storeAddr r b p x).1 (storeAddr r b p x).2

/-- A frame of the device reserve (R304). -/
def reserveFrame (stack f : Nat) : Bool := decide (f ≤ 20) || (f == 21 && decide (stack ≤ 7))

def MemSt.stack (m : MemSt) (st : Nat) : StackSt := tget {} m.stks st

/-- Frame `f` of a stack holds nothing and may take a block (R304, R305, R312). -/
def frameFree (m : MemSt) (st f : Nat) : Bool :=
  decide (f < 65536) && !reserveFrame st f && (tget (9, 0) m.bands f).1 == 9 && tget 0 m.triples (st / 3 * 65536 + f) == 0 &&
  !m.singles.contains (st * 65536 + f) && !((m.stack st).retiring.contains f)

def bandFree (m : MemSt) (f : Nat) : Bool := (List.range 24).all (fun st => frameFree m st f)
def tripleFree (m : MemSt) (k f : Nat) : Bool := (List.range 3).all (fun i => frameFree m (3 * k + i) f)

/-- The highest number below `n` that satisfies `p`. -/
def findDown (p : Nat → Bool) : Nat → Option Nat
  | 0 => none
  | n + 1 => if p n then some n else findDown p n

/-- The lowest number from `i` on, `n` tries, that satisfies `p`. -/
def findUp (p : Nat → Bool) : Nat → Nat → Option Nat
  | 0, _ => none
  | n + 1, i => if p i then some i else findUp p n (i + 1)

/-- The first clear bit of a mask below `n`. -/
def freeBit {w : Nat} (v : BitVec w) (n : Nat) : Option Nat := (List.range n).find? (fun i => !v.getLsbD i)

def setBit {w : Nat} (v : BitVec w) (i : Nat) : BitVec w := v ||| BitVec.ofNat w (2 ^ i)
def clrBit {w : Nat} (v : BitVec w) (i : Nat) : BitVec w := v &&& ~~~ BitVec.ofNat w (2 ^ i)

/-- No stack of a band or triple holds it as retiring. -/
def soundFrame (m : MemSt) (stks : List Nat) (f : Nat) : Bool := stks.all (fun st => !(m.stack st).retiring.contains f)

/-- Take a place for one block (R305, R307); a band or triple with a retiring frame takes none (R312). -/
def allocBlock (m : MemSt) (r : Region) (b : Nat) : Option (Place × MemSt) :=
  if r.cellar then
    let p := celPortOf m r b
    if m.ports.isEmpty then none else
    match findUp (fun f => !m.celFrames.contains (p * 2 ^ 24 + f)) (m.celCap.toNat / m.ports.length / 2) 0 with
    | some f => some (⟨f, 0⟩, { m with celFrames := sinsert (p * 2 ^ 24 + f) m.celFrames })
    | none => none
  else if r.interleave ≤ 1 then
    match (m.bands.reverse.find? (fun e => e.2.1 == r.interleave && (freeBit e.2.2 24).isSome && soundFrame m (List.range 24) e.1)) with
    | some e => (freeBit e.2.2 24).map (fun j => (⟨e.1, j⟩, { m with bands := tset (9, 0) m.bands e.1 (e.2.1, setBit e.2.2 j) }))
    | none => (findDown (bandFree m) 65536).map (fun f => (⟨f, 0⟩, { m with bands := tset (9, 0) m.bands f (r.interleave, 1) }))
  else if r.interleave = 3 then
    match (m.triples.find? (fun e => e.1 / 65536 == r.die && (freeBit e.2 3).isSome &&
        soundFrame m ((List.range 3).map (3 * r.die + ·)) (e.1 % 65536))) with
    | some e => (freeBit e.2 3).map (fun j => (⟨e.1 % 65536, j⟩, { m with triples := tset 0 m.triples e.1 (setBit e.2 j) }))
    | none => (findUp (tripleFree m r.die) 65536 0).map (fun f =>
        (⟨f, 0⟩, { m with triples := tset 0 m.triples (r.die * 65536 + f) 1 }))
  else
    let st := (b + r.num) % 24
    (findUp (frameFree m st) 65536 0).map (fun f => (⟨f, 0⟩, { m with singles := sinsert (st * 65536 + f) m.singles }))

/-- Give a block's place back to the free pool (R214). -/
def freePlace (m : MemSt) (p : Place) (inter unit_ : Nat) (cel : Bool) : MemSt :=
  if cel then { m with celFrames := m.celFrames.filter (· != unit_ * 2 ^ 24 + p.frame) }
  else if inter ≤ 1 then
    let e := tget (9, 0) m.bands p.frame
    let v := clrBit e.2 p.slot
    { m with bands := tset (9, 0) m.bands p.frame (if v = 0 then (9, 0) else (e.1, v)) }
  else if inter = 3 then { m with triples := tmod 0 m.triples (unit_ * 65536 + p.frame) (fun v => clrBit v p.slot) }
  else { m with singles := m.singles.filter (· != unit_ * 65536 + p.frame) }

/-- Place every block of a region from block `b` on, `n` blocks. -/
def placeRegion (r : Region) : Nat → Nat → MemSt → Option (List (Nat × Block) × MemSt)
  | 0, _, m => some ([], m)
  | n + 1, b, m =>
    match allocBlock m r b with
    | none => none
    | some (p, m1) =>
      match placeRegion r n (b + 1) m1 with
      | some (l, m2) => some ((blockKey r.num b, { home := some p }) :: l, m2)
      | none => none

/-- Place all regions of a list. -/
def placeRegions : List Region → MemSt → Option (List (Nat × Block) × MemSt)
  | [], m => some ([], m)
  | r :: t, m =>
    match placeRegion r (r.len / frameSz) 0 m with
    | none => none
    | some (l, m1) =>
      match placeRegions t m1 with
      | some (l2, m2) => some (l ++ l2, m2)
      | none => none

/-! ### Translation (R300 to R303, R311) -/

/-- Why an access waits (R333): the indices of the loom counters 47 to 52 are these plus 47. -/
inductive WaitCause where
  | store | cellar | callup | cellarFailed | pool | moving
deriving DecidableEq, Repr

def WaitCause.counter : WaitCause → Nat
  | .store => 47 | .cellar => 48 | .callup => 49 | .cellarFailed => 50 | .pool => 51 | .moving => 52

/-- What translating a VA gives. -/
inductive Xlate where
  | unmapped
  | staging (off : Nat)
  | waits (c : WaitCause)
  | at_ (r : Region) (b g : Nat) (loc : Loc)
deriving DecidableEq, Repr

def stageBase : Nat := 0xFFFFFFC000000

def Dev.block (s : Dev) (k r b : Nat) : Block := tget {} (s.stall k).blocks (blockKey r b)

def Dev.modBlock (s : Dev) (k r b : Nat) (f : Block → Block) : Dev :=
  s.modStall k (fun x => { x with blocks := tmod {} x.blocks (blockKey r b) f })

/-- The regions of the stall's loaded plan. -/
def Dev.regions (s : Dev) (k : Nat) : List Region :=
  match (s.stall k).plan with
  | some p => p.regions
  | none => []

/-- A write to a listed SRC block waits while the quire engine prepares, commits or restores (R382); the listed SRC
regions are those of the quire record, held by `quireSrc`. -/
def quireBusy (q : QuireState) : Bool := q == .preparing || q == .committing || q == .restoring

/-- The location of a present or absent granule of a block (R301, R311). -/
def locate (m : MemSt) (r : Region) (b g x : Nat) (blk : Block) : Option Loc × Option WaitCause :=
  match blk.home with
  | none => (none, none)
  | some hp =>
    let mv := tget .still blk.moving g
    let home : Option Loc × Option WaitCause :=
      match homeLoc m r b (if blk.moved.getLsbD g then blk.fresh.getD hp else hp) x with
      | .cellar p a => if tget .absent m.celState p == .failed then (none, some .cellarFailed) else (some (.cellar p a), none)
      | l => (some l, none)
    match mv with
    | .callingUp => (none, some .callup)
    | .puttingDown => (none, some .moving)
    | .relocating => (none, some .moving)
    | _ =>
      match blk.guest with
      | some (st, f) => if blk.present.getLsbD g then (some (.store st (frameSz * f + x)), none) else home
      | none => home

/-- Translate a VA of stall `k` (R300). -/
def Dev.xlate (s : Dev) (k va : Nat) : Xlate :=
  let stageLen := match s.stallRec k with
    | some r => r.stage * 1048576
    | none => 0
  if stageBase ≤ va ∧ va < stageBase + stageLen then .staging (va - stageBase)
  else
    match (s.regions k).find? (fun r => decide (r.va ≤ va) && decide (va < r.va + r.len)) with
    | none => .unmapped
    | some r =>
      let o := va - r.va
      let b := o / frameSz
      let x := o % frameSz
      let g := x / 65536
      match locate s.mem r b g x (s.block k r.num b) with
      | (some l, _) => .at_ r b g l
      | (none, some c) => .waits c
      | (none, none) => .unmapped

/-! ### Store and Cellar lines -/

def storeKeyOf (st a : Nat) : Nat := st * 2 ^ 37 + a
def celKeyOf (p a : Nat) : Nat := p * 2 ^ 44 + a

def lineOfStore (m : MemSt) (st ln : Nat) : List Byte := tgetRange 0 m.store (storeKeyOf st (64 * ln)) 64
def storePoisoned (m : MemSt) (st ln : Nat) : Bool := (m.stack st).poison.contains ln

def MemSt.modStack (m : MemSt) (st : Nat) (f : StackSt → StackSt) : MemSt := { m with stks := tmod {} m.stks st f }

/-- Read a Store line at its controller (STC_CNT_READ_LINES); a poisoned line gives no data and counts POISON_RD (R322). -/
def Dev.stcRead (s : Dev) (k st ln : Nat) : Option (List Byte) × Dev :=
  let s1 := ((s.regAdd (regStore st) k).accept (shelfKey (st / 3)) (storeKey st) 1 64).count (storeKey st) 0 1
  if storePoisoned s.mem st ln then (none, s1.count (storeKey st) 5 1)
  else (some (lineOfStore s.mem st ln), s1)

/-- Write a Store line at its controller (STC_CNT_WRITE_LINES); a full-line write clears poison (R322). -/
def Dev.stcWrite (s : Dev) (k st ln : Nat) (d : List Byte) : Dev :=
  let s1 := ((s.regAdd (regStore st) k).accept (shelfKey (st / 3)) (storeKey st) 1 64).count (storeKey st) 1 1
  s1.modMem (fun m => { (m.modStack st (fun x => { x with poison := x.poison.filter (· != ln) })) with
    store := tsetRange 0 m.store (storeKeyOf st (64 * ln)) d })

/-! ### The Shelf (R313 to R315) -/

def shelfLineKey (st ln : Nat) : Nat := st * 2 ^ 31 + ln
def shelfSet (key : Nat) : Nat := (Config.shelfHash key).toNat

def Dev.shelfLines (s : Dev) (k : Nat) : List ShelfLine := tget [] s.mem.shelf k
def Dev.setShelf (s : Dev) (k : Nat) (l : List ShelfLine) : Dev := s.modMem (fun m => { m with shelf := tset [] m.shelf k l })

/-- Lines per Shelf that a quota in MiB allows: one eighth of it. -/
def shelfCap (mib : Nat) : Nat := mib * 2048

/-- Remove the line of a key. -/
def dropLine (l : List ShelfLine) (key : Nat) : List ShelfLine := l.filter (fun x => x.line != key)

/-- Write a dirty Shelf line back to Store, charged to stall `by_` (R317, R367). -/
def Dev.shelfWriteBack (s : Dev) (die by_ : Nat) (x : ShelfLine) : Dev :=
  if x.dirty && !x.released then
    (s.stcWrite by_ (x.line / 2 ^ 31) (x.line % 2 ^ 31) x.data).count (shelfKey die) 3 1
  else s

/-- A line any stall may evict: of a released region, or of a faulted stall (R315, R367). -/
def Dev.looseLine (s : Dev) (x : ShelfLine) : Bool := x.released || (s.stall x.stall).faulted

/-- The line a fill by stall `k` into a set evicts: none needed (outer none of the pair's second), or no line may be
evicted. `full`: the stall is at its limit, so only a line of its own may go. -/
def Dev.victim (s : Dev) (lines : List ShelfLine) (set_ k : Nat) (atLimit : Bool) : Option (Option ShelfLine) :=
  let inSet := lines.filter (fun x => shelfSet x.line == set_)
  let own := inSet.filter (fun x => x.stall == k && !x.released)
  let ownVictim := match (own.filter (fun x => !x.kept)).getLast? with
    | some x => some x
    | none => own.getLast?
  if atLimit then ownVictim.map some
  else if inSet.length < 16 then some none
  else
    match (inSet.filter (fun x => s.looseLine x && x.stall != k || x.released)).getLast? with
    | some x => some (some x)
    | none => ownVictim.map some

/-- The KEEP limit of a region in MiB, if a KEEP record gives one (R198). -/
def Dev.keepLimit (s : Dev) (k r : Nat) : Option Nat :=
  match (s.stall k).plan with
  | some p => (p.keeps.find? (fun e => e.1 == r)).map (·.2)
  | none => none

/-- Whether a line of a region may be kept, and the Shelf with room for it: at the KEEP limit the region's least recently
used kept line makes way, whether the line is filled or is met by a hit, and a limit of 0 keeps none (R198, R315). -/
def Dev.keepTake (s : Dev) (die k r key : Nat) : Bool × Dev :=
  match s.keepLimit k r with
  | none => (true, s)
  | some mib =>
    let ks := (s.shelfLines die).filter (fun y => y.kept && y.stall == k && y.region == r && !y.released && y.line != key)
    if shelfCap mib = 0 then (false, s)
    else if ks.length < shelfCap mib then (true, s)
    else match ks.getLast? with
      | some y => (true, (s.shelfWriteBack die y.stall y).setShelf die (dropLine (s.shelfLines die) y.line))
      | none => (true, s)

/-- Put a line at the most recently used place of its Shelf, kept if `keep` asks for it and its region's limit admits it. -/
def Dev.shelfPut (s : Dev) (die : Nat) (x : ShelfLine) (keep : Bool) : Dev :=
  let g := if keep then s.keepTake die x.stall x.region x.line else (false, s)
  g.2.setShelf die ({ x with kept := g.1 } :: dropLine (g.2.shelfLines die) x.line)

/-- Allocate a line in the Shelf of a die (R315); without allocation SHF_CNT_NOALLOC counts and the state is returned
with `false`. -/
def Dev.shelfFill (s : Dev) (die : Nat) (x : ShelfLine) : Bool × Dev :=
  let lines := s.shelfLines die
  let quota := match s.stallRec x.stall with
    | some r => shelfCap r.shelf
    | none => 0
  let mine := (lines.filter (fun y => y.stall == x.stall && !y.released)).length
  if quota = 0 then (false, s.count (shelfKey die) 2 1)
  else
    match s.victim lines (shelfSet x.line) x.stall (decide (quota ≤ mine)) with
    | none => (false, s.count (shelfKey die) 2 1)
    | some v =>
      let s1 := match v with
        | some y => (s.shelfWriteBack die (if (s.stall y.stall).faulted then x.stall else y.stall) y).setShelf die (dropLine lines y.line)
        | none => s
      (true, s1.shelfPut die x x.kept)

/-- Read a Store line through its Shelf under a hint (R314); none for a poisoned line. -/
def Dev.shelfRead (s : Dev) (k : Nat) (r : Region) (st ln hint : Nat) : Option (List Byte) × Dev :=
  let die := st / 3
  let key := shelfLineKey st ln
  let s0 := s.regAdd (regShelf die) k
  match (s.shelfLines die).find? (fun x => x.line == key && !x.released) with
  | some x =>
    let s1 := s0.count (shelfKey die) 0 1
    if hint = 3 then (some x.data, (if x.dirty then s1.count (shelfKey die) 4 1 else s1).setShelf die (dropLine (s1.shelfLines die) key))
    else (some x.data, s1.shelfPut die x (x.kept || hint == 2))
  | none =>
    let s1 := s0.count (shelfKey die) 1 1
    match s1.stcRead k st ln with
    | (none, s2) => (none, s2)
    | (some d, s2) =>
      if hint = 0 ∨ hint = 2 then
        (some d, (s2.shelfFill die { line := key, stall := k, region := r.num, kept := hint == 2, data := d }).2)
      else (some d, s2)

/-- Replace bytes of a line. -/
def splice (d : List Byte) (off : Nat) (v : List Byte) : List Byte := d.take off ++ v ++ d.drop (off + v.length)

/-- Write a line or part of one through its Shelf (R313, R314); false, with what it counts, where the fetch meets a
poisoned line. -/
def Dev.shelfWrite (s : Dev) (k : Nat) (r : Region) (st ln hint off : Nat) (v : List Byte) : Bool × Dev :=
  let die := st / 3
  let key := shelfLineKey st ln
  let s0 := s.regAdd (regShelf die) k
  let full := v.length == 64
  match (s.shelfLines die).find? (fun x => x.line == key && !x.released) with
  | some x =>
    let s1 := s0.count (shelfKey die) 0 1
    let d := splice x.data off v
    let s2 := if r.write then s1 else s1.stcWrite k st ln d
    (true, s2.shelfPut die { x with data := d, dirty := x.dirty || r.write } (x.kept || hint == 2))
  | none =>
    let s1 := s0.count (shelfKey die) 1 1
    let fetched : Option (List Byte) × Dev := if full then (some v, s1) else s1.stcRead k st ln
    match fetched with
    | (none, s2) => (false, s2)
    | (some d0, s2) =>
      let d := splice d0 off v
      if hint = 1 ∨ !r.write then (true, s2.stcWrite k st ln d)
      else
        match s2.shelfFill die { line := key, stall := k, region := r.num, kept := hint == 2, dirty := true, data := d } with
        | (true, s3) => (true, s3)
        | (false, s3) => (true, s3.stcWrite k st ln d)

/-! ### One line at a location -/

def celLine (m : MemSt) (p ln : Nat) : List Byte := tgetRange 0 m.cellar (celKeyOf p (64 * ln)) 64
def celPoisoned (m : MemSt) (p ln : Nat) : Bool := m.cellarPoison.contains (celKeyOf p (64 * ln) / 64)

def Dev.celRead (s : Dev) (k p ln : Nat) : Option (List Byte) × Dev :=
  let s1 := (s.regAdd (regCellar p) k).count (celKey p) 0 1
  if celPoisoned s.mem p ln then (none, s1.count (celKey p) 4 1) else (some (celLine s.mem p ln), s1)

/-- Write a Cellar line or part of one; false where a part meets a poisoned line, which counts as a read of it (R322, R325). -/
def Dev.celWrite (s : Dev) (k p ln off : Nat) (v : List Byte) : Bool × Dev :=
  let s1 := s.regAdd (regCellar p) k
  if celPoisoned s.mem p ln ∧ v.length ≠ 64 then (false, (s1.count (celKey p) 0 1).count (celKey p) 4 1)
  else (true, (s1.count (celKey p) 1 1).modMem (fun m => { m with
    cellar := tsetRange 0 m.cellar (celKeyOf p (64 * ln) + off) v,
    cellarPoison := m.cellarPoison.filter (· != celKeyOf p (64 * ln) / 64) }))

/-- Read the line at a location; the kind of LOM_TIER_FAULT where it is poisoned. -/
def Dev.locRead (s : Dev) (k : Nat) (r : Region) (l : Loc) (hint : Nat) : Option (List Byte) × Dev :=
  match l with
  | .store st a => s.shelfRead k r st (a / 64) hint
  | .cellar p a => s.celRead k p (a / 64)

def Dev.locWrite (s : Dev) (k : Nat) (r : Region) (l : Loc) (hint off : Nat) (v : List Byte) : Bool × Dev :=
  match l with
  | .store st a => s.shelfWrite k r st (a / 64) hint off v
  | .cellar p a => s.celWrite k p (a / 64) off v

def poisonKind : Loc → Nat
  | .store _ _ => 4
  | .cellar _ _ => 5

/-! ### Byte access by a stall's loom or by the host -/

/-- The outcome of a tier access: done, refused or failed with the VA and the kind of LOM_TIER_FAULT, or waiting. -/
inductive TRes (α : Type) where
  | ok (a : α) (s : Dev)
  | bad (va kind : Nat) (s : Dev)
  | wait (c : WaitCause)

/-- The pieces of a byte range that each lie in one line: (VA, bytes). -/
def pieces : Nat → Nat → Nat → List (Nat × Nat)
  | 0, _, _ => []
  | fuel + 1, va, n =>
    if n = 0 then [] else
    let k := min n (64 - va % 64)
    (va, k) :: pieces fuel (va + k) (n - k)

def piecesOf (va n : Nat) : List (Nat × Nat) := pieces (n / 64 + 2) va n

/-- The region's default hint, or the one given. -/
def hintOf (r : Region) (h : Option Nat) : Nat := h.getD r.hint

/-- The traffic of one line between loom `src` and the line's place: over the ring where their dies differ, and into the
Shelf or the Cellar port (R13, R42). The host and the quire engine cross no ring stretch. -/
def Dev.lineTraffic (s : Dev) (k : Nat) (src : Option Nat) (l : Loc) (write : Bool) : Dev :=
  match src, l with
  | some m, .store st _ =>
    let a := m / 144
    let b := st / 3
    let s1 := if write then s.ringToken k m 1 a b else s.ringToken k (shelfKey b) 1 b a
    s1.accept (if a = b then m else ringKey b) (shelfKey b) 1 64
  | some m, .cellar p _ => s.accept m (celKey p) 1 64
  | none, _ => s

/-- Read `n` bytes at a VA of stall `k` for loom `src`, if for one (R300 to R302, R313, R322). -/
def Dev.tierReadP (s : Dev) (k : Nat) (src : Option Nat) (hint : Option Nat) : List (Nat × Nat) → List Byte → TRes (List Byte)
  | [], acc => .ok acc s
  | (va, n) :: t, acc =>
    match s.xlate k va with
    | .unmapped => .bad va 1 s
    | .staging _ => .bad va 3 s
    | .waits c => .wait c
    | .at_ r _ _ l =>
      match s.locRead k r l (hintOf r hint) with
      | (none, s1) => .bad va (poisonKind l) s1
      | (some d, s1) => (s1.lineTraffic k src l false).tierReadP k src hint t (acc ++ slice d (va % 64) n)

def Dev.tierRead (s : Dev) (k : Nat) (src : Option Nat) (hint : Option Nat) (va n : Nat) : TRes (List Byte) :=
  s.tierReadP k src hint (piecesOf va n) []

/-- Marks a write leaves on its block: the granule's dirty bit in the write-back configuration (R309), and quire-dirty (R382). -/
def Dev.markWrite (s : Dev) (k : Nat) (r : Region) (b g : Nat) : Dev :=
  s.modBlock k r.num b (fun x => { x with
    dirty := if r.cellar && x.guest.isSome && x.present.getLsbD g && s.mem.celMode == 2 then setBit x.dirty g else x.dirty,
    quireDirty := true })

/-- SRC regions named by the stall's quire record (R381), read from memory at the table's VA. -/
def Dev.quireSrc (s : Dev) (k : Nat) : List Nat :=
  let q := (s.stall k).quire
  match s.tierRead k none none q.table.toNat 64 with
  | .ok h _ =>
    match s.tierRead k none none (q.table.toNat + 64) (32 * u16 h 4) with
    | .ok e _ => (List.range (u16 h 4)).map (fun i => u16 e (32 * i))
    | _ => []
  | _ => []

/-- Write bytes at a VA of stall `k`; `host`: a host write, which may write read-only regions (R302, R303). -/
def Dev.tierWriteP (s : Dev) (k : Nat) (src : Option Nat) (hint : Option Nat) (host : Bool) :
    List (Nat × Nat) → List Byte → TRes Unit
  | [], _ => .ok () s
  | (va, n) :: t, v =>
    match s.xlate k va with
    | .unmapped => .bad va 1 s
    | .staging _ => .bad va 3 s
    | .waits c => .wait c
    | .at_ r b g l =>
      if !host && !r.write then .bad va 2 s
      else if quireBusy (s.stall k).quire.state && (s.quireSrc k).contains r.num then .wait .moving
      else
        match s.locWrite k r l (hintOf r hint) (va % 64) (v.take n) with
        | (false, s1) => .bad va (poisonKind l) s1
        | (true, s1) => ((s1.markWrite k r b g).lineTraffic k src l true).tierWriteP k src hint host t (v.drop n)

def Dev.tierWrite (s : Dev) (k : Nat) (src : Option Nat) (hint : Option Nat) (host : Bool) (va : Nat) (v : List Byte) : TRes Unit :=
  s.tierWriteP k src hint host (piecesOf va v.length) v

/-- A loom's access that waits: the episode of the word's unit is counted once, by its cause when it begins (R333), and the
step does not happen. -/
def Dev.loomWait (s : Dev) (l op : Nat) (c : WaitCause) : Dev :=
  if (s.loom l).waits.contains op then s else (s.modLoom l (fun x => { x with waits := op :: x.waits })).count l c.counter 1

/-- The word's unit has its access: its episode, if any, is over (R333). -/
def Dev.resumes (s : Dev) (l op : Nat) : Dev := s.modLoom l (fun x => { x with waits := x.waits.erase op })

/-- Run a loom's tier access to its end: continue, latch the fault, or count the wait. -/
def TRes.forLoom {α : Type} (r : TRes α) (s : Dev) (l op : Nat) (f : α → Dev → Dev) : Dev :=
  match r with
  | .ok a s1 => f a (s1.resumes l op)
  | .bad va kind s1 => s1.tierFault l op va kind
  | .wait c => s.loomWait l op c

end Sys2Proof.Machine
end

