-- ==== Sys2Proof/Machine/Station.lean ====
section
/-!
DEFINITION. What every operation word of a station shares: its context, issue (R132, R135), reading tiles with the
selvedge check (R108, R116), and writing output tiles (R104, R117, R133, R134).
-/
namespace Sys2Proof.Machine

/-- The station a loom plays and what its operations draw on (R125, R128, R203). -/
structure Ctx where
  l : Nat
  stall : Nat
  plan : StallPlan
  st : Station
  ftz : Bool
  special : Bool
  layer : Nat
  seed : Nat

/-- The context of a loom of a placed station. -/
def Dev.ctx (s : Dev) (l : Nat) : Option Ctx :=
  let x := s.loom l
  match s.loomStall l, x.station with
  | some k, some n =>
    match (s.stall k).plan with
    | some p =>
      match p.station n with
      | some t =>
        let h := x.draft.headD 0
        let seed : Nat := match p.seeds.find? (fun (e : Nat × W64) => e.1 == n) with
          | some e => e.2.toNat
          | none => 0
        some { l := l, stall := k, plan := p, st := t, ftz := headFtz h, special := headSpecial h, layer := headLayer h, seed := seed }
      | none => none
    | none => none
  | _, _ => none

/-- The loom as the source of a tier access. -/
def Ctx.src (c : Ctx) : Option Nat := some c.l

/-- The value of a loop counter: its open loop's, else 0 (R129). -/
def loopVal (ls : List LoopFrame) (c : Nat) : Nat := match ls.find? (fun f => f.ctr == c) with
  | some f => f.val
  | none => 0

def loopLast (ls : List LoopFrame) (c : Nat) : Bool := match ls.find? (fun f => f.ctr == c) with
  | some f => f.val + 1 == f.count
  | none => true

/-- What issuing the word at the pc samples (R132). -/
def sampleOf (x : LoomSt) : Sample :=
  { op := x.pc, word := BitVec.ofNat 64 (x.draft.getD x.pc 0),
    ctr := (List.range 8).map (loopVal x.loops), lastIter := (List.range 8).map (loopLast x.loops),
    step := x.step, version := x.version, runSeq := x.runSeq, lastExec := x.loops.all (fun f => f.val + 1 == f.count) }

def Sample.w (p : Sample) : Nat := p.word.toNat

/-- The word at the pc of a running loom that can issue. -/
def LoomSt.word (x : LoomSt) : Option Nat := if x.running && x.live then x.draft[x.pc]? else none

/-- The first word from `pc` on that is no descriptor word; descriptor words execute nothing (R131). -/
def skipDesc : List Nat → Nat → Nat
  | [], pc => pc
  | w :: ws, pc => if 0x10 ≤ opc w ∧ opc w ≤ 0x13 then skipDesc ws (pc + 1) else pc

/-- Set the pc, past any descriptor words. -/
def LoomSt.goto (x : LoomSt) (pc : Nat) : LoomSt := { x with pc := skipDesc (x.draft.drop pc) pc }

/-- The word after an operation word: past a FIN that belongs to it (R135). -/
def nextPc (x : LoomSt) : Nat := if opc (x.draft.getD (x.pc + 1) 0) = 0x21 then x.pc + 2 else x.pc + 1

/-- The FIN word of an MM or ATT sample, if one follows. -/
def finOf (x : LoomSt) (p : Sample) : Option Nat :=
  let w := x.draft.getD (p.op + 1) 0
  if opc w = 0x21 then some w else none

def advance (s : Dev) (l : Nat) : Dev := s.modLoom l (fun x => x.goto (nextPc x))

/-! ### Issue to the array (R135) -/

/-- The array is at work on an operation. -/
def LoomSt.arrBusy (x : LoomSt) : Bool := x.arr.isSome || x.att.isSome

/-- A word of opcode `o` at the pc is issued though the array is at work on the one before: its operands are sampled, and the
loom goes on to words of other units. One such word waits at most (R135). -/
def Dev.issueArr (s : Dev) (l o : Nat) : Dev :=
  let x := s.loom l
  match s.ctx l, x.word with
  | some _, some w =>
    if opc w = o && x.arrBusy && x.arrNext.isNone then advance (s.modLoom l (fun y => { y with arrNext := some (sampleOf x) })) l else s
  | _, _ => s

/-- The array, being free, takes the word that was issued to it and waits, else the one at the pc (R135). -/
def Dev.takeArr (s : Dev) (l o : Nat) (k : Ctx → Sample → Nat → Dev) : Dev :=
  let x := s.loom l
  if x.arrBusy then s.issueArr l o
  else
    match s.ctx l, x.arrNext, x.word with
    | some c, some p, _ => if opc p.w = o && x.live then k c p p.w else s
    | some c, none, some w => if opc w = o then k c (sampleOf x) w else s
    | _, _, _ => s

/-- The array has taken its word: the one that waited waits no longer, or the loom goes on from the pc. -/
def Dev.arrTaken (s : Dev) (l : Nat) : Dev :=
  match (s.loom l).arrNext with
  | some _ => s.modLoom l (fun y => { y with arrNext := none })
  | none => advance s l

/-- This execution is the last of the run for writes through descriptor `t` (R134). -/
def lastFor (x : LoomSt) (p : Sample) (t : Nat) : Bool :=
  p.lastExec && (x.draft.drop (p.op + 1)).all (fun w => !isOp w || !(opWrites w).contains t)

/-- Bytes a tile moves at Bench: elements and scales. -/
def tileBytes (f : Fmt) (h : Handle) : Nat := 512 * f.width + (if h.bfmt = 0 then 0 else 4096 / h.b)

/-- What looking at the slots an operation reads tiles from finds. -/
inductive RdCheck where
  | ready
  | wait
  | bad (cause slot : Nat)
deriving DecidableEq, Repr

/-- One slot read as a tile by a loom of stall `k` (R108, R116). -/
def rdSlot (k : Nat) (x : LoomSt) (i : Nat) : RdCheck :=
  let v := x.slot i
  if v.state = .raw then .bad 1 i
  else if !readable x i then .wait
  else match tagCheckCause k v.tag with
    | some c => .bad c i
    | none => .ready

/-- All slots an operation reads: a wait before any fault of a later one is found in order. -/
def rdSlots (k : Nat) (x : LoomSt) : List Nat → RdCheck
  | [] => .ready
  | i :: t =>
    match rdSlot k x i with
    | .ready => rdSlots k x t
    | r => r

/-- A destination slot that a port may claim, or has claimed (R108). -/
def wrSlot (x : LoomSt) (port : Nat) (i : Nat) : RdCheck :=
  let v := x.slot i
  if v.state = .raw then .bad 1 i
  else if v.state = .empty || (v.state = .filling && v.claimant == port && v.quarters == 0 && v.grantee.isNone) then .ready
  else .wait

def wrSlots (x : LoomSt) (port : Nat) : List Nat → RdCheck
  | [] => .ready
  | i :: t =>
    match wrSlot x port i with
    | .ready => wrSlots x port t
    | r => r

/-- Go on when every slot is ready; wait, or fault with CAUSE 1 or 2 at the port (R121). -/
def Dev.guardSlots (s : Dev) (l op port : Nat) (r : RdCheck) (k : Dev → Dev) : Dev :=
  match r with
  | .ready => k s
  | .wait => s
  | .bad c i => s.faultLoom l c i port 0 op

/-- The tile values in a slot. -/
def slotVals (x : LoomSt) (ftz : Bool) (i : Nat) : List (List XV) := tileVals (slotGet x i) (x.slot i).tag ftz

/-- Completed whole-tile reads of slots: reader counts fall (R108), and the bytes are counted (R123). -/
def Dev.readTiles (s : Dev) (l : Nat) (slots : List Nat) : Dev :=
  slots.foldl (fun t i =>
    let v := (t.loom l).slot i
    let n := match Fmt.ofCode (tagFmt v.tag) with
      | some f => tileBytes f (Handle.ofNat (tagScale v.tag))
      | none => 0
    (t.modLoom l (fun x => readDone x i)).count l 13 n) s

/-- A converted tile to be written through a descriptor. -/
structure OutTile where
  t : Nat
  d : Desc
  coord : Nat × Nat × Nat
  extR : Nat
  extC : Nat
  last : Bool
  epoch : Nat
  data : List Byte
  evs : EvList
  /-- Where an element's events stand in the order of acceptances, if not now (R82, R118). -/
  ord : Option (Nat → Nat → Nat) := none

/-- Place a finished tile of a run in its slot; through an output channel ring it also joins the half's queue (R133, R193). -/
def Dev.putTile (s : Dev) (c : Ctx) (port run : Nat) (d : Desc) (coord : Nat × Nat × Nat) (tile : Tile) : Dev :=
  let i := ringSlot d coord
  let n := tileBytes d.format d.handle
  let s1 := (s.modLoom c.l (fun x => writeTile x i tile (if d.kind = 1 then 0 else d.readers) port)).count c.l 14 n
  if d.kind = 1 then
    s1.modLoom c.l (fun x => { x with outq := tmod [] x.outq d.ch (fun q => q ++ [{ slot := i, tag := tile.tag, run := run }]) })
  else s1

/-- The selvedge of an output tile of a stall (R104, R113). -/
def OutTile.tag (o : OutTile) (stall : Nat) : Tag :=
  mkTag {
    row := o.coord.1, col := o.coord.2.1, plane := o.coord.2.2, extR := o.extR, extC := o.extC, fmt := o.d.fmt,
    scale := o.d.scale, v := evsV o.evs, o := evsO o.evs, u := evsU o.evs, x := evsX o.evs, stall := stall, last := o.last, epoch := o.epoch }

/-- The conversion of an output tile raises its events (R78 to R81). -/
def Dev.raiseOut (s : Dev) (c : Ctx) (p : Sample) (o : OutTile) : Dev :=
  s.recordEvents c.l o.coord.1 o.coord.2.1 o.coord.2.2 p.op p.runSeq o.evs o.ord

/-- A converted tile as it waits for its slot. -/
def OutTile.pend (o : OutTile) (stall : Nat) : PendTile := { t := o.t, coord := o.coord, tile := { tag := o.tag stall, data := o.data } }

/-- Write an output tile through the converter: selvedge, events, counters, slot (R104, R117, R78 to R81). -/
def Dev.writeOut (s : Dev) (c : Ctx) (port : Nat) (p : Sample) (o : OutTile) : Dev :=
  ((s.raiseOut c p o).count c.l 2 1).putTile c port p.runSeq o.d o.coord { tag := o.tag c.stall, data := o.data }

/-- The finished tiles of an operation are written in order, each once its slot is EMPTY; those are left that must still wait,
a later tile for the release of an earlier one among them (R108, R133). `conv`: those written through the descriptor come from the
converter, which counts them. -/
def Dev.flush (c : Ctx) (port : Nat) (conv : Nat → Bool) (p : Sample) : List PendTile → Dev → Dev × List PendTile
  | [], s => (s, [])
  | o :: os, s =>
    match c.st.desc o.t with
    | none => (s, o :: os)
    | some d =>
      match wrSlot (s.loom c.l) port (ringSlot d o.coord) with
      | .ready => Dev.flush c port conv p os ((if conv o.t then s.count c.l 2 1 else s).putTile c port p.runSeq d o.coord o.tile)
      | .wait => (s, o :: os)
      | .bad cause i => (s.faultLoom c.l cause i port 0 p.op, o :: os)

/-- The largest finite value an infinity counts as for amax (R63): of the source format, or of the extended sum. -/
def srcMax (tag : Tag) : Rat := match Fmt.ofCode (tagFmt tag) with
  | some f => f.maxVal
  | none => extMax

/-- Convert values into an output tile of a descriptor (R104). -/
def mkOut (c : Ctx) (p : Sample) (t : Nat) (d : Desc) (coord : Nat × Nat × Nat) (extR extC : Nat) (last : Bool) (epoch : Nat)
    (src : ScaleSrc) (sr : Bool) (purpose draw : Nat) (infAs : Rat) (vals : List (List XV)) : OutTile :=
  let e : ConvEnv :=
    { fmt := d.format, handle := d.handle, extR := extR, extC := extC,
      rnd := rndOf sr c.seed purpose t p.step.toNat c.layer d coord, special := c.special, ftz := c.ftz, infAs := infAs, draw := draw }
  let (data, evs) := convertTileData e src vals
  { t := t, d := d, coord := coord, extR := extR, extC := extC, last := last, epoch := epoch, data := data, evs := evs }

/-- Start an operation word: the loom's word at the pc has the opcode, and its context exists. -/
def Dev.withWord (s : Dev) (l : Nat) (o : Nat) (k : Ctx → Sample → Nat → Dev) : Dev :=
  match s.ctx l, (s.loom l).word with
  | some c, some w => if opc w = o then k c (sampleOf (s.loom l)) w else s
  | _, _ => s

/-- A descriptor of the loom's draft; a decoded draft defines every one it names. -/
def withDesc (c : Ctx) (t : Nat) (k : Desc → Dev) (s : Dev) : Dev :=
  match c.st.desc t with
  | some d => k d
  | none => s

/-- The block scale bytes of a tile in a slot as supplied scales (R64, R140). -/
def suppliedFrom (x : LoomSt) (d dz : Desc) (i : Nat) : ScaleSrc :=
  .supplied (fun off => slotGet x i (off - 64 * runBytes dz.format.width + 64 * runBytes d.format.width))

end Sys2Proof.Machine
end

