-- ==== Sys2Proof/Machine/Tally.lean ====
section
/-!
DEFINITION. The tally wave (R37 to R53).
-/
namespace Sys2Proof.Machine

/-- The key of a channel stream: sending loom and output half, receiving loom and input half (R193, R194). -/
def streamKey (snd outPort rcv inPort : Nat) : Nat := ((snd * 16 + outPort) * 1152 + rcv) * 16 + inPort

def Conn.key (c : Conn) : Nat := streamKey c.sndLoom c.outPort c.rcvLoom c.inPort

def streamPort (key : Nat) : Nat := key / 16 / 1152 % 16
def streamSnd (key : Nat) : Nat := key / 16 / 1152 / 16
def streamRcv (key : Nat) : Nat := key / 16 % 1152
def streamIn (key : Nat) : Nat := key % 16

/-- The connections of the plan that a loom's stall has loaded. -/
def Dev.connsOf (s : Dev) (l : Nat) : List Conn :=
  match s.loomStall l with
  | some k =>
    match (s.stall k).plan with
    | some p => p.conns.eraseDups
    | none => []
  | none => []

/-- Inputs of a loom with the given alignment (R38, R194). -/
def Dev.inputsOf (s : Dev) (l : Nat) (aligned : Bool) : List Nat :=
  ((s.connsOf l).filter (fun c => c.rcvLoom == l && c.aligned == aligned)).map Conn.key

def Dev.outputsOf (s : Dev) (l : Nat) : List Nat := ((s.connsOf l).filter (fun c => c.sndLoom == l)).map Conn.key

/-- Keys of the shared units (R36, R43). -/
def sharedKeys : List Nat :=
  (List.range 8).map shelfKey ++ ((List.range 24).map storeKey ++ ((List.range 8).map ringKey ++
    ((List.range 12).map portKey ++ ((List.range 4).map celKey ++ [hubKey]))))

def Dev.stream (s : Dev) (k : Nat) : List Token := tget [] s.net k
def Dev.setStream (s : Dev) (k : Nat) (l : List Token) : Dev := { s with net := tset [] s.net k l }

/-- The wave in progress, if any. -/
def Dev.wave (s : Dev) : Option W32 := if s.tally.busy then some s.tally.injected else none

/-- The record of an unaligned input as a snapshot opens it (R42): EARLY counts and complete if its marker was first. -/
def openRec (x : UnitSt) (i : Nat) : InFlight :=
  if x.marked.contains i then { tget {} x.early i with used := true, complete := true } else { used := true }

/-- The snapshot of wave `n` by a unit (R40 steps 1 and 2, R42): its bank, its tag, its in-flight records. -/
def takeSnap (n : W32) (unaligned : List Nat) (x : UnitSt) : UnitSt :=
  let recs := unaligned.foldl (fun t i => tset {} t i (openRec x i)) []
  let y := { x with abandoned := false, snap := n, ctlMarker := false }
  if n.toNat % 2 = 0 then { y with bank0 := x.live, wave0 := n, rec0 := recs }
  else { y with bank1 := x.live, wave1 := n, rec1 := recs }

/-- R40: the unit snapshots wave `n` and presents the marker on every output, in one step: on a loom's channels, and towards
every shared unit, which takes it at once. -/
def Dev.snapshot (s : Dev) (u : Nat) (n : W32) : Dev :=
  let s1 := if u < 2000 then
      (s.outputsOf u).foldl (fun t k => t.setStream k (t.stream k ++ [.marker n])) (s.modUnit u (takeSnap n (s.inputsOf u false)))
    else s.modUnit u (fun x => takeSnap n (x.early.map (·.1)) x)
  (sharedKeys.filter (· != u)).foldl (fun t v => t.modUnit v (takeMark n u)) s1

/-- A request is recorded (R45). -/
def execTallyRequestPf (s : State) : Host.Outcome State Fault Refusal := s.onDev fun s =>
  s.host (s.modTally (fun t => { t with pendPf := true }))

def execTallyRequestStall (st : StallId) (s : State) : Host.Outcome State Fault Refusal := s.onDev fun s =>
  s.host (s.modTally (fun t => { t with pendStalls := sinsert st.val t.pendStalls }))

/-- Stalls that a wave injected now includes (R46): those of the device plan but the withdrawn ones. The spec does not say
whether a stall that has never had a stall plan takes part; it does (DESIGN CHOICE, log entry 73). -/
def Dev.tallyStalls (s : Dev) : List Nat :=
  match s.hub.devPlan with
  | some d => (d.stalls.map (fun (r : StallRec) => r.stall)).filter (fun k => !(s.stall k).outOfTally)
  | none => []

/-- A stall withdrawn from the tally (R46). -/
def Dev.withdrawn (s : Dev) (k : Nat) : Bool := (s.stall k).outOfTally

def nextWave (n : W32) : W32 := if n + 1 = 0 then 1 else n + 1

/-- TALLY_INJECT (R45, R46, R48): `us` µs of the scheduler core's timer have passed since the previous injection. The
controller's marker goes to every shared unit and to every loom without aligned inputs, that of an unassigned cluster too
(R43). -/
def execTallyInject (us : Nat) (s : State) : Host.Outcome State Fault Refusal := s.onDev fun s =>
  let t := s.tally
  let due := t.pendPf || t.pendStalls.any (fun k => !s.withdrawn k)
  if t.enable && !t.busy && due && (t.injected == 0 || decide (max t.gap.toNat 10 ≤ us)) && s.coreUp 2 then
    let n := nextWave t.injected
    let ks := s.tallyStalls
    let ms := ks.flatMap (fun k => (s.stallLooms k).map (fun l => (k, l)))
    let s1 := s.modTally (fun t => { t with
      busy := true, injected := n, pendPf := false,
      pendStalls := t.pendStalls.filter (fun k => s.withdrawn k), timeoutNow := max t.timeout.toNat 100,
      participants := ks, members := ms, loose := (List.range 96).filter (fun c => (s.clusterStall c).isNone), reported := [],
      lost := t.lost.filter (· != n.toNat) })
    let start (x : UnitSt) : UnitSt := { x with markWave := n, marked := [], early := [] }
    let s2 := ms.foldl (fun u m => u.modUnit m.2 (fun x => { start x with ctlMarker := (s.inputsOf m.2 true).isEmpty })) s1
    .next (sharedKeys.foldl (fun u k => u.modUnit k (fun x => { start x with ctlMarker := true })) s2)
  else .next s

/-- The loom is one of those that no stall held at injection. -/
def TallySt.looseUnit (t : TallySt) (u : Nat) : Bool := decide (u < 1152) && t.loose.contains (u / 12)

/-- A unit takes the controller's marker (R43). -/
def Dev.ctlAccept (s : Dev) (u : Nat) : Dev :=
  match s.wave with
  | some n => if (s.unit u).ctlMarker || (s.tally.looseUnit u && (s.unit u).snap != n) then s.snapshot u n else s
  | none => s

/-- The record of input `i` for wave `n` is completed by its marker (R42). -/
def closeRec (n : W32) (i : Nat) (x : UnitSt) : UnitSt :=
  let f (r : InFlight) : InFlight := if r.used then { r with complete := true } else r
  if n.toNat % 2 = 0 then (if x.wave0 = n then { x with rec0 := tmod {} x.rec0 i f } else x)
  else (if x.wave1 = n then { x with rec1 := tmod {} x.rec1 i f } else x)

/-- A loom accepts the marker of wave `n` on input `i` (R40 to R42); one of an abandoned wave is discarded (R48), and ends
the LATE counts of a loom that had taken its snapshot. -/
def Dev.inAccept (s : Dev) (l i : Nat) (n : W32) : Dev :=
  let x := s.unit l
  if s.tally.lost.contains n.toNat then s.modUnit l (closeRec n i)
  else if s.wave == some n && x.markWave == n && x.snap != n then
    let s1 := s.modUnit l (fun x => { x with marked := sinsert i x.marked })
    let al := s.inputsOf l true
    if al.contains i && al.all (fun j => (s1.unit l).marked.contains j) then s1.snapshot l n else s1
  else s.modUnit l (closeRec n i)

/-- TALLY_MARKER_ACCEPT (R40): from the controller, or at the front of an input's stream. A frozen or faulted loom
accepts none (R122, R49); a held input passes nothing (R41). -/
def execTallyMarkerAccept (u : TUnit) (inp : Option (LoomId × Fin 16 × Fin 16)) (s : State) : Host.Outcome State Fault Refusal := s.onDev fun s =>
  match u, inp with
  | .loom l, none => if (s.loom l.val).live then .next (s.ctlAccept l.val) else .next s
  | .loom l, some (snd, op, ip) =>
    let k := streamKey snd.val op.val l.val ip.val
    match s.stream k with
    | .marker n :: rest => if (s.loom l.val).live then .next ((s.setStream k rest).inAccept l.val k n) else .next s
    | _ => .next s
  | u, none => .next (s.ctlAccept (unitKey u))
  | _, some _ => .next s

/-- Stalls of the wave whose units, with every shared unit, have all reported (R47). -/
def TallySt.stallComplete (t : TallySt) (k : Nat) : Bool :=
  sharedKeys.all (fun u => t.reported.contains u) && t.members.all (fun m => m.1 != k || t.reported.contains m.2)

/-- TALLY_REPORT (R47): the report of a unit's snapshot reaches the controller. A wave without a participating stall, of
which the spec does not say when it is complete, is complete for the module once every shared unit has reported (DESIGN
CHOICE, log entry 74). -/
def execTallyReport (u : TUnit) (s : State) : Host.Outcome State Fault Refusal := s.onDev fun s =>
  let t := s.tally
  let k := unitKey u
  if t.busy && (s.unit k).snap == t.injected && !t.reported.contains k && (decide (2000 ≤ k) || t.members.any (fun m => m.2 == k) || t.looseUnit k) then
    let s1 := s.modTally (fun t => { t with reported := sinsert k t.reported })
    let fresh := t.participants.filter (fun st => s1.tally.stallComplete st && !t.stallComplete st)
    let s2 := fresh.foldl (fun v st => (v.modTally (fun t => { t with stallDone := tset 0 t.stallDone st t.injected })).msix (st + 1) 1) s1
    if sharedKeys.all (fun u => s1.tally.reported.contains u) && t.participants.all (fun st => s1.tally.stallComplete st) then
      .next ((s2.modTally (fun t => { t with done := t.injected, busy := false, partialWave := false, lag := 0 })).msix 0 0)
    else .next s2
  else .next s

/-- Station instances of the stalls in the wave with a member among the given looms: a station instance, a unit without
counters of its own, is abandoned with the first of its looms (log entry 75). -/
def Dev.lateStations (s : Dev) (late : List Nat) : Nat :=
  (s.tally.participants.map (fun k => match (s.stall k).plan with
    | some p => (p.stations.filter (fun t => t.looms.any late.contains)).length
    | none => 0)).sum

/-- TALLY_ABANDON (R48): `us` µs have passed since injection. -/
def execTallyAbandon (us : Nat) (s : State) : Host.Outcome State Fault Refusal := s.onDev fun s =>
  let t := s.tally
  if t.busy && decide (t.timeoutNow ≤ us) then
    let late : List Nat := ((t.members.map Prod.snd) ++ (t.loose.flatMap (fun c => (List.range 12).map (12 * c + ·)) ++ sharedKeys)).filter
      (fun k => (s.unit k).snap != t.injected)
    let s1 := late.foldl (fun v k => v.modUnit k (fun x => { x with abandoned := true, ctlMarker := false, marked := [], early := [], markWave := 0 })) s
    .next ((s1.modTally (fun t => { t with
      done := t.injected, busy := false, partialWave := true, lag := BitVec.ofNat 12 (late.length + s.lateStations late),
      lost := sinsert t.injected.toNat t.lost })).msix 0 0)
  else .next s

/-- An input that R41 holds: aligned, marked in the wave in progress, the snapshot not yet taken. -/
def Dev.held (s : Dev) (l i : Nat) : Bool :=
  match s.wave with
  | some n => (s.unit l).snap != n && (s.unit l).markWave == n && (s.unit l).marked.contains i && (s.inputsOf l true).contains i
  | none => false

/-- A token of `b` bytes accepted on an input counts in its in-flight records (R42). -/
def countFlight (wave : Option W32) (i b : Nat) (x : UnitSt) : UnitSt :=
  let late (r : InFlight) : InFlight := if r.used && !r.complete then { r with lateTok := r.lateTok + 1, lateBytes := r.lateBytes + b } else r
  let y := { x with rec0 := tmod {} x.rec0 i late, rec1 := tmod {} x.rec1 i late }
  if wave == some x.markWave && wave != some x.snap && x.marked.contains i then
    { y with early := tmod {} y.early i (fun r => { r with earlyTok := r.earlyTok + 1, earlyBytes := r.earlyBytes + b }) }
  else y

end Sys2Proof.Machine
end

