-- ==== Sys2Proof/Machine/Route.lean ====
section
/-!
DEFINITION. Links as state, routes between modules (R336, R341, R343, R359) and queueing frames (R341, R345, R346).
-/
namespace Sys2Proof.Machine

/-! ### Links -/

def Dev.link (s : Dev) (i : Nat) : LinkOne := tget {} s.links.links i
def Dev.modLinks (s : Dev) (f : LinkSt → LinkSt) : Dev := { s with links := f s.links }

/-- Put a link back; its arbiter's waiting units follow its local queues (R366). -/
def Dev.setLink (s : Dev) (i : Nat) (x : LinkOne) : Dev :=
  (s.modLinks (fun y => { y with links := tset {} y.links i x })).modReg (500 + i) (fun r => { r with
    waiting := x.loc.foldl (fun t e => tset 0 t e.1 e.2.length) [] })

def Dev.modLink (s : Dev) (i : Nat) (f : LinkOne → LinkOne) : Dev := s.setLink i (f (s.link i))

/-- The links of a port, base die 0 upward (R11). -/
def portLinks (p : Nat) : List Nat := (List.range 8).map (fun k => 12 * k + p)

def Dev.axesNow (s : Dev) : AxesRec := match s.hub.devPlan with
  | some d => d.axes
  | none => {}

/-- The axis and direction that a port serves (LNK_PORT_STATUS): the axis, and whether minus. -/
def AxesRec.portUse (a : AxesRec) (p : Nat) : Option (Nat × Bool) :=
  (a.axes.zipIdx.findSome? (fun e => if e.1.portPlus = p then some (e.2, false) else if e.1.portMinus = p then some (e.2, true) else none))

/-- Train every link of the ports that AXES names and turn the others off (R336); links that already train or carry
frames stay as they are. -/
def Dev.trainLinks (s : Dev) (a : AxesRec) : Dev :=
  (List.range 96).foldl (fun t i =>
    let x := t.link i
    if (a.portUse (i % 12)).isSome then (if x.state == .off || x.state == .down then t.setLink i { x with state := .training } else t)
    else if x.state == .off then t else t.setLink i {}) s

/-! ### Routes (R343, R359) -/

/-- The coordinates of a device identifier (R183). -/
def AxesRec.coordsOf (a : AxesRec) (id : Nat) : List Nat :=
  (a.axes.foldl (fun (acc : List Nat × Nat) x => (acc.1 ++ [acc.2 % x.extent], acc.2 / x.extent)) ([], id)).1

def AxesRec.idOf (a : AxesRec) (cs : List Nat) : Nat :=
  ((a.axes.zip cs).foldl (fun (acc : Nat × Nat) x => (acc.1 + x.2 * acc.2, acc.2 * x.1.extent)) (0, 1)).1

/-- The direction on an axis from coordinate `c` to `d`: minus, or not (R343). -/
def axisMinus (x : AxisRec) (c d : Nat) (flip : Bool) : Bool :=
  if x.wrap then
    let up := (d + x.extent - c) % x.extent
    let minus := decide (x.extent - up < up)
    if flip then !minus else minus
  else decide (d < c)

/-- The next hop of a frame from source `src` at `here` to `dst`: the axis, the direction, and the coordinates of the next
module; none where the frame has arrived. -/
def AxesRec.hop (a : AxesRec) (desc : Bool) (flip : Nat) (src here dst : List Nat) : Option (Nat × Bool × List Nat) :=
  let order := if desc then (List.range 6).reverse else List.range 6
  match order.find? (fun i => here.getD i 0 != dst.getD i 0) with
  | none => none
  | some i =>
    let x := a.axes.getD i {}
    let m := axisMinus x (src.getD i 0) (dst.getD i 0) (bit flip i)
    let c := here.getD i 0
    let n := if m then (c + x.extent - 1) % x.extent else (c + 1) % x.extent
    some (i, m, here.set i n)

/-- VC[0] after a hop on axis `i`: 1 once the frame has crossed the dateline of the axis (R343). -/
def crossed (i : Nat) (minus : Bool) (src next : List Nat) : Bool :=
  if minus then decide (src.getD i 0 < next.getD i 0) else decide (next.getD i 0 < src.getD i 0)

/-- The modules that a route passes, the destination included, and its first hop. -/
def AxesRec.walk (a : AxesRec) (desc : Bool) (flip : Nat) (src dst : List Nat) : Nat → List Nat → List (List Nat)
  | 0, _ => []
  | n + 1, here => match a.hop desc flip src here dst with
    | none => []
    | some h => h.2.2 :: a.walk desc flip src dst n h.2.2

/-- The port of a hop. -/
def AxesRec.hopPort (a : AxesRec) (i : Nat) (minus : Bool) : Nat := let x := a.axes.getD i {}; if minus then x.portMinus else x.portPlus

/-- The state of a port (R336): 0 OFF, 1 UP, 2 DEGRADED, 3 DOWN, which is a named port with no link UP. -/
def Dev.portState (s : Dev) (p : Nat) : Nat :=
  let live := (portLinks p).filter (fun i => (s.link i).state == .up)
  if (s.axesNow.portUse p).isNone then 0 else if live.length = 8 then 1 else if live.isEmpty then 3 else 2

/-- A candidate route meets an obstacle (R359): a module to avoid, or a first port that is DOWN; the first axis on which it
does so. -/
def Dev.obstacle (s : Dev) (avoid : List Nat) (desc : Bool) (flip : Nat) (dst : Nat) : Option Nat :=
  let a := s.axesNow
  let src := a.coordsOf a.deviceId
  let d := a.coordsOf dst
  let steps := a.walk desc flip src d 65536 src
  match a.hop desc flip src src d with
  | none => none
  | some h =>
    let port := a.hopPort h.1 h.2.1
    if s.portState port = 3 then some h.1
    else
      match (src :: steps).zip steps |>.find? (fun p => avoid.contains (a.idOf p.2)) with
      | some p => (List.range 6).find? (fun i => p.1.getD i 0 != p.2.getD i 0)
      | none => none

/-- The route to a member (R359): the first of the three candidates that meets no obstacle. -/
def Dev.routeTo (s : Dev) (avoid : List Nat) (dst : Nat) : Option (Bool × Nat) :=
  match s.obstacle avoid false 0 dst with
  | none => some (false, 0)
  | some i =>
    if (s.obstacle avoid true 0 dst).isNone then some (true, 0)
    else if (s.axesNow.axes.getD i {}).wrap && (s.obstacle avoid false (2 ^ i) dst).isNone then some (false, 2 ^ i)
    else none

/-- A group with its routes computed. -/
def Dev.routed (s : Dev) (_stall : Nat) (g : Group) : Group :=
  { g with routes := g.members.map (fun m => s.routeTo g.avoid m.1) }

/-! ### Frames onto links -/

/-- The key of a flow (R341). -/
def flowKey (f : Frame) : Nat := (((f.srcDev * 128 + f.srcStall) * 4096 + f.group) * 2048 + f.member) * 2 + b2n f.minus

/-- The link on which a flow leaves port `p` from base die `k` (R341): its own while that is UP, else the next UP one. -/
def Dev.flowLink (s : Dev) (key p k : Nat) : Nat :=
  let cur := tget 0 s.links.flows key
  if cur ≠ 0 ∧ (cur - 1) % 12 = p ∧ (s.link (cur - 1)).state = .up then cur - 1
  else
    match (List.range 8).find? (fun j => (s.link (12 * ((k + j) % 8) + p)).state == .up) with
    | some j => 12 * ((k + j) % 8) + p
    | none => if cur ≠ 0 ∧ (cur - 1) % 12 = p then cur - 1 else 12 * k + p

/-- The link station of a stall whose XFER words name a group, and its member `m` (R347). -/
def Dev.groupLoom (s : Dev) (stall group m : Nat) : Option (Nat × Station) :=
  match (s.stall stall).plan with
  | none => none
  | some p =>
    match p.stations.find? (fun t => t.role == 8 && t.draft.any (fun w => opc w == 0x80 && xferGroup w == group)) with
    | none => none
    | some t => (t.looms[m]?).map (fun l => (l, t))

/-- Queue a frame on a link: control frames by themselves, forwarded ones by virtual channel with the link they came from,
local ones by stall. -/
def queueOn (x : LinkOne) (f : Frame) (from_ : Option Nat) : LinkOne :=
  if f.ctl && from_.isNone then { x with ctl := x.ctl ++ [f] }
  else match from_ with
    | some i => { x with fwd := tmod [] x.fwd f.vc (· ++ [(f, i)]) }
    | none => { x with loc := tmod [] x.loc f.srcStall (· ++ [f]) }

/-- Route a frame, of which 64-byte tokens cross the ring to the link's base die (R13), one hop on from this module, entering at base die `k` (R341, R343, R344); none where this module is its
destination or no port leads on. -/
def Dev.routeFrame (s : Dev) (f : Frame) (k : Nat) (from_ : Option Nat) : Option Dev :=
  let a := s.axesNow
  let here := a.coordsOf a.deviceId
  let src := a.coordsOf f.srcDev
  match a.hop (bit f.vc 1) f.flip src here (a.coordsOf f.dstDev) with
  | none => none
  | some h =>
    let p := a.hopPort h.1 h.2.1
    if 12 ≤ p then none
    else
      let i := s.flowLink (flowKey f) p k
      let f1 := { f with vc := 2 * b2n (bit f.vc 1) + b2n (crossed h.1 h.2.1 src h.2.2), die := k }
      let s1 := s.modLinks (fun y => { y with flows := tset 0 y.flows (flowKey f) (i + 1) })
      let src := match from_, s.groupLoom f.srcStall f.group f.member with
        | some j, _ => portKey (j % 12)
        | none, some e => e.1
        | none, none => portKey p
      let n := (f.payload.length + 63) / 64
      let s2 := (s1.ringToken (if from_.isNone then f.srcStall else 96) src n k (i / 12)).accept
        (if k = i / 12 then src else ringKey (i / 12)) (portKey p) 1 f.payload.length
      some (s2.modLink i (fun x => queueOn x f1 from_))

/-- The 16 bytes of a control message (R346). -/
def ctlBytes (op : Nat) (epoch : W32) (co : Nat × Nat × Nat) : List Byte :=
  natLe 1 op ++ (natLe 3 0 ++ (natLe 4 epoch.toNat ++ (natLe 3 co.1 ++ (natLe 1 0 ++ (natLe 2 co.2.1 ++ natLe 2 co.2.2)))))

/-- The control messages of a CONTROL frame's payload. -/
def ctlMsgs (f : Frame) (link : Nat) : List CtlMsg :=
  (List.range (f.payload.length / 16)).map (fun i =>
    let b := slice f.payload (16 * i) 16
    { op := u8 b 0, srcDev := f.srcDev, srcStall := f.srcStall, dstStall := f.dstStall, group := f.group, member := f.member, minus := f.minus,
      epoch := BitVec.ofNat 32 (u32 b 4), row := u16 b 8 + 65536 * u8 b 10, col := u16 b 12, plane := u16 b 14 % 4096, link := link })

/-! ### Tile images (R327) -/

/-- The image of a tile in a tier (R327). -/
def imageBytes (t : Tag) (data : List Byte) : List Byte :=
  match Fmt.ofCode (tagFmt t) with
  | none => []
  | some f =>
    let h := Handle.ofNat (tagScale t)
    let rb := 64 * runBytes f.width
    let elems := (List.range 4).flatMap (fun q => slice data (2048 * q) rb)
    let offs := if h.bfmt = 0 then [] else (List.range 8192).filter (fun o => (blocksOf h f.width).any (fun b => b.1 == o))
    let scales := offs.map (fun o => data.getD o 0)
    let body := elems ++ scales ++ natLe 16 t.toNat
    body ++ List.replicate ((64 - body.length % 64) % 64) 0

/-- A tile from its image: the selvedge and the slot bytes. -/
def imageTile (f : Fmt) (h : Handle) (b : List Byte) : Tile :=
  let rb := 64 * runBytes f.width
  let ns := if h.bfmt = 0 then 0 else 4096 / h.b
  let tag : Tag := BitVec.ofNat 128 (leNat (slice b (4 * rb + ns) 16))
  let offs := if h.bfmt = 0 then [] else (List.range 8192).filter (fun o => (blocksOf h f.width).any (fun q => q.1 == o))
  let data := (List.range 4).flatMap (fun q =>
    slice b (q * rb) rb ++ (List.range (2048 - rb)).map (fun i =>
      let o := 2048 * q + rb + i
      if offs.contains o then b.getD (4 * rb + (offs.filter (fun j => decide (j < o))).length) 0 else 0))
  { tag := tag, data := data }

/-! ### Delivery to link stations (R347, R349) -/

/-- The descriptor that a group's arriving tiles are placed by: TZ of the XFER in progress, or of the first XFER word of
the group that writes. -/
def Dev.groupTz (s : Dev) (l : Nat) (t : Station) (group : Nat) : Option Desc :=
  let cur := match (s.loom l).xfer with
    | some j => if xferGroup j.smp.w = group then [j.smp.w] else []
    | none => []
  ((cur ++ t.draft.filter (fun w => opc w == 0x80 && xferGroup w == group)).find? (fun w => !(opWrites w).isEmpty)).bind (fun w => t.desc (xferTZ w))

/-- The grantee mark of a slot granted to another module. -/
def remoteGrant : Nat := 2 ^ 80

/-- The image in a flow's hands is complete: the tile goes to its granted slot and waits at the network port for the XFER
(R342, R349); one for a dead cluster is absorbed and counted (R424). -/
def Dev.landTile (s : Dev) (l : Nat) (t : Station) (f : Frame) (image : List Byte) : Dev :=
  if s.dead (l / 12) then s.modStall f.dstStall (fun x => { x with discard := x.discard + 1 })
  else match s.groupTz l t f.group with
  | none => s
  | some d =>
    let tile := imageTile d.format d.handle image
    let i := ringSlot d (tagRow tile.tag, tagCol tile.tag, tagPlane tile.tag)
    if ((s.loom l).slot i).grantee = some remoteGrant then
      (s.modLinks (fun y => { y with grants := (match y.grants.find? (fun r => r.2.1 == l && r.2.2 == i) with
        | some r => y.grants.erase r
        | none => y.grants) })).modLoom l (fun x => { benchWrite x (8192 * i) tile.data with xferIn := x.xferIn ++ [{ group := f.group, src := (f.srcDev, f.srcStall), slot := i, tile := tile }] })
    else s

/-- Deliver a frame at its destination (R341, R342, R346, R357): a flow's frames in FSEQ order, none twice; those of a
grant that a settling revoked are discarded (R370). Its bytes cross the ring from the link's base die to the loom's (R13). -/
def Dev.deliverFrame (s : Dev) (f : Frame) (link : Nat) : Dev :=
  let s := match s.groupLoom f.dstStall f.group f.member with
    | some e => s.ringToken f.dstStall (portKey (link % 12)) ((f.payload.length + 63) / 64) (link / 12) (e.1 / 144)
    | none => s
  if f.ctl then s.modLinks (fun y => { y with inbox := y.inbox ++ ctlMsgs f link })
  else
    let key := flowKey f
    let p := portKey (link % 12)
    if (s.stall f.dstStall).revoked.contains key then
      s.modStall f.dstStall (fun x => { x with discard := x.discard + 1, revoked := if f.last then x.revoked.erase key else x.revoked })
    else if 2 ^ 31 ≤ (f.fseq + 2 ^ 32 - tget 0 s.links.seen key) % 2 ^ 32 then s.count p 12 1
    else
      let s1 := s.modLinks (fun y => { y with seen := tset 0 y.seen key ((f.fseq + 1) % 2 ^ 32) })
      match s1.groupLoom f.dstStall f.group f.member, tget none (s1.stall f.dstStall).groups f.group with
      | some (l, t), some g =>
        if g.epoch.toNat % 256 ≠ f.epoch then s1.count p 10 1
        else
          let img := tget [] s1.links.asm key ++ f.payload
          if f.last then (s1.modLinks (fun y => { y with asm := tset [] y.asm key [] })).landTile l t f img
          else s1.modLinks (fun y => { y with asm := tset [] y.asm key img })
      | _, _ => s1

/-- Send a frame that begins at this module, from base die `k` (R341): DATA frames take the flow's next FSEQ. -/
def Dev.sendFrame (s : Dev) (f : Frame) (k : Nat) : Dev :=
  let key := flowKey f
  let n := tget 0 s.links.fseq key
  let f1 := if f.ctl then f else { f with fseq := n }
  let s1 := if f.ctl then s else s.modLinks (fun y => { y with fseq := tset 0 y.fseq key ((n + 1) % 2 ^ 32) })
  match s1.routeFrame f1 k none with
  | some s2 => s2
  | none => if f.dstDev = s.axesNow.deviceId then s1.deliverFrame f1 0 else s1

/-- Send a control message of a group from a stall, in a flow's name (R346). -/
def Dev.sendCtl (s : Dev) (stall group member : Nat) (minus : Bool) (op : Nat) (co : Nat × Nat × Nat) (dst : Nat × Nat) (k : Nat)
    : Dev :=
  let g := tget none (s.stall stall).groups group
  let ep : W32 := match g with
    | some g => g.epoch
    | none => 0
  let route : Bool × Nat := match g with
    | some g => (g.routes.getD (g.members.idxOf dst) (some (false, 0))).getD (false, 0)
    | none => (false, 0)
  s.sendFrame { ctl := true, minus := minus, vc := 2 * b2n route.1, epoch := ep.toNat % 256, dstDev := dst.1, dstStall := dst.2,
                srcDev := s.axesNow.deviceId, srcStall := stall, flip := route.2, group := group, member := member,
                payload := ctlBytes op ep co } k

/-- The flow that a request asks for. -/
def CtlMsg.flow (m : CtlMsg) : Nat :=
  flowKey { ctl := false, minus := m.minus, vc := 0, epoch := 0, dstDev := 0, dstStall := 0, srcDev := m.srcDev, srcStall := m.srcStall, flip := 0,
            group := m.group, member := m.member, payload := [] }

/-- What R347 answers a request with, before any slot is looked at; none where the epochs agree. -/
def Dev.ctlJudge (s : Dev) (m : CtlMsg) : Option Nat :=
  match s.groupLoom m.dstStall m.group m.member, tget none (s.stall m.dstStall).groups m.group with
  | some _, some g =>
    if m.epoch = g.epoch then none
    else if (m.epoch - g.epoch).toNat < 2 ^ 31 then some 3 else some 4
  | _, _ => some 5

/-- Answer a request that has been delivered (R347): at once by its epoch; for its slot, when that is EMPTY and the loom is
live; otherwise it waits. -/
def Dev.answerReq (s : Dev) (m : CtlMsg) : Dev :=
  let co := (m.row, m.col, m.plane)
  let die (l : Nat) : Nat := l / 144
  let reply (s : Dev) (op k : Nat) : Dev := s.sendCtl m.dstStall m.group m.member m.minus op co (m.srcDev, m.srcStall) k
  match (if (s.stall m.dstStall).settled then none else s.groupLoom m.dstStall m.group m.member) with
  | none => reply s 5 (m.link / 12)
  | some (l, t) =>
    let x := s.loom l
    let slot := match s.groupTz l t m.group with
      | some d => some (ringSlot d co)
      | none => none
    if !x.live then s.modLinks (fun y => { y with reqs := y.reqs ++ [(m, l, slot.getD 0)] })
    else
      match s.ctlJudge m, slot with
      | some 3, _ => reply (s.count (portKey (m.link % 12)) 11 1) 3 (die l)
      | some op, _ => reply s op (die l)
      | none, none => reply s 5 (die l)
      | none, some i =>
        if (x.slot i).state = .empty then
          reply ((s.modLinks (fun y => { y with grants := y.grants ++ [(m, l, i)] })).modLoom l
            (fun y => y.setSlot i { state := .filling, claimant := 5, grantee := some remoteGrant })) 2 (die l)
        else s.modLinks (fun y => { y with reqs := y.reqs ++ [(m, l, i)] })

end Sys2Proof.Machine
end

