-- ==== Sys2Proof/Machine/Channel.lean ====
section
/-!
DEFINITION. Channels between looms: requests, grants, tiles and acknowledgements (R133, R193), the apex's credits
(R352), and the spill places of an update station (R294 to R296).
-/
namespace Sys2Proof.Machine

/-- The descriptor of the ring that an input half of a loom's station fills (R189, R191). -/
def inputDesc (t : Station) (port : Nat) : Option Desc := (chanDescs t true).find? (fun d => d.ch == port)

/-- The tile number that the apex gives the next request of a stream (R352): it starts anew with each run of the sender. -/
def apxNext (x : LoomSt) (key run : Nat) : Nat :=
  let e := tget (0, 0) x.apxSeq key
  if e.1 = run + 1 then e.2 else 0

/-- The slot of a tile that a stream brings to a loom: R133, or R352 at an apex. -/
def slotFor (p : StallPlan) (t : Station) (x : LoomSt) (c : Conn) (d : Desc) (it : OutItem) : Nat :=
  if t.role = 7 then
    let ps := apxProducers p c.rcvLoom c.inPort
    let i := (ps.findIdx (fun q => q.key == c.key))
    let credits := d.depth / max ps.length 1
    d.base + i * credits + apxNext x c.key it.run % max credits 1
  else ringSlot d (tagRow it.tag, tagCol it.tag, tagPlane it.tag)

/-- The TG descriptor of a UPD word that a channel ring feeds, if slot `i` lies in its ring (R294). -/
def tgSlot (t : Station) (i : Nat) : Bool :=
  t.role == 5 && t.draft.any (fun w => opc w == 0x40 &&
    (match t.desc (updTG w) with
     | some d => d.kind == 1 && decide (d.base ≤ i) && decide (i < d.base + d.depth)
     | none => false))

/-- The station a loom plays in its stall's loaded plan. -/
def Dev.stationOf (s : Dev) (l : Nat) : Option (StallPlan × Station) :=
  match s.loomStall l with
  | some k =>
    match (s.stall k).plan, (s.loom l).station with
    | some p, some n => (p.station n).map (fun t => (p, t))
    | _, _ => none
  | none => none

/-- The spill places in use or granted, and a free one (R295). -/
def spillFree (x : LoomSt) : Option Nat :=
  findUp (fun q => !(x.spills.any (fun e => e.1 == q)) && !(x.spillGranted.any (fun e => e.1 == q))) x.spillCap.toNat 0

/-- A spilled tile, or one on its way to a spill place, maps to the slot. -/
def spilledTo (x : LoomSt) (i : Nat) : Bool := x.spills.any (fun e => e.2 == i) || x.spillGranted.any (fun e => e.2 == i)

/-- A request for the slot can be granted by the slot itself (R193, R295). -/
def slotGrantable (x : LoomSt) (i : Nat) : Bool := (x.slot i).state == .empty && !spilledTo x i

/-- A route-card call-up of the stall is in progress (R296). -/
def Dev.callupRunning (s : Dev) (k : Nat) : Bool :=
  match (s.stall k).plan with
  | some p => (s.stall k).passes.any (fun q => q.entries.any (fun e => !e.complete &&
      (match p.route[e.entry]? with
       | some r => r.action == 2
       | none => false)))
  | none => false

/-- The slots of a loom's TG ring for which a request waits and finds neither the slot EMPTY nor a spill place free (R296). -/
def Dev.lateSlots (s : Dev) (l : Nat) : List Nat :=
  match s.stationOf l with
  | some (_, t) =>
    let y := s.loom l
    if (spillFree y).isSome then []
    else ((s.waiters.filter (fun e => e.1 / 512 == l && !e.2.isEmpty)).map (fun e => e.1 % 512)).filter (fun i => tgSlot t i && !slotGrantable y i)
  | none => []

/-- A request that finds neither, when it comes or when another takes what it found, makes the station late; with the first such
request an episode begins, and its cause is counted (R296, R333). -/
def Dev.updLateTest (s : Dev) (l : Nat) : Dev :=
  let late := s.lateSlots l
  let old := (s.loom l).updLate
  let s1 := s.modLoom l (fun x => { x with updLate := late.foldl (fun a i => sinsert i a) x.updLate })
  if !old.isEmpty || late.isEmpty then s1
  else
    let cellar := match s.loomStall l with
      | some k => s.callupRunning k
      | none => false
    ((s1.modLoom l (fun x => { x with updCause := cellar })).count l 46 1).count l (if cellar then 49 else 47) 1

/-- The connection between an output half and an input half. -/
def Dev.conn (s : Dev) (snd op rcv ip : Nat) : Option Conn :=
  (s.connsOf snd).find? (fun c => c.key == streamKey snd op rcv ip)

def waitKey (l slot : Nat) : Nat := l * 512 + slot

/-- SLOT_REQUEST (R193 step 2): the request for the oldest tile of an output half not yet in the network. -/
def execSlotRequest (l : LoomId) (port : Fin 16) (rcv : LoomId) (rport : Fin 16) (s : State) : Host.Outcome State Fault Refusal := s.onDev fun s =>
  let x := s.loom l.val
  let q := tget [] x.outq port.val
  match s.conn l.val port.val rcv.val rport.val, q.find? (fun i => !i.sent), s.stationOf rcv.val with
  | some c, some it, some (p, t) =>
    match inputDesc t rport.val with
    | some d =>
      let y := s.loom rcv.val
      if !x.live || !y.live || it.requested.contains c.key then .next s
      else
        let i := slotFor p t y c d it
        let s1 := s.modLoom l.val (fun x => { x with
          outq := tset [] x.outq port.val (q.map (fun j => if j.slot = it.slot && !j.sent then { j with requested := j.requested ++ [c.key] } else j)) })
        let s2 := if t.role = 7 then s1.modLoom rcv.val (fun y => { y with apxSeq := tset (0, 0) y.apxSeq c.key (it.run + 1, apxNext y c.key it.run + 1) }) else s1
        let s3 := { s2 with waiters := tmod [] s2.waiters (waitKey rcv.val i) (· ++ [c.key]) }
        .next (s3.updLateTest rcv.val)
    | none => .next s
  | _, _, _ => .next s

/-- Mark the sender's waiting tile granted on a stream (R193 step 4). -/
def Dev.markGranted (s : Dev) (key slot : Nat) : Dev :=
  let p := streamPort key
  s.modLoom (streamSnd key) (fun x => { x with outq := tmod [] x.outq p (fun q =>
    match q.find? (fun i => !i.sent) with
    | some it => q.map (fun j => if j.slot = it.slot && !j.sent then { j with granted := j.granted ++ [(key, slot)] } else j)
    | none => q) })

/-- With its grant a request is late no longer, and the episode ends where it was the last; what it took another may now lack
(R296). -/
def Dev.updLateEnd (s : Dev) (l slot : Nat) : Dev :=
  let late := s.lateSlots l
  (s.modLoom l (fun x => { x with updLate := x.updLate.filter (fun i => i != slot || late.contains i) })).updLateTest l

/-- SLOT_GRANT (R193 step 3, R295): a request issued before a freeze completes (R365). The oldest request for a slot is granted: the slot, claimed into
FILLING, or a spill place while the slot of a TG ring is not to be had. A request from another module that has waited for
its slot or its loom is answered under R347. -/
def execSlotGrant (l : LoomId) (slot : SlotId) (s : State) : Host.Outcome State Fault Refusal := s.onDev fun s =>
  let x := s.loom l.val
  let wk := waitKey l.val slot.val
  match tget [] s.waiters wk with
  | [] =>
    match s.links.reqs.find? (fun r => r.2.1 == l.val && (r.2.2 == slot.val || (s.ctlJudge r.1).isSome)) with
    | some r =>
      if x.live && ((s.ctlJudge r.1).isSome || (x.slot slot.val).state == .empty) then
        .next ((s.modLinks (fun y => { y with reqs := y.reqs.erase r })).answerReq r.1)
      else .next s
    | none => .next s
  | key :: rest =>
    let s0 := { s with waiters := tset [] s.waiters wk rest }
    if (x.slot slot.val).state = .raw then .next (s.faultLoom l.val 1 slot.val 5 0 x.pc)
    else if slotGrantable x slot.val then
      .next (((s0.modLoom l.val (fun y => y.setSlot slot.val { state := .filling, claimant := 5, grantee := some key })).markGranted key slot.val).updLateEnd l.val slot.val)
    else
      match s.stationOf l.val, spillFree x with
      | some (_, t), some q =>
        if tgSlot t slot.val then
          .next (((s0.modLoom l.val (fun y => { y with spillGranted := y.spillGranted ++ [(q, slot.val)] })).markGranted key (512 + q)).updLateEnd l.val slot.val)
        else .next s
      | _, _ => .next s

/-- The bytes a tile moves (R107). -/
def tagBytes (t : Tag) : Nat := match Fmt.ofCode (tagFmt t) with
  | some f => tileBytes f (Handle.ofNat (tagScale t))
  | none => 0

/-- TILE_SEND (R193 steps 4 and 6): the oldest waiting tile of an output half enters the network once every receiver
has granted its slot, a frozen loom's too (R365). Its lines cross the ring once on each stretch of the routes (R13, R193). -/
def execTileSend (l : LoomId) (port : Fin 16) (s : State) : Host.Outcome State Fault Refusal := s.onDev fun s =>
  let x := s.loom l.val
  let q := tget [] x.outq port.val
  let keys := ((s.connsOf l.val).filter (fun c => c.sndLoom == l.val && c.outPort == port.val)).map Conn.key
  match q.find? (fun i => !i.sent) with
  | none => .next s
  | some it =>
    if keys.all (fun k => it.granted.any (fun e => e.1 == k)) then
      match s.loomStall l.val with
      | none => .next s
      | some k =>
        .next (s.guardSlots l.val x.pc 5 (rdSlot k x it.slot) fun s =>
          let tile : Tile := { tag := it.tag, data := slotBytes x it.slot }
          let hops := ((it.granted.map (fun e => streamRcv e.1 / 144)).flatMap (ringHops (l.val / 144))).eraseDups
          let s1 := it.granted.foldl (fun t e => t.setStream e.1 (t.stream e.1 ++ [.tile tile e.2]))
            (s.ringPass k l.val ((tagBytes it.tag + 63) / 64) hops)
          (s1.modLoom l.val (fun x => { x with
            outq := tset [] x.outq port.val (q.map (fun j => if j.slot = it.slot && !j.sent then { j with sent := true } else j)) })).count l.val 13 (tagBytes it.tag))
    else .next s

/-! ### Arrival and spill places -/

/-- The VA of spill place `q` of a loom: places are numbered over the update looms of the stall (R294). -/
def spillVa (p : StallPlan) (l cap q : Nat) : Option Nat :=
  match p.regions.find? (fun r => r.spill) with
  | none => none
  | some r =>
    some (r.va + 4288 * ((updLooms p).findIdx (· == l) * cap + q))

def padTo (n : Nat) (b : List Byte) : List Byte := b ++ List.replicate (n - b.length) 0

/-- A tile arrives on a stream: it fills its granted slot with its reader count, or its spill place (R133, R295). -/
def Dev.deliver (s : Dev) (l key : Nat) (t : Tile) (slot readers : Nat) (k : Dev → Dev) : Dev :=
  let x := s.loom l
  if slot < 512 then
    k ((s.modLoom l (fun x => let y := writeTile x slot t readers 5; if y.role = 7 then { y with apxOrder := y.apxOrder ++ [slot] } else y)).count l 14
      (tagBytes t.tag))
  else
    match s.stationOf l, s.loomStall l with
    | some (p, _), some st =>
      match spillVa p l x.spillCap.toNat (slot - 512) with
      | some va =>
        (s.tierWrite st (some l) none false va (padTo 4288 (imageBytes t.tag t.data))).forLoom s l x.pc fun _ s1 =>
          k ((s1.modLoom l (fun y =>
            let e := (y.spillGranted.find? (fun e => e.1 == slot - 512)).getD (slot - 512, key)
            { y with spillGranted := y.spillGranted.filter (fun e => e.1 != slot - 512), spills := y.spills ++ [e] })).count l 44 1)
      | none => s
    | _, _ => s

/-- TILE_ARRIVE (R133, R41, R42, R365): the oldest token of a stream, a tile, is accepted unless the tally holds its input;
one addressed to a dead cluster is absorbed at its ring stop and counted (R424). -/
def execTileArrive (snd : LoomId) (port : Fin 16) (rcv : LoomId) (rport : Fin 16) (s : State) : Host.Outcome State Fault Refusal := s.onDev fun s =>
  let k := streamKey snd.val port.val rcv.val rport.val
  match s.stream k, s.stationOf rcv.val with
  | .tile t slot :: rest, some (_, st) =>
    if s.dead (rcv.val / 12) then
      .next ((s.setStream k rest).modStall ((s.loomStall rcv.val).getD 0) (fun x => { x with discard := x.discard + 1 }))
    else if s.held rcv.val k then .next s
    else
      let readers := match inputDesc st rport.val with
        | some d => d.readers
        | none => 0
      .next (s.deliver rcv.val k t slot readers fun s1 =>
        let s2 := { s1.setStream k rest with acks := tmod 0 s1.acks k (· + 1) }
        if (s.inputsOf rcv.val false).contains k then s2.modUnit rcv.val (countFlight s.wave k (tagBytes t.tag)) else s2)
  | _, _ => .next s

/-- An acknowledgement of a channel's tile reaches its sender (R193 step 5); with the last one the slot is released. -/
def ackChan (snd : LoomId) (port : Fin 16) (rcv : LoomId) (rport : Fin 16) (s : Dev) : Dev :=
  let k := streamKey snd.val port.val rcv.val rport.val
  let x := s.loom snd.val
  let q := tget [] x.outq port.val
  let keys := ((s.connsOf snd.val).filter (fun c => c.sndLoom == snd.val && c.outPort == port.val)).map Conn.key
  match tget 0 s.acks k, q.find? (fun i => i.sent && !i.acked.contains k) with
  | n + 1, some it =>
    let it' := { it with acked := it.acked ++ [k] }
    let s1 := { s with acks := tset 0 s.acks k n }
    if keys.all (fun j => it'.acked.contains j) then
      (s1.modLoom snd.val (fun x => { x.setSlot it.slot {} with outq := tset [] x.outq port.val (q.erase it) }))
    else (s1.modLoom snd.val (fun x => { x with outq := tset [] x.outq port.val (q.map (fun j => if j = it then it' else j)) }))
  | _, _ => s

/-- The final receiver acknowledges the oldest tile that a loom's XFER has sent in a direction (R351): the send ends, and its
TX slot is read with the last of that slot's sends. -/
def ackXfer (l : LoomId) (minus : Bool) (s : Dev) : Dev :=
  match (s.loom l.val).xfer with
  | none => s
  | some j =>
    match j.outs.find? (fun o => o.st == .sent && o.minus == minus) with
    | none => s
    | some o =>
      let outs := j.outs.erase o
      let s1 := s.modLoom l.val (fun x => { x with xfer := some { j with outs := outs } })
      match o.tx with
      | some i => if outs.any (fun q => q.tx == some i) then s1
        else (s1.modLoom l.val (fun x => { x with xfer := some { j with outs := outs, rel := j.rel.erase i } })).readTiles l.val [i]
      | none => s1

/-- TILE_ACK (R193 step 5, R351): an acknowledgement reaches a sender, of a channel's tile or of an XFER's. -/
def execTileAck (a : AckFrom) (s : State) : Host.Outcome State Fault Refusal := s.onDev fun s =>
  match a with
  | .chan snd port rcv rport => .next (ackChan snd port rcv rport s)
  | .remote l minus => .next (ackXfer l minus s)

/-- SPILL_REFILL (R295): a TG slot that is EMPTY is refilled from the oldest spilled tile that maps to it. -/
def execSpillRefill (l : LoomId) (slot : SlotId) (s : State) : Host.Outcome State Fault Refusal := s.onDev fun s =>
  let x := s.loom l.val
  match x.spills.find? (fun e => e.2 == slot.val), s.stationOf l.val, s.loomStall l.val with
  | some e, some (p, t), some k =>
    match spillVa p l.val x.spillCap.toNat e.1, (chanDescs t true).find? (fun d => decide (d.base ≤ slot.val) && decide (slot.val < d.base + d.depth)) with
    | some va, some d =>
      if x.live && (x.slot slot.val).state == .empty then
        .next ((s.tierRead k (some l.val) none va 4288).forLoom s l.val x.pc fun b s1 =>
          let t := imageTile d.format d.handle b
          ((s1.modLoom l.val (fun y => { writeTile y slot.val t d.readers 5 with spills := y.spills.erase e })).count l.val 45 1).count l.val 14 (tagBytes t.tag))
      else .next s
    | _, _ => .next s
  | _, _, _ => .next s

end Sys2Proof.Machine
end

