-- ==== Sys2Proof/Machine/Fuller.lean ====
section
/-!
DEFINITION. The fuller functions (R87, R88, R138, R139, R265, R266, R495) and the FUL words.
-/
namespace Sys2Proof.Machine

/-- The free draw index of element (x, k) of tile `t`, stage `g` of a function. -/
def drawIdx (t x k g : Nat) : Nat := ((t * 64 + x) * 64 + k) * 16 + g

def xOne : XV := .ok .one
def xRat (q : Rat) : XV := .ok (extRound (FV.ofRat q))

/-- sigmoid x as the reciprocal of 1 + exp(-x), with its limits (R139). -/
def xsigmoid (draw i : Nat) (a : XV) : XV :=
  match a.v with
  | .nan => a
  | .inf s => .ok (if s then .zero else .one)
  | .fin _ _ => xrecip draw (i + 1) (xadd xOne (xexp draw i a.neg))

/-- tanh x as 2 sigmoid(2x) - 1, with its limits (R139). -/
def xtanh (draw i : Nat) (a : XV) : XV :=
  match a.v with
  | .nan => a
  | .inf s => .ok (.fin s 1)
  | .fin _ _ => xsub (xmul (xRat 2) (xsigmoid draw i (xmul (xRat 2) a))) xOne

/-- x × sigmoid x; -0 at -∞ (R139). -/
def xsilu (draw i : Nat) (a : XV) : XV :=
  match a.v with
  | .inf true => .ok (.fin true 0)
  | .inf false => a
  | _ => xmul a (xsigmoid draw i a)

/-- The tanh form of GELU: x/2 (1 + tanh(√(2/π) (x + 0.044715 x³))); -0 at -∞ (R139). -/
def xgelu (draw i : Nat) (a : XV) : XV :=
  match a.v with
  | .inf true => .ok (.fin true 0)
  | .inf false => a
  | _ =>
    let cube := xmul (xmul a a) a
    let inner := xmul (xRat (797884561 / 1000000000)) (xadd a (xmul (xRat (44715 / 1000000)) cube))
    xmul (xmul (xRat (1 / 2)) a) (xadd xOne (xtanh draw i inner))

/-- The softmax of a row (R87), with the special rows of R88. -/
def softmaxRow (draw : Nat) (idx : Nat → Nat) (row : List XV) : List XV :=
  if row.any (fun a => a.v.isNan) then row.map (fun a => if a.v.isNan then a else .ok .nan)
  else if row.all (fun a => a.v == .inf true) then row.map (fun _ => .ok .zero)
  else
    let np := (row.filter (fun a => a.v == .inf false)).length
    if np ≠ 0 then row.map (fun a => if a.v == .inf false then (xRat (1 / (np : Rat))).quiet else (XV.ok .zero).quiet)
    else
      let m := row.foldl xmax (.ok (.inf true))
      let es := row.zipIdx.map (fun a => xexp draw (idx a.2) (xsub a.1 m))
      let r := xrecip draw (idx 0 + 2) (freeSum draw (idx 0 + 1) es)
      es.map (fun e => xmul e r)

/-- The mean of a row of values. -/
def rowMean (draw i : Nat) (row : List XV) : XV :=
  xmul (freeSum draw i row) (xrecip draw (i + 1) (.ok (.fin false (row.length : Rat))))

def rmsRow (draw i : Nat) (imm : XV) (vec row : List XV) : List XV :=
  let d := xrecip draw (i + 2) (xsqrt (xadd (rowMean draw i (row.map (fun a => xmul a a))) imm))
  (row.zip vec).map (fun p => xmul (xmul p.1 d) p.2)

def layerRow (draw i : Nat) (imm : XV) (vec row : List XV) : List XV :=
  let mu := rowMean draw i row
  let cs := row.map (fun a => xsub a mu)
  let d := xrecip draw (i + 5) (xsqrt (xadd (rowMean draw (i + 3) (cs.map (fun a => xmul a a))) imm))
  (cs.zip vec).map (fun p => xmul (xmul p.1 d) p.2)

/-- Cut a row into tiles' rows of 64. -/
def chunks64 : Nat → List XV → List (List XV)
  | 0, _ => []
  | n + 1, l => l.take 64 :: chunks64 n (l.drop 64)

/-- Apply a row function to every processing row of a group of tiles: row `r` of all tiles joined, cut again (R139). -/
def byRows (f : Nat → List XV → List XV) (ts : List (List (List XV))) : List (List (List XV)) :=
  let outs := (List.range 64).map (fun r => chunks64 ts.length (f r (ts.flatMap (fun t => t.getD r []))))
  (List.range ts.length).map (fun i => outs.map (fun o => o.getD i []))

/-- A tile with values in column 0 only. -/
def colTile (f : Nat → XV) : List (List XV) := matBuild (fun x k => if k = 0 then f x else .ok .zero)

/-- A tile with values in row 0 only. -/
def rowTile (f : Nat → XV) : List (List XV) := matBuild (fun x k => if x = 0 then f k else .ok .zero)

/-- Row `r` of a group of tiles. -/
def groupRow (ts : List (List (List XV))) (r : Nat) : List XV := ts.flatMap (fun t => t.getD r [])

/-- DROPOUT's 1 ÷ IMM: exact where IMM is a power of two (R266). -/
def dropRecip (draw : Nat) (imm : XV) : XV :=
  match imm.v with
  | .fin s m => if m ≠ 0 ∧ (m.num = 1 ∨ m.den = 1) ∧ pow2 (floorLog2 m) = m then .ok (.fin s (1 / m)) else xrecip draw 0 imm
  | _ => xrecip draw 0 imm

/-- What a fuller function does with its group of tiles (R139, R495): `ty` gives each tile's second operand, `keep` the
mask of DROPOUT. -/
def fullerFn (fn : Nat) (dir : Bool) (imm : XV) (draw : Nat) (ty : Nat → List (List XV)) (keep : Nat → Nat → Nat → Bool)
    (xs : List (List (List XV))) : List (List (List XV)) :=
  let ew (f : Nat → Nat → Nat → XV → XV) : List (List (List XV)) := xs.zipIdx.map (fun t => matMap (fun x k a => f t.2 x k a) t.1)
  let ts := if dir then xs.map transpose else xs
  let back (l : List (List (List XV))) : List (List (List XV)) := if dir then l.map transpose else l
  let vec : List XV := (List.range xs.length).flatMap (fun t => (ty t).getD 0 [])
  let at0 (r : Nat) : Nat := drawIdx 0 r 0 0
  match fn with
  | 0x00 => xs
  | 0x01 => ew (fun _ _ _ a => xmul imm a)
  | 0x02 => back (ts.zipIdx.map (fun t => matMap (fun _ k a => xadd a (matGet (ty t.2) 0 k)) t.1))
  | 0x03 => ew (fun _ _ _ a => if a.v.isNan then a else if fvLt .zero a.v then a else .ok .zero)
  | 0x04 => ew (fun t x k a => xgelu draw (drawIdx t x k 0) a)
  | 0x05 => ew (fun t x k a => xsilu draw (drawIdx t x k 0) a)
  | 0x06 => ew (fun t x k a => xsigmoid draw (drawIdx t x k 0) a)
  | 0x07 => ew (fun t x k a => xtanh draw (drawIdx t x k 0) a)
  | 0x08 => ew (fun t x k a => xexp draw (drawIdx t x k 0) a)
  | 0x09 => back (byRows (fun r row => softmaxRow draw (fun i => drawIdx (i / 64) r (i % 64) 0) row) ts)
  | 0x0A => back (byRows (fun r row => rmsRow draw (at0 r) imm vec row) ts)
  | 0x0B => back (byRows (fun r row => layerRow draw (at0 r) imm vec row) ts)
  | 0x0C => ew (fun t x k a => xmul a (matGet (ty t) x k))
  | 0x0D => ew (fun t x k a => xadd a (matGet (ty t) x k))
  | 0x0E => back [colTile (fun r => freeSum draw (at0 r) (groupRow ts r))]
  | 0x0F => back [colTile (fun r => (groupRow ts r).foldl xmax (.ok (.inf true)))]
  | 0x10 => back [colTile (fun r => freeSum draw (at0 r) ((groupRow ts r).map (fun a => xmul a a)))]
  | 0x11 => back (ts.map (fun t => rowTile (fun k => freeSum draw (drawIdx 0 0 k 0) (t.map (fun row => row.getD k (.ok .zero))))))
  | 0x12 => back (ts.map (fun t => rowTile (fun k => t.foldl (fun m row => xmax m (row.getD k (.ok .zero))) (.ok (.inf true)))))
  | 0x13 => ew (fun t x k a => if keep t x k then xmul a (dropRecip draw imm) else .ok .zero)
  | 0x14 => ew (fun t x k a => xmul (xsilu draw (drawIdx t x k 0) a) (matGet (ty t) x k))
  | 0x15 => xs.map transpose
  | _ => xs

/-- Output tiles of a function over a group of `n` tiles. -/
def fulOuts (fn n : Nat) : Nat := if fn = 0x0E ∨ fn = 0x0F ∨ fn = 0x10 then 1 else n

/-- Output extents of a function: EXT_C or EXT_R is 0 for the row and column reductions (R139, R495). -/
def fulExt (fn : Nat) (dir : Bool) (extR extC : Nat) : Nat × Nat :=
  if fn = 0x0E ∨ fn = 0x0F ∨ fn = 0x10 then (if dir then (0, extC) else (extR, 0))
  else if fn = 0x11 ∨ fn = 0x12 then (if dir then (extR, 0) else (0, extC))
  else (extR, extC)

/-- DROPOUT's mask (R265): kept where the 16-bit field lies below IMM × 65,536. -/
def dropKeep (c : Ctx) (p : Sample) (imm t : Nat) (d : Desc) (coord : Nat × Nat × Nat) (x k : Nat) : Bool :=
  let thr := natFloor ((Fmt.value .bf16 false imm).rat * 65536)
  decide (philoxField c.seed 3 (0x8000 + t) p.step.toNat c.layer (elemIndex d coord x k) < thr)

/-- Elements dropped within an output tile's extents (R266). -/
def dropCount (c : Ctx) (p : Sample) (imm t : Nat) (d : Desc) (coord : Nat × Nat × Nat) (extR extC : Nat) : Nat :=
  (((List.range (extR + 1)).flatMap (fun x => (List.range (extC + 1)).map (fun k => (x, k)))).filter
    (fun q => !dropKeep c p imm t d coord q.1 q.2)).length

/-- The member-aware coordinates: the loom's own member index (R132). -/
def Ctx.at_ (c : Ctx) (s : Dev) (d : Desc) (p : Sample) (dr dc dp : Nat) : Nat × Nat × Nat :=
  coords d p (s.loom c.l).member dr dc dp

/-! The tiles of a FUL word (R138): sources X_i, the tiles Y_i of TY, outputs Z_i, their coordinates and slots. -/

def fulOff (w i : Nat) : Nat × Nat := if fulDir w then (i, 0) else (0, i)

def fulXc (c : Ctx) (s : Dev) (p : Sample) (w : Nat) (dx : Desc) (i : Nat) : Nat × Nat × Nat :=
  c.at_ s dx p (fulOff w i).1 (fulOff w i).2 0

def fulXs (c : Ctx) (s : Dev) (p : Sample) (w : Nat) (dx : Desc) : List Nat :=
  (List.range (fulG w + 1)).map (fun i => ringSlot dx (fulXc c s p w dx i))

def fulDy (c : Ctx) (w : Nat) (dx : Desc) : Desc := (c.st.desc (fulTY w)).getD dx

/-- The TY tiles of a FUL word. With SC = 10 there is one for each output tile, at TY's own coordinates with that tile's
offsets, and it supplies the scales and the second operand or vector (R138). Otherwise there is one for each input tile where the
function reads TY, a vector's at the input tile's COL, or at its ROW with DIR = 1 (R139, R495); its ROW is TY's own with the
tile's offset, which the spec gives for no tile of a group with DIR = 1 (DESIGN CHOICE, log entry 85). -/
def fulYs (fn : Nat) (c : Ctx) (s : Dev) (p : Sample) (w : Nat) (dx : Desc) : List Nat :=
  let dy := fulDy c w dx
  let own (i : Nat) : Nat × Nat × Nat := c.at_ s dy p (fulOff w i).1 (fulOff w i).2 0
  let yc (i : Nat) : Nat × Nat × Nat :=
    let xc := fulXc c s p w dx i
    if fn = 0x02 ∨ fn = 0x0A ∨ fn = 0x0B then ((own i).1, if fulDir w then xc.1 % 2 ^ 16 else xc.2.1, (own i).2.2) else own i
  if fulSC w = 2 then (List.range (fulOuts fn (fulG w + 1))).map (fun i => ringSlot dy (own i))
  else if fulReadsTY false fn then (List.range (fulG w + 1)).map (fun i => ringSlot dy (yc i)) else []

def fulZc (c : Ctx) (s : Dev) (p : Sample) (w : Nat) (dz : Desc) (i : Nat) : Nat × Nat × Nat :=
  c.at_ s dz p (fulOff w i).1 (fulOff w i).2 0

def fulZs (fn : Nat) (c : Ctx) (s : Dev) (p : Sample) (w : Nat) (dz : Desc) : List Nat :=
  (List.range (fulOuts fn (fulG w + 1))).map (fun i => ringSlot dz (fulZc c s p w dz i))

/-- The values that a FUL word computes, tile by tile (R139). -/
def fulVals (fn : Nat) (c : Ctx) (s : Dev) (p : Sample) (w : Nat) (dx dz : Desc) (dr : Nat) : List (List (List XV)) :=
  let x := s.loom c.l
  let ys := fulYs fn c s p w dx
  let imm : XV := .ok (ftzRead .bf16 c.ftz (Fmt.value .bf16 false (fulImm w)))
  let ty (i : Nat) : List (List XV) := slotVals x c.ftz (ys.getD i 0)
  let keep (i a k : Nat) : Bool := dropKeep c p (fulImm w) (fulTZ w) dz (fulZc c s p w dz i) a k
  fullerFn fn (fulDir w) imm dr ty keep ((fulXs c s p w dx).map (slotVals x c.ftz))

/-- Output tile `i` of a FUL word: extents, scales, rounding and events under R104, R134 and R139. -/
def fulOut (fn : Nat) (c : Ctx) (s : Dev) (p : Sample) (w : Nat) (dx dz : Desc) (dr i : Nat) : OutTile :=
  let x := s.loom c.l
  let dir := fulDir w
  let tag0 := (x.slot ((fulXs c s p w dx).headD 0)).tag
  let largest := i + 1 == fulOuts fn (fulG w + 1)
  let e := fulExt fn dir (edgeExt p dz.rowMap dz.lastRows (!dir || largest)) (edgeExt p dz.colMap dz.lastCols (dir || largest))
  let src : ScaleSrc := if fulSC w = 0 then .none else if fulSC w = 1 then .computed
    else suppliedFrom x (fulDy c w dx) dz ((fulYs fn c s p w dx).getD i 0)
  mkOut c p (fulTZ w) dz (fulZc c s p w dz i) e.1 e.2 (dz.lastF && largest && lastFor x p (fulTZ w)) (epochOf dz p (tagEpoch tag0)) src
    (fulRnd w) (if fn = 0x13 then 3 else 4) (dr * 256 + i) (srcMax tag0) ((fulVals fn c s p w dx dz dr).getD i [])

/-- The finished tiles of the fuller's operation are written as far as their slots are EMPTY; with the last one it ends (R133). -/
def Dev.fulFlush (s : Dev) (c : Ctx) : Dev :=
  match (s.loom c.l).ful with
  | some j =>
    let r := Dev.flush c 3 (fun _ => true) j.smp j.outs s
    r.1.modLoom c.l (fun y => { y with ful := if r.2.isEmpty then none else some { j with outs := r.2 } })
  | none => s

/-- The fuller's operation has its finished tiles, which their slots now take. -/
def Dev.fulWrite (s : Dev) (c : Ctx) (p : Sample) (outs : List OutTile) : Dev :=
  ((outs.foldl (fun t o => t.raiseOut c p o) s).modLoom c.l (fun y => { y with ful := some { smp := p, outs := outs.map (·.pend c.stall) } })).fulFlush c

/-- One FUL word whose function is `fn`: once its tiles stand ready, no two of its sources in one slot, it reads them, computes
and converts; its outputs then go into their slots as these are EMPTY (R133, R138, R139). -/
def fulWord (fn : Nat) (l : Nat) (s : Dev) : Dev :=
  match s.ctx l, (s.loom l).ful with
  | some c, some j => if (s.loom l).live && opc j.smp.w == 0x30 && fulFN j.smp.w == fn then s.fulFlush c else s
  | _, _ => s.withWord l 0x30 fun c p w =>
    if fulFN w ≠ fn then s else
    withDesc c (fulTX w) (fun dx => withDesc c (fulTZ w) (fun dz =>
      let reads := fulXs c s p w dx ++ fulYs fn c s p w dx
      if !decide (fulXs c s p w dx).Nodup then s else
      s.guardSlots l p.op 3 (rdSlots c.stall (s.loom l) reads) fun s =>
        let (dr, s1) := s.draw
        let outs := (List.range (fulOuts fn (fulG w + 1))).map (fulOut fn c s p w dx dz dr)
        let s2 := advance ((s1.readTiles l reads).fulWrite c p outs) l
        if fn = 0x13 then outs.foldl (fun t o => t.count l 36 (dropCount c p (fulImm w) (fulTZ w) dz o.coord o.extR o.extC)) s2 else s2) s) s

/-! ### The FUL words, one meaning each -/

def execFulCopy (l : LoomId) (s : State) : Host.Outcome State Fault Refusal := s.onDev fun s => .next (fulWord 0x00 l s)
def execFulScale (l : LoomId) (s : State) : Host.Outcome State Fault Refusal := s.onDev fun s => .next (fulWord 0x01 l s)
def execFulBias (l : LoomId) (s : State) : Host.Outcome State Fault Refusal := s.onDev fun s => .next (fulWord 0x02 l s)
def execFulRelu (l : LoomId) (s : State) : Host.Outcome State Fault Refusal := s.onDev fun s => .next (fulWord 0x03 l s)
def execFulGelu (l : LoomId) (s : State) : Host.Outcome State Fault Refusal := s.onDev fun s => .next (fulWord 0x04 l s)
def execFulSilu (l : LoomId) (s : State) : Host.Outcome State Fault Refusal := s.onDev fun s => .next (fulWord 0x05 l s)
def execFulSigmoid (l : LoomId) (s : State) : Host.Outcome State Fault Refusal := s.onDev fun s => .next (fulWord 0x06 l s)
def execFulTanh (l : LoomId) (s : State) : Host.Outcome State Fault Refusal := s.onDev fun s => .next (fulWord 0x07 l s)
def execFulExp (l : LoomId) (s : State) : Host.Outcome State Fault Refusal := s.onDev fun s => .next (fulWord 0x08 l s)
def execFulSoftmax (l : LoomId) (s : State) : Host.Outcome State Fault Refusal := s.onDev fun s => .next (fulWord 0x09 l s)
def execFulRmsnorm (l : LoomId) (s : State) : Host.Outcome State Fault Refusal := s.onDev fun s => .next (fulWord 0x0A l s)
def execFulLayernorm (l : LoomId) (s : State) : Host.Outcome State Fault Refusal := s.onDev fun s => .next (fulWord 0x0B l s)
def execFulMul (l : LoomId) (s : State) : Host.Outcome State Fault Refusal := s.onDev fun s => .next (fulWord 0x0C l s)
def execFulAdd (l : LoomId) (s : State) : Host.Outcome State Fault Refusal := s.onDev fun s => .next (fulWord 0x0D l s)
def execFulRsum (l : LoomId) (s : State) : Host.Outcome State Fault Refusal := s.onDev fun s => .next (fulWord 0x0E l s)
def execFulRmax (l : LoomId) (s : State) : Host.Outcome State Fault Refusal := s.onDev fun s => .next (fulWord 0x0F l s)
def execFulRssq (l : LoomId) (s : State) : Host.Outcome State Fault Refusal := s.onDev fun s => .next (fulWord 0x10 l s)
def execFulCsum (l : LoomId) (s : State) : Host.Outcome State Fault Refusal := s.onDev fun s => .next (fulWord 0x11 l s)
def execFulCmax (l : LoomId) (s : State) : Host.Outcome State Fault Refusal := s.onDev fun s => .next (fulWord 0x12 l s)
def execFulDropout (l : LoomId) (s : State) : Host.Outcome State Fault Refusal := s.onDev fun s => .next (fulWord 0x13 l s)
def execFulGlu (l : LoomId) (s : State) : Host.Outcome State Fault Refusal := s.onDev fun s => .next (fulWord 0x14 l s)
def execFulTranspose (l : LoomId) (s : State) : Host.Outcome State Fault Refusal := s.onDev fun s => .next (fulWord 0x15 l s)

end Sys2Proof.Machine
end

