-- ==== Sys2Proof/Machine/Loom.lean ====
section
/-!
DEFINITION. The loom's array, Bench and exception record: MM and what carries it out (R90 to R123, R136, R137),
slot events (R108, R110), and the exception record's clearing and service (R119, R120).
-/
namespace Sys2Proof.Machine

/-- The geometry of a matrix operation (R65, R90, R136). -/
structure MmGeo where
  cls : Nat
  span : Nat
  bpc : Nat
  kb : Nat
  da : Desc
  db : Desc
  dc : Desc

def mmGeo (c : Ctx) (w : Nat) : Option MmGeo :=
  match c.st.desc (mmTA w), c.st.desc (mmTB w), c.st.desc (mmTC w) with
  | some a, some b, some o =>
    let cls := max a.format.cls b.format.cls
    some { cls := cls, span := mmSpan w, bpc := if cls = 3 then 2 else 1, kb := mmKB w, da := a, db := b, dc := o }
  | _, _, _ => none

/-- Beats per K-block. -/
def MmGeo.perKb (g : MmGeo) : Nat := g.span * g.bpc

def MmGeo.beats (g : MmGeo) : Nat := g.kb * g.perKb

/-- K positions per quarter (R90). -/
def MmGeo.qk (g : MmGeo) : Nat := if g.cls = 1 then 32 else if g.cls = 2 then 16 else 8

/-- The K-block's tile that quarter `q` reads (0 or 1; two tiles side by side at the 4-bit rate). -/
def MmGeo.half (g : MmGeo) (q : Nat) : Nat := if g.cls = 1 then q / 2 else 0

/-- Column-tile offset of K-block `kb` for quarter `q` (R137). -/
def MmGeo.kcol (g : MmGeo) (kb q : Nat) : Nat := if g.cls = 1 then 2 * kb + g.half q else kb

/-- First K position within its tile of quarter `q` at beat half `h`. -/
def MmGeo.k0 (g : MmGeo) (q h : Nat) : Nat := if g.cls = 1 then 32 * (q % 2) else if g.cls = 2 then 16 * q else 32 * h + 8 * q

/-- Absolute K index of the first position of quarter `q` in K-block `kb`, beat half `h` (R118). -/
def MmGeo.kAbs (g : MmGeo) (kb q h : Nat) : Nat := if g.cls = 1 then 128 * kb + 32 * q else 64 * kb + g.k0 q h

/-- A quarter-vector read from a slot: elements (x, k0 ..) and their block-scale bytes; what lies outside the tile's extents
counts as zero, with no scale (R117). -/
def readQVec (x : LoomSt) (slot beat row k0 n : Nat) : QVec :=
  let tag := (x.slot slot).tag
  let f := (Fmt.ofCode (tagFmt tag)).getD .fp16
  let h := Handle.ofNat (tagScale tag)
  let g := slotGet x slot
  let inExt (k : Nat) : Bool := decide (row ≤ tagExtR tag) && decide (k ≤ tagExtC tag)
  { beat := beat, tag := tag, inside := (List.range n).map (fun i => inExt (k0 + i)),
    codes := (List.range n).map (fun i => elemCode g f.width row (k0 + i)),
    scales := if h.bfmt = 0 then [] else (List.range n).map (fun i => g (scaleOff h f.width row (k0 + i))) }

/-- Block-scale bytes that a quarter-vector brings with it: those of the blocks that begin in it (R107, R123). -/
def scaleBytes (h : Handle) (row k0 n : Nat) : Nat :=
  if h.bfmt = 0 then 0
  else match h.geom with
    | 0 => ((List.range n).filter (fun i => (k0 + i) % h.b == 0)).length
    | 1 => if row % h.b = 0 then n else 0
    | _ => if row % 8 = 0 then ((List.range n).filter (fun i => (k0 + i) % 8 == 0)).length else 0

/-- Bytes that reading a quarter-vector takes from Bench. -/
def qvecBytes (t : Tag) (row k0 n : Nat) : Nat :=
  match Fmt.ofCode (tagFmt t) with
  | some f => n * f.width / 8 + scaleBytes (Handle.ofNat (tagScale t)) row k0 n
  | none => 0

/-- Element `i` of a quarter-vector, and its block scale with NaN and zero scales already taken up by the element; under an
invalid tensor-wide scale it is NaN (R61). -/
def qElem (v : QVec) (ftz : Bool) (i : Nat) : FV × FV :=
  if !v.inside.getD i false then (.zero, .one) else
  let f := (Fmt.ofCode (tagFmt v.tag)).getD .fp16
  let h := Handle.ofNat (tagScale v.tag)
  let e := ftzRead f ftz (f.value (h.bfmt == 1 && f == .int8) (v.codes.getD i 0))
  if (tscaleVal h).isNan then (.nan, .one)
  else if h.bfmt = 0 then (e, .one)
  else
    match scaleVal h.bfmt (v.scales.getD i 0) with
    | .fin s q => if q = 0 then (if e.isNan then .nan else .zero, .one) else (e, .fin s q)
    | _ => (.nan, .one)

/-- Whether an operand's block scales run along K (or are two-dimensional), and the K extent of its blocks (R97). -/
def kExtent (t : Tag) : Option Nat :=
  let h := Handle.ofNat (tagScale t)
  if h.bfmt = 0 then none else if h.geom = 0 then some h.b else if h.geom = 2 then some 8 else none

/-- b′ of R97: the smaller of the operands' K extents; 64 where neither has one. -/
def bPrime (a b : Tag) : Nat := min ((kExtent a).getD 64) ((kExtent b).getD 64)

/-- The products of a quarter, with scales along N applied to each (R97). -/
def products (a b : QVec) (ftz : Bool) (kAbs n aoff : Nat) : List XV :=
  (List.range n).map (fun i =>
    let (ea, sa) := qElem a ftz (aoff + i)
    let (eb, sb) := qElem b ftz i
    let p := (xmulExact (kAbs + i) (.ok ea) (.ok eb)).round
    let p1 := if (kExtent a.tag).isNone && !(Handle.ofNat (tagScale a.tag)).bfmt == 0 then xmul p (.ok sa) else p
    if (kExtent b.tag).isNone && !(Handle.ofNat (tagScale b.tag)).bfmt == 0 then xmul p1 (.ok sb) else p1)

/-- The exact product of the K scales of both operands at position `i` (R97). -/
def kScale (a b : QVec) (ftz : Bool) (aoff i : Nat) : FV :=
  let sa := if (kExtent a.tag).isSome then (qElem a ftz (aoff + i)).2 else .one
  let sb := if (kExtent b.tag).isSome then (qElem b ftz i).2 else .one
  (xmulExact noK (.ok sa) (.ok sb)).v

/-- Multiply a sum by a scale product; a NaN element never meets one, its scale having been taken up. -/
def applyScale (s : XV) (k : FV) : XV := if k = .one then s else xmul s (.ok k)

/-- A quarter's sum by the comb levels within the quarter, and the scale product still to be applied above (R96, R97). -/
def quarterSum (a b : QVec) (ftz : Bool) (kAbs n aoff draw idx : Nat) : QSum :=
  let ps := products a b ftz kAbs n aoff
  let bp := bPrime a.tag b.tag
  if bp ≤ n then
    let parts := (List.range (n / bp)).map (fun g =>
      applyScale (freeSum draw (idx * 64 + g) ((ps.drop (g * bp)).take bp)) (kScale a b ftz aoff (g * bp)))
    let t := freeSum draw (idx * 64 + 63) parts
    { sum := extCode t.v, bad := t.bad, scale := .one, bp := bp }
  else
    let t := freeSum draw (idx * 64) ps
    { sum := extCode t.v, bad := t.bad, scale := kScale a b ftz aoff 0, bp := bp }

/-- The cross-quarter levels over one entry of each buffer (R96, R97). `n`: K positions per quarter. -/
def crossSum (n draw idx : Nat) (qs : List QSum) : XV :=
  let bp := match qs with
    | q :: _ => q.bp
    | [] => 64
  let v (q : QSum) : XV := ⟨extVal q.sum, q.bad⟩
  if bp ≤ n then freeSum draw idx (qs.map v)
  else
    let g := min 4 (bp / n)
    let parts := (List.range (4 / g)).map (fun i =>
      let part := (qs.drop (i * g)).take g
      applyScale (freeSum draw (idx + 1 + i) (part.map v)) (match part with
        | q :: _ => q.scale
        | [] => .one))
    freeSum draw idx parts

def accGet (x : LoomSt) (r n : Nat) : XV :=
  let e := tget (0, none) x.acc (256 * r + n)
  ⟨extVal e.1, e.2⟩

def accSet (x : LoomSt) (r n : Nat) (v : XV) : LoomSt := { x with acc := tset (0, none) x.acc (256 * r + n) (extCode v.v, v.bad) }

/-- Coordinates and extents of the output tile that span tile `j` belongs to (R134, R137). -/
def mmOutCoord (c : Ctx) (s : Dev) (g : MmGeo) (p : Sample) (glu : Bool) (j : Nat) : Nat × Nat × Nat :=
  c.at_ s g.dc p 0 (if glu then j / 2 else j) 0

def mmExt (g : MmGeo) (p : Sample) (glu : Bool) (j : Nat) : Nat × Nat :=
  let n := g.span / 64
  let largest := if glu then j / 2 + 1 == n / 2 else j + 1 == n
  (edgeExt p g.dc.rowMap g.dc.lastRows true, edgeExt p g.dc.colMap g.dc.lastCols largest)

def finFn (f : Option Nat) : Option Nat := f.map fulFN

def isGlu (f : Option Nat) : Bool := finFn f == some 0x14

/-- The accumulate stage of a row (R90, R96, R100). A final result that it holds goes to the drain first. Else it takes one
entry of each of the row's quarter-sum buffers, adds their sum into the accumulator entry, and presents a final result to the
drain, or holds it where the drain is full. Nothing where a buffer is empty. -/
def accStep (c : Ctx) (g : MmGeo) (draw : Nat) (r : Nat) (s : Dev) : Dev :=
  let x := s.loom c.l
  match x.arr with
  | none => s
  | some j =>
    let bufs := (List.range 4).map (fun q => tget [] j.qsum (4 * r + q))
    let dr := tget [] j.drain r
    let room := decide (dr.length < 32)
    match tget none j.hold r with
    | some e =>
      if room then s.modLoom c.l (fun y => { y with arr := some { j with hold := tset none j.hold r none, drain := tset [] j.drain r (dr ++ [e]) } }) else s
    | none =>
    if bufs.any (·.isEmpty) then s
    else
      let t := tget 0 j.accd r
      let kb := t / g.perKb
      let n := t % g.perKb / g.bpc
      let final := kb + 1 == g.kb && t % g.bpc + 1 == g.bpc
      let ord := 64 * x.accSeq + r
      let sum := crossSum g.qk draw (r * 8) (bufs.map (fun b => b.headD ⟨0, none, .one, 64⟩))
      let v := xadd (accGet x r n) sum
      let fin := finOf x j.smp
      let coord := mmOutCoord c s g j.smp (isGlu fin) (n / 64)
      let ext := mmExt g j.smp (isGlu fin) (n / 64)
      let inExt := decide (r ≤ ext.1) && decide (n % 64 ≤ ext.2)
      let fresh := match v.bad with
        | some (cause, k) => if cause < latchedMark ∧ inExt then some (cause, k) else none
        | none => none
      let v1 : XV := match v.bad with
        | some (cause, k) => { v with bad := some (if cause < latchedMark then (cause + latchedMark, k) else (cause, k)) }
        | none => v
      let s1 := match fresh with
        | some ev => s.excEvent c.l coord.1 coord.2.1 coord.2.2 j.smp.op j.smp.runSeq r (n % 64) ord (0, ev.1, ev.2)
        | none => s
      let e := (extCode v1.v, v1.bad)
      let s2 := s1.modLoom c.l (fun y => { accSet y r n v1 with
        arr := some { j with
          qsum := (List.range 4).foldl (fun t q => tmod [] t (4 * r + q) (·.drop 1)) j.qsum,
          accd := tmod 0 j.accd r (· + 1),
          finAt := if final then tset 0 j.finAt (256 * r + n) ord else j.finAt,
          hold := if final && !room then tset none j.hold r (some e) else j.hold,
          drain := if final && room then tset [] j.drain r (dr ++ [e]) else j.drain } })
      if final && !room && j.hold.isEmpty then s2.count c.l 11 1 else s2

/-- The array's job with its context and geometry. -/
def Dev.withArr (s : Dev) (l : Nat) (k : Ctx → MmGeo → ArrJob → Dev) : Dev :=
  match s.ctx l, (s.loom l).arr with
  | some c, some j =>
    if (s.loom l).live then
      match mmGeo c j.smp.w with
      | some g => k c g j
      | none => s
    else s
  | _, _ => s

def Dev.setArr (s : Dev) (l : Nat) (j : ArrJob) : Dev := s.modLoom l (fun x => { x with arr := some j })

/-- A row-quarter takes its next quarter-vector (R90, R98, R101); a feeder that has none for it begins a dry episode. -/
def takeOne (draw : Nat) (s : Dev) (i r q : Nat) (l : Nat) : Dev :=
  s.withArr l fun c g j =>
    let rq := 4 * r + q
    let t := tget 0 j.taken rq
    let wk := tget 0 j.warpKb rq
    if t ≥ wk * g.perKb then s
    else if 16 ≤ (tget [] j.qsum rq).length then s
    else
      match (tget [] j.win q).find? (fun v => v.beat == t) with
      | none =>
        let s1 := s.setArr l { j with dry := sinsert rq j.dry }
        if j.dry.any (fun i => i % 4 == q) then s1 else s1.count l (7 + q) 1
      | some v =>
        let kb := t / g.perKb
        let h := t % g.bpc
        let a := tget ⟨0, [], [], [], 0⟩ j.warp rq
        let aoff := if g.cls = 3 then 8 * h else 0
        let qs := quarterSum a v c.ftz (g.kAbs kb q h) g.qk aoff draw (i + 1024)
        let taken := tset 0 j.taken rq (t + 1)
        let low := (List.range 64).foldl (fun m y => min m (tget 0 taken (4 * y + q))) (t + 1)
        let j1 := { j with taken := taken, dry := j.dry.filter (· != rq), qsum := tmod [] j.qsum rq (· ++ [qs]),
                           win := tmod [] j.win q (·.filter (fun e => decide (low ≤ e.beat))) }
        accStep c g draw r (s.setArr l j1)

/-- The loom's next step of acceptances (R82). -/
def Dev.nextAccept (s : Dev) (l : Nat) : Dev := s.modLoom l (fun x => { x with accSeq := x.accSeq + 1 })

/-- The array accepts weft: each listed row-quarter takes its next quarter-vector (R90), the lowest row first (R82). -/
def execWeftBeatAccept (l : LoomId) (takes : List (Fin 64 × Fin 4)) (s : State) : Host.Outcome State Fault Refusal := s.onDev fun s =>
  let (d, s0) := s.draw
  if (s.loom l).arr.isNone then .next s else
  let byRow := (List.range 64).flatMap (fun r => takes.zipIdx.filter (fun e => e.1.1.val == r))
  .next (byRow.foldl (fun t e => takeOne d t e.2 e.1.1.val e.1.2.val l.val) (s0.nextAccept l.val))

/-- A beat retires when every row has taken all four quarters of it (R93). -/
def execBeatRetire (l : LoomId) (s : State) : Host.Outcome State Fault Refusal := s.onDev fun s =>
  .next (s.withArr l fun _ _ j =>
    if (List.range 256).all (fun rq => decide (j.retired < tget 0 j.taken rq)) then
      (s.setArr l { j with retired := j.retired + 1 }).count l 0 1
    else s)

/-- What a Bench access's error code found (R110): go on, with a corrected word noted, or fault with CAUSE 3. A word of the
tag array is noted as 2^19 + slot, and its fault has LINE 0, which the spec leaves open (log entry 81). -/
def Dev.benchEcc (s : Dev) (l slot port op : Nat) (e : Ecc) (k : Dev → Dev) : Dev :=
  match e with
  | .clean => k s
  | .corrected w => k ((s.modLoom l (fun x => { x with ceList := x.ceList ++ [slot * 1024 + w.val] })).count l 15 1)
  | .uncorrectable ln => s.faultLoom l 3 slot port ln.val op
  | .tagCorrected => k ((s.modLoom l (fun x => { x with ceList := x.ceList ++ [2 ^ 19 + slot] })).count l 15 1)
  | .tagUncorrectable => s.faultLoom l 3 slot port 0 op

/-- The quarter regions of a slot that hold positions k0 .. k0 + n - 1 and the scales of their blocks are full (R107, R108). -/
def quartersReady (v : Slot) (k0 n : Nat) : Bool :=
  let h := Handle.ofNat (tagScale v.tag)
  let w := (Fmt.ofCode (tagFmt v.tag)).elim 16 Fmt.width
  v.state == .full || v.state == .pinned ||
  (v.state == .filling && v.tagWritten && (List.range n).all (fun i =>
    v.quarters.getLsbD ((k0 + i) / 16) && (h.bfmt == 0 || v.quarters.getLsbD (scaleOff h w 0 (k0 + i) / 2048))))

/-- The slot of the weft tile that feeder `q` reads beat `t` from (R95, R137). -/
def feedSlot (c : Ctx) (s : Dev) (g : MmGeo) (j : ArrJob) (q t : Nat) : Nat :=
  ringSlot g.db (c.at_ s g.db j.smp (t % g.perKb / g.bpc / 64) (g.kcol (t / g.perKb) q) 0)

/-- Every read that the reader count of the slot still allows is under way or over: the next reader waits for the next tile (R108). -/
def spent (x : LoomSt) (slot more : Nat) : Bool :=
  (x.slot slot).state == .full && decide ((x.slot slot).readers.toNat ≤ x.rdDone.count slot + more)

/-- The feeders that read the same weft tile as feeder `q` (R137). -/
def feedMates (g : MmGeo) (q : Nat) : List Nat := if g.cls = 1 then [2 * (q / 2), 2 * (q / 2) + 1] else [0, 1, 2, 3]

/-- Reads of the feeder's slot that are still to end before its own of beat `t`: one where the ring gives the tile before this
one the same slot and a feeder has not read all of that (R108). -/
def feedBehind (c : Ctx) (s : Dev) (g : MmGeo) (j : ArrJob) (q t : Nat) : Nat :=
  let t0 := t - t % (64 * g.bpc)
  if t0 ≠ 0 ∧ feedSlot c s g j q (t0 - 1) = feedSlot c s g j q t ∧ (feedMates g q).any (fun m => decide (tget 0 j.fed m < t0)) then 1 else 0

/-- A feeder accepts the next quarter-vector from Bench into a free window entry (R95). -/
def execFeederFill (l : LoomId) (q : Fin 4) (ecc : Ecc) (s : State) : Host.Outcome State Fault Refusal := s.onDev fun s =>
  .next (s.withArr l fun c g j =>
    let t := tget 0 j.fed q.val
    let kb := t / g.perKb
    let n := t % g.perKb / g.bpc
    let h := t % g.bpc
    let x := s.loom l
    let slot := feedSlot c s g j q.val t
    let v := x.slot slot
    let k0 := g.k0 q.val h
    if g.beats ≤ t ∨ 16 ≤ (tget [] j.win q.val).length then s
    else if v.state = .raw then s.faultLoom l 1 slot 0 0 j.smp.op
    else if !quartersReady v k0 g.qk || spent x slot (feedBehind c s g j q.val t) then s
    else
      match tagCheckCause c.stall v.tag with
      | some cause => s.faultLoom l cause slot 0 0 j.smp.op
      | none => s.benchEcc l slot 0 j.smp.op ecc fun s =>
        let qv := readQVec x slot t (n % 64) k0 g.qk
        let fed := tset 0 j.fed q.val (t + 1)
        let tileEnd := kb * g.perKb + (n / 64 + 1) * 64 * g.bpc
        let done := t + 1 == tileEnd && (feedMates g q.val).all (fun m => decide (tileEnd ≤ tget 0 fed m))
        ((s.modLoom l (fun y => { y with
            arr := some { j with fed := fed, win := tmod [] j.win q.val (· ++ [qv]) },
            rdDone := if done then y.rdDone ++ [slot] else y.rdDone })).count l 13 (qvecBytes v.tag (n % 64) k0 g.qk)))

/-- What the warp port finds at its next shadow (R91): it waits for the shadow to be free and for the tile's quarter, or it
faults, or it fills the shadow. Shadows are filled in row order; the order of a row's four quarters, which the spec leaves
open, is ascending (DESIGN CHOICE, log entry 82). -/
def warpFillOne (s : Dev) (l : Nat) : Option Dev :=
  match s.ctx l, (s.loom l).arr with
  | some c, some j =>
    match mmGeo c j.smp.w with
    | none => none
    | some g =>
      let kb := j.filled / 256
      let rq := j.filled % 256
      let r := rq / 4
      let q := rq % 4
      let x := s.loom l
      let slot := ringSlot g.da (c.at_ s g.da j.smp 0 (g.kcol kb q) 0)
      let v := x.slot slot
      if !x.live || decide (g.kb ≤ kb) || (tget none j.shadow rq).isSome then none
      else if v.state = .raw then some (s.faultLoom l 1 slot 1 0 j.smp.op)
      else if !(quartersReady v (g.k0 q 0) g.qk && (g.cls != 3 || quartersReady v (g.k0 q 1) g.qk)) || spent x slot 0 then none
      else
        match tagCheckCause c.stall v.tag with
        | some cause => some (s.faultLoom l cause slot 1 0 j.smp.op)
        | none =>
          let a := readQVec x slot 0 r (g.k0 q 0) g.qk
          let b := readQVec x slot 0 r (g.k0 q 1) g.qk
          let wv : QVec := if g.cls = 3 then { a with codes := a.codes ++ b.codes, scales := a.scales ++ b.scales, inside := a.inside ++ b.inside } else a
          let n := qvecBytes v.tag r (g.k0 q 0) g.qk + (if g.cls = 3 then qvecBytes v.tag r (g.k0 q 1) g.qk else 0)
          some ((s.modLoom l (fun y => { y with
            arr := some { j with filled := j.filled + 1, shadow := tset none j.shadow rq (some wv),
                                 firstEpoch := if j.filled = 0 then tagEpoch v.tag else j.firstEpoch },
            rdDone := if rq = 255 ∨ (g.cls = 1 ∧ rq = 253) then y.rdDone ++ [slot] else y.rdDone })).count l 13 n)
  | _, _ => none

/-- The warp port fills shadows as far as it can. -/
def warpFill : Nat → Nat → Dev → Dev
  | 0, _, s => s
  | n + 1, l, s => match warpFillOne s l with
    | some t => warpFill n l t
    | none => s

/-- A row-quarter makes its complete shadow current after its last beat against the current warp (R91, R99); the warp port
has filled the shadows that it could. -/
def execWarpShadowSwap (l : LoomId) (r : Fin 64) (q : Fin 4) (s : State) : Host.Outcome State Fault Refusal := s.onDev fun s =>
  let s0 := warpFill 256 l.val s
  .next (s0.withArr l.val fun _ g j =>
    let rq := 4 * r.val + q.val
    let wk := tget 0 j.warpKb rq
    if g.kb ≤ wk ∨ tget 0 j.taken rq ≠ wk * g.perKb then s0
    else
      match tget none j.shadow rq with
      | none =>
        let s1 := s0.setArr l { j with warpWait := sinsert rq j.warpWait }
        if j.warpWait.isEmpty then s1.count l 12 1 else s1
      | some wv =>
        let warpKb := tset 0 j.warpKb rq (wk + 1)
        let mates := (List.range 256).filter (fun i => g.half (i % 4) == g.half q.val)
        let done := mates.all (fun i => decide (wk + 1 ≤ tget 0 warpKb i))
        let s1 := s0.setArr l { j with warpKb := warpKb, warp := tset ⟨0, [], [], [], 0⟩ j.warp rq wv,
                                       shadow := tset none j.shadow rq none, warpWait := j.warpWait.filter (· != rq) }
        if done then s1.count l 1 1 else s1)

/-- The collector takes a final result from a row's drain into the current tile buffer (R103), and the row goes on. -/
def execCollectResult (l : LoomId) (r : Fin 64) (s : State) : Host.Outcome State Fault Refusal := s.onDev fun s =>
  .next (s.withArr l fun c g j =>
    let n := tget 0 j.collected r.val
    let tile := n / 64
    match tget [] j.drain r.val with
    | [] => s
    | e :: rest =>
      if j.converted + 2 ≤ tile then s
      else
        let (d, s0) := s.draw
        let s1 := (s0.nextAccept l).modLoom l (fun y => { y with
          tbuf := tset (0, none) y.tbuf (4096 * (tile % 2) + 64 * r.val + n % 64) e,
          arr := some { j with collected := tset 0 j.collected r.val (n + 1), drain := tset [] j.drain r.val rest } })
        (List.range 17).foldl (fun t _ => accStep c g d r.val t) s1)

/-- The values of a tile buffer. -/
def tbufVals (x : LoomSt) (b : Nat) : List (List XV) :=
  matBuild (fun r c => let e := tget (0, none) x.tbuf (4096 * b + 64 * r + c); ⟨extVal e.1, e.2⟩)

/-- Apply an operand's tensor-wide scale to the final sums (R97, R104); under an invalid one its elements were NaN already
(R61). -/
def tensorScale (h : Handle) (m : List (List XV)) : List (List XV) :=
  if h.tpres then
    match tscaleVal h with
    | .fin s q => matMap (fun _ _ a => let b := xmul a (.ok (.fin s q)); if a.isQuiet then { b with bad := a.bad } else b) m
    | _ => matMap (fun _ _ a => if a.v.isNan then a else .ok .nan) m
  else m

/-- The fuller finishing that a FIN names (R104, R138): its function on one tile, its second operand's slots. -/
def finTY (c : Ctx) (s : Dev) (f : Nat) (p : Sample) (coord : Nat × Nat × Nat) (dcol : Nat) : Option (Desc × Nat) :=
  if fulReadsTY true (fulFN f) then
    (c.st.desc (fulTY f)).map (fun dy =>
      let own := c.at_ s dy p 0 dcol 0
      let fn := fulFN f
      let yc := if fn = 0x02 ∨ fn = 0x0A ∨ fn = 0x0B then (own.1, if fulDir f then coord.1 % 2 ^ 16 else coord.2.1, own.2.2) else own
      (dy, ringSlot dy yc))
  else none

/-! What the converter makes of collected tiles (R104, R137, R139): the output's column tile and coordinates, the tile that a FIN
reads, and the output. -/

def cvtGlu (x : LoomSt) (j : ArrJob) : Bool := isGlu (finOf x j.smp)
def cvtTiles (x : LoomSt) (j : ArrJob) : Nat := if cvtGlu x j then 2 else 1
def cvtJo (x : LoomSt) (j : ArrJob) : Nat := if cvtGlu x j then j.converted / 2 else j.converted
def cvtCoord (c : Ctx) (s : Dev) (g : MmGeo) (j : ArrJob) : Nat × Nat × Nat := c.at_ s g.dc j.smp 0 (cvtJo (s.loom c.l) j) 0

/-- The slot that the FIN's function reads, if it reads one. -/
def cvtTy (c : Ctx) (s : Dev) (g : MmGeo) (j : ArrJob) : List Nat :=
  match finOf (s.loom c.l) j.smp with
  | some f => (match finTY c s f j.smp (cvtCoord c s g j) (cvtJo (s.loom c.l) j) with
    | some (_, i) => [i]
    | none => [])
  | none => []

/-- The FUL function applied on the way: 0 (COPY) without FIN. -/
def cvtFn (x : LoomSt) (j : ArrJob) : Nat := match finOf x j.smp with
  | some f => fulFN f
  | none => 0

/-- The elements of C in an accumulate whose operands have tensor-wide scales are added once those are applied, so that they
scale the products alone (R85, R97); a FIN's function works on the accumulators as they stand (log entry 83). -/
def mmApart (x : LoomSt) (p : Sample) (g : MmGeo) : Bool :=
  mmPre p.w && (finOf x p).isNone && (g.da.handle.tpres || g.db.handle.tpres)

/-- The output tile of a converted tile buffer; its events come in the order of the final accumulates (R82, R118). -/
def cvtOut (c : Ctx) (s : Dev) (g : MmGeo) (j : ArrJob) (dr : Nat) : OutTile :=
  let x := s.loom c.l
  let glu := cvtGlu x j
  let coord := cvtCoord c s g j
  let ext := mmExt g j.smp glu j.converted
  let f := (finOf x j.smp).getD 0
  let fn := cvtFn x j
  let w := j.smp.w
  let b0 := tbufVals x (j.converted % 2)
  let tyv (_ : Nat) : List (List XV) := if glu then tbufVals x ((j.converted + 1) % 2) else slotVals x c.ftz ((cvtTy c s g j).headD 0)
  let keep (_ a k : Nat) : Bool := dropKeep c j.smp (fulImm f) (mmTC w) g.dc coord a k
  let imm : XV := .ok (ftzRead .bf16 c.ftz (Fmt.value .bf16 false (fulImm f)))
  let fv := (fullerFn fn (fulDir f) imm dr tyv keep [b0]).headD []
  let scaled := tensorScale g.db.handle (tensorScale g.da.handle fv)
  let vals := if mmApart x j.smp g then matMap (fun a k v => xadd v (.ok (extVal (tget 0 j.cpre (256 * a + 64 * j.converted + k))))) scaled else scaled
  let e := fulExt fn (fulDir f) ext.1 ext.2
  let nOut := if glu then g.span / 128 else g.span / 64
  let o := mkOut c j.smp (mmTC w) g.dc coord e.1 e.2 (g.dc.lastF && cvtJo x j + 1 == nOut && lastFor x j.smp (mmTC w))
    (epochOf g.dc j.smp j.firstEpoch) (if mmSC w = 1 then .computed else .none) (mmRnd w)
    (if fn = 0x13 then 3 else 4) (dr * 256) extMax vals
  { o with evs := (List.range 64).flatMap (fun k => o.evs.filter (fun e => e.2.1 == k)),
           ord := some (fun a k => tget 0 j.finAt (256 * a + 64 * (j.converted + cvtTiles x j - 1) + k)) }

/-- A completed tile buffer is finished, scaled, converted and written into its slot (R104). -/
def execConvertTile (l : LoomId) (s : State) : Host.Outcome State Fault Refusal := s.onDev fun s =>
  .next (s.withArr l fun c g j =>
    let x := s.loom l
    let tiles := cvtTiles x j
    let coord := cvtCoord c s g j
    let tySlots := cvtTy c s g j
    if !(List.range 64).all (fun r => decide (64 * (j.converted + tiles) ≤ tget 0 j.collected r)) then s
    else
      s.guardSlots l j.smp.op 3 (rdSlots c.stall x tySlots) fun s =>
      s.guardSlots l j.smp.op 2 (wrSlots x 2 [ringSlot g.dc coord]) fun s =>
        let (dr, s0) := s.draw
        let o := cvtOut c s g j dr
        let s1 := (s0.readTiles l tySlots).writeOut c 2 j.smp o
        let s2 := if cvtFn x j = 0x13 then
            s1.count l 36 (dropCount c j.smp (fulImm ((finOf x j.smp).getD 0)) (mmTC j.smp.w) g.dc coord o.extR o.extC) else s1
        let conv := j.converted + tiles
        s2.modLoom l (fun y =>
          if 64 * conv = g.span then { y with arr := none, width := 0 }
          else { y with arr := some { j with converted := conv } }))

/-- The slots whose tiles a matrix operation with PRE loads into the accumulators (R136). -/
def mmPres (c : Ctx) (s : Dev) (p : Sample) (w : Nat) (g : MmGeo) : List Nat :=
  if mmPre w then
    match c.st.desc (mmTP w) with
    | some dp => (List.range (g.span / 64)).map (fun j => ringSlot dp (c.at_ s dp p 0 j 0))
    | none => []
  else []

/-- MM: the array takes the operation, clears or preloads the accumulators (R92, R136). -/
def execMm (l : LoomId) (s : State) : Host.Outcome State Fault Refusal := s.onDev fun s =>
  .next (s.takeArr l 0x20 fun c p w =>
    let x := s.loom l
    match mmGeo c w with
    | none => s
    | some g =>
        let pres := mmPres c s p w g
        s.guardSlots l p.op 1 (rdSlots c.stall x pres) fun s =>
          let cleared : LoomSt := { x with acc := tdrop (fun k => decide (k % 256 < g.span)) x.acc }
          let loaded := pres.zipIdx.foldl (fun y e =>
            let vs := slotVals x c.ftz e.1
            (List.range 64).foldl (fun y r => (List.range 64).foldl (fun y n => accSet y r (64 * e.2 + n) (matGet vs r n)) y) y) cleared
          let apart := mmApart x p g
          let cpre : Tab (BitVec 24) := if apart then tdrop (fun k => decide (g.span ≤ k % 256)) (loaded.acc.map (fun e => (e.1, e.2.1))) else []
          let s1 := s.setLoom l { (if apart then cleared else loaded) with arr := some { smp := p, cpre := cpre }, width := BitVec.ofNat 2 g.cls }
          (s1.readTiles l pres).arrTaken l)

/-! ### Bench slots (R108, R110) -/

def portCode : Port → Nat
  | .feeders => 0 | .warp => 1 | .drain => 2 | .fuller => 3 | .picker => 4 | .network => 5

/-- The ports that read Bench and those that write it (R109). -/
def portReads (p : Port) : Bool := p != .drain
def portWrites (p : Port) : Bool := p != .feeders && p != .warp

/-- A writing port claims an EMPTY slot into FILLING, waiting while it is not EMPTY; a RAW slot faults the loom (R108). The
feeders and the warp port write nothing (R109). -/
def execSlotClaim (l : LoomId) (port : Port) (slot : SlotId) (readers : Byte) (tag : Tag) (s : State) : Host.Outcome State Fault Refusal := s.onDev fun s =>
  let x := s.loom l
  let v := x.slot slot.val
  if !x.live || !portWrites port then .next s
  else match v.state with
    | .empty => .next (s.setLoom l (x.setSlot slot.val
        { state := .filling, setReaders := readers, tag := tag, tagWritten := true, claimant := portCode port }))
    | .raw => .next (s.faultLoom l 1 slot.val (portCode port) 0 x.pc)
    | _ => .next s

/-- A quarter region completes: its bytes stand, its quarter-full bit is set, and with all four set the slot becomes
FULL or PINNED (R108). -/
def execQuarterFill (l : LoomId) (slot : SlotId) (q : Fin 4) (data : List Byte) (s : State) : Host.Outcome State Fault Refusal := s.onDev fun s =>
  let x := s.loom l
  let v := x.slot slot.val
  if v.state = .filling && !v.quarters.getLsbD q.val then
    let y := (benchWrite x (8192 * slot.val + 2048 * q.val) (data.take 2048)).setSlot slot.val (Slot.settle { v with quarters := setBit v.quarters q.val })
    .next ((s.setLoom l y).count l 14 (data.take 2048).length)
  else .next s

/-- A completed read of a whole tile decrements the reader count; at zero the slot becomes EMPTY (R108). `ecc` is what the
code found in what the port read, the tag array included (R110). The reads of a unit other than the array are completed by
the unit's own command: of those this command gives what the code finds, before the unit takes the data; then no data is
delivered where it cannot be corrected. -/
def execTileReadComplete (l : LoomId) (port : Port) (slot : SlotId) (ecc : Ecc) (s : State) : Host.Outcome State Fault Refusal := s.onDev fun s =>
  let x := s.loom l
  if !portReads port then .next s
  else if x.rdDone.contains slot.val then
    .next (s.benchEcc l slot.val (portCode port) x.pc ecc fun s =>
      s.modLoom l (fun x => { readDone x slot.val with rdDone := x.rdDone.erase slot.val }))
  else if x.live && (x.slot slot.val).state != .empty then .next (s.benchEcc l slot.val (portCode port) x.pc ecc fun s => s)
  else .next s

/-- A corrected word is written back at its bank's next free access (R110). -/
def execBenchCeWriteback (l : LoomId) (s : State) : Host.Outcome State Fault Refusal := s.onDev fun s =>
  .next (s.modLoom l (fun x => { x with ceList := x.ceList.drop 1 }))

/-! ### The exception record (R119, R120) -/

/-- Empty the record and clear OVERRUN if the SEQ matches; SEQ itself goes on (R118, R119). -/
def clearExc (x : LoomSt) (seq : Byte) : LoomSt :=
  if x.exc.seq = seq then { x with exc := { seq := x.exc.seq } } else x

/-- A function may reach a loom's block: the physical function any, a virtual function its stall's (R21, R445). -/
def Dev.fnReaches (s : Dev) (fn l : Nat) : Bool := fn == 0 || (s.loomStall l == some (fn - 1))

/-- EXC_CLEAR (R119): a write of CLEAR = 1 to LOM_EXC_CLEAR. -/
def execExcClear (fn : FnId) (l : LoomId) (seq : Byte) (s : State) : Host.Outcome State Fault Refusal := s.onDev fun s =>
  s.host (if s.fnReaches fn.val l.val then s.modLoom l.val (fun x => clearExc x seq) else s)

/-- Step 2 and 3 of R120: the cluster control core reads the record and writes it to the event log. The spec leaves the
DATA of that entry open: the fields of LOM_EXC_STATUS with ELEM_ROW at bit 16, ELEM_COL at bit 24 and K_INDEX at bit 32,
then those of LOM_EXC_COORD at their own bits (DESIGN CHOICE, log entry 84). -/
def Dev.excCopy (s : Dev) (l : Nat) : Dev :=
  let e := (s.loom l).exc
  s.logEvent (16 + l / 12) 0x0011 ((s.loomStall l).getD 255) 0
    [b2n e.valid + 2 * b2n e.overrun + 4 * e.event.toNat + 16 * e.cause.toNat + 256 * e.seq.toNat + 2 ^ 16 * e.elemRow.toNat + 2 ^ 24 * e.elemCol.toNat + 2 ^ 32 * e.kIndex.toNat,
     e.row.toNat + 2 ^ 24 * e.col.toNat + 2 ^ 40 * e.plane.toNat + 2 ^ 52 * e.op.toNat]

/-- CCC_EXC_SERVICE (R120): the next step of the cluster control core's service. After the interrupt it copies the record to
the event log; with OWNER 0 its next step clears the record with the SEQ it read, or, where an event has come between, copies
it again. -/
def execCccExcService (l : LoomId) (s : State) : Host.Outcome State Fault Refusal := s.onDev fun s =>
  let x := s.loom l.val
  let copy (t : Dev) : Dev := (t.excCopy l.val).modLoom l.val (fun y => { y with excIrq := false, excCopied := if y.excOwner then none else some y.exc.seq })
  if !s.coreUp (16 + l.val / 12) then .next s
  else match x.excCopied with
    | some q =>
      if x.excOwner then .next (s.modLoom l.val (fun y => { y with excCopied := none }))
      else if x.exc.seq = q then .next (s.modLoom l.val (fun y => { clearExc y q with excCopied := none }))
      else .next (copy s)
    | none => if x.excIrq then .next (copy s) else .next s

end Sys2Proof.Machine
end

