-- ==== Sys2Proof/Machine/Run.lean ====
section
/-!
DEFINITION. Runs of a station's draft (R126 to R130, R453 to R456): dispatch, loops, END, completion; and CAST
(R140, R248 to R258).
-/
namespace Sys2Proof.Machine

/-! ### Runs -/

def StallSt.station (x : StallSt) (n : Nat) : StationSt := tget {} x.stations n

def Dev.modStation (s : Dev) (k n : Nat) (f : StationSt → StationSt) : Dev :=
  s.modStall k (fun x => { x with stations := tmod {} x.stations n f })

/-- Entry number at position `i` of the pass that starts at `e` (R329). -/
def routeAt (p : StallPlan) (e0 : Nat) : Nat → Option Nat
  | 0 => if e0 < p.route.length then some e0 else none
  | i + 1 =>
    match routeAt p e0 i with
    | none => none
    | some e =>
      match p.route[e]? with
      | some r => if r.next = 0xFFFF ∨ r.next = e0 then none else some r.next
      | none => none

/-- The ENTRY that a pass starts at. -/
def passEntry (p : StallPlan) (q : PassSt) : Nat :=
  match p.station q.station with
  | some t => tierEntry (t.draft.getD q.op 0)
  | none => 0

/-- A run of layer `layer` advances a pass's use frontier if the entry there is of that layer (R331); an entry that U
passes before it completes is late (R332). -/
def PassSt.advance (p : StallPlan) (layer : Nat) (q : PassSt) : PassSt :=
  match routeAt p (passEntry p q) q.frontier with
  | none => q
  | some e =>
    match p.route[e]? with
    | some r =>
      if r.layer = layer then
        { q with frontier := q.frontier + 1,
                 entries := q.entries.map (fun x => if x.pos = q.frontier && !x.complete then { x with late := true } else x) }
      else q
    | none => q

/-- The hopper of the module that a stall's hopper number names (R181). -/
def Dev.hopOf (s : Dev) (k h : Nat) : Option Nat :=
  match s.stallRec k with
  | some r => if h < r.hopCount then some (r.hopFirst + h) else none
  | none => none

def Dev.hopper (s : Dev) (h : Nat) : List W64 := tget [] s.hub.hoppers h
def Dev.setHopper (s : Dev) (h : Nat) (l : List W64) : Dev := s.modHub (fun u => { u with hoppers := tset [] u.hoppers h l })

/-- A station can begin a run: every loom idle and live, no completion held (R130, R455). -/
def Dev.stationReady (s : Dev) (k : Nat) (t : Station) : Bool :=
  ((s.stall k).station t.num).held.isEmpty &&
  t.looms.all (fun l => (s.loom l).live && !(s.loom l).running && (s.loom l).station == some t.num)

/-- Start a run on a loom: word 0 is HEAD; the run begins at word 1 (R130). -/
def startRun (step version : W32) (seq draw : Nat) (x : LoomSt) : LoomSt :=
  ({ x with running := true, step := step, version := version, runSeq := seq, runDraw := draw, loops := [] } : LoomSt).goto 1

/-- Begin a run of a station: its looms run, and passes of the stall's tier stations see its layer (R130, R331). -/
def Dev.beginRun (s : Dev) (k : Nat) (p : StallPlan) (e : W64) (t : Station) : Dev :=
  let (dr, s) := s.draw
  let st := (s.stall k).station t.num
  let step : W32 := e.setWidth 32
  let version : W32 := (e >>> 32).setWidth 32
  let s1 := s.modStation k t.num (fun x => { x with runs := x.runs ++ [{ seq := st.nextSeq, step := step, version := version }], nextSeq := st.nextSeq + 1 })
  let s2 := t.looms.foldl (fun u l => u.modLoom l (startRun step version st.nextSeq dr)) s1
  if t.role = 9 then s2
  else s2.modStall k (fun x => { x with passes := x.passes.map (PassSt.advance p (headLayer (t.draft.headD 0))) })

/-- The entry whose run the stations bound to a run hopper begin next, and which of them have still to begin it: one taken before,
or else the oldest in the hopper (R188). -/
def Dev.runEntry (s : Dev) (k hop h : Nat) (ts : List Station) : Option (W64 × List Station) :=
  let cur := tget {} (s.stall k).hopCur hop
  match ts.filter (fun t => cur.left.contains t.num), s.hopper h with
  | [], [] => none
  | [], e :: _ => some (e, ts)
  | left, _ => some (cur.entry, left)

/-- RUN_DISPATCH (R130, R188): every station bound to stall-relative hopper `hop` that can begin a run begins that of the hopper's
entry. The entry leaves the hopper when the first of them begins it, and the next is taken once all have (R188 says the second;
the first is DEDUCED, log entry 86). -/
def execRunDispatch (st : StallId) (hop : HopId) (s : State) : Host.Outcome State Fault Refusal := s.onDev fun s =>
  let k := st.val
  match (s.stall k).plan, s.hopOf k hop.val with
  | some p, some h =>
    let ts := p.stations.filter (fun t => t.runHop == hop.val)
    match s.runEntry k hop.val h ts with
    | none => .next s
    | some (e, left) =>
      let go := left.filter (fun t => s.stationReady k t)
      if (s.stall k).blk.state == .loaded && s.coreUp 2 && !go.isEmpty then
        let cur := tget {} (s.stall k).hopCur hop.val
        let s1 := if ts.any (fun t => cur.left.contains t.num) then s else s.setHopper h ((s.hopper h).drop 1)
        let rest := (left.filter (fun t => !s.stationReady k t)).map (·.num)
        let s2 := s1.modStall k (fun x => { x with hopCur := tset {} x.hopCur hop.val (if rest.isEmpty then {} else { entry := e, left := rest }) })
        .next ((go.foldl (fun u t => u.beginRun k p e t) s2).count hubKey 1 go.length)
      else .next s
  | _, _ => .next s

/-- A unit of the loom still works for the run, or a tile of it is on its way through a channel ring (R130, R251, R278). -/
def LoomSt.busyFor (x : LoomSt) (seq : Nat) : Bool :=
  let has (p : Option Sample) : Bool := match p with
    | some q => q.runSeq == seq
    | none => false
  has (x.arr.map (·.smp)) || has (x.att.map (·.smp)) || has (x.pick.map (·.smp)) || has (x.upd.map (·.smp)) ||
  has (x.apx.map (·.smp)) || has (x.xfer.map (·.smp)) || has (x.tier.map (·.smp)) || has (x.ful.map (·.smp)) ||
  has x.arrNext || has (x.pickNext.map (·.smp)) || x.outq.any (fun q => q.2.any (fun i => i.run == seq))

/-- STATUS of a run (R130): 2 if the stall faulted, 1 if a member raised V, O or U in the run, else 0. -/
def Dev.runStatus (s : Dev) (k : Nat) (t : Station) (seq : Nat) : BitVec 2 :=
  if (s.stall k).faulted then 2
  else if t.looms.any (fun l => (s.loom l).excRuns.contains seq) then 1 else 0

/-- End the record of a run: a completion entry is held for the station when CPL is 1 (R130, R455). -/
def Dev.closeRun (s : Dev) (k : Nat) (t : Station) (r : RunRec) : Dev :=
  let status := s.runStatus k t r.seq
  let cpl := bit (t.draft.getLast?.getD 0) 55
  let n := (s.stall k).cplSeq
  let s1 := (s.modStation k t.num (fun x =>
    { x with runs := x.runs.filter (fun q => q.seq != r.seq), held := if cpl then x.held ++ [⟨r.step, status, n⟩] else x.held })).modStall k
    (fun x => { x with cplSeq := if cpl then n + 1 else n })
  t.looms.foldl (fun u l => u.modLoom l (fun x => { x with excRuns := x.excRuns.filter (· != r.seq) })) s1

/-- RUN_COMPLETE (R130): the station's oldest run completes once every member has executed END and every tile of the
run is written. -/
def execRunComplete (st : StallId) (n : LoomId) (s : State) : Host.Outcome State Fault Refusal := s.onDev fun s =>
  let k := st.val
  match (s.stall k).plan.bind (fun p => p.station n.val), ((s.stall k).station n.val).runs with
  | some t, r :: _ =>
    if t.looms.all (fun l => r.ended.contains l && !(s.loom l).busyFor r.seq) then .next (s.closeRun k t r) else .next s
  | _, _ => .next s

/-- The completion entry of R453. -/
def cplEntry (n : Nat) (c : CplRec) : W64 :=
  BitVec.ofNat 64 (c.step.toNat + 2 ^ 32 * c.status.toNat + 2 ^ 34 * (n % 2048) + 2 ^ 63)

/-- A completion of station `t` is the oldest that is held for its completion hopper: those of stations that share it arrive in
the order in which the runs completed (R188). -/
def Dev.cplFirst (s : Dev) (k : Nat) (t : Station) (c : CplRec) : Bool :=
  match (s.stall k).plan with
  | some p => (p.stations.filter (fun u => u.cplHop == t.cplHop)).all (fun u => ((s.stall k).station u.num).held.all (fun d => decide (c.seq ≤ d.seq)))
  | none => true

/-- COMPLETION_POST (R455): the oldest held completion goes into the completion hopper once that has room; the virtual
function's vector 0 is raised when the hopper was empty (R457). -/
def execCompletionPost (st : StallId) (n : LoomId) (s : State) : Host.Outcome State Fault Refusal := s.onDev fun s =>
  let k := st.val
  match (s.stall k).plan.bind (fun p => p.station n.val), ((s.stall k).station n.val).held with
  | some t, c :: rest =>
    match t.cplHop.bind (s.hopOf k) with
    | some h =>
      let q := s.hopper h
      if s.coreUp 2 && decide (q.length < 8) && s.cplFirst k t c then
        let s1 := ((s.modStation k n.val (fun x => { x with held := rest })).setHopper h (q ++ [cplEntry n.val c])).count hubKey 2 1
        .next (if q.isEmpty then s1.msix (k + 1) 0 else s1)
      else .next s
    | none => .next (s.modStation k n.val (fun x => { x with held := rest }))
  | _, _ => .next s

/-! ### Structural words (R126, R129) -/

/-- LOOP: opens a loop with its counter at 0. -/
def execLoopOpen (l : LoomId) (s : State) : Host.Outcome State Fault Refusal := s.onDev fun s =>
  .next (match (s.loom l.val).word with
  | some w =>
    if opc w = 0x01 then
      s.modLoom l.val (fun x =>
        ({ x with loops := { ctr := loopCtr w, val := 0, count := loopCount w, at_ := x.pc } :: x.loops } : LoomSt).goto (x.pc + 1))
    else s
  | none => s)

/-- ENDLOOP: the counter advances and the body repeats, or the loop is left. -/
def execLoopClose (l : LoomId) (s : State) : Host.Outcome State Fault Refusal := s.onDev fun s =>
  .next (match (s.loom l.val).word with
  | some w =>
    if opc w = 0x02 then
      s.modLoom l.val (fun x =>
        match x.loops with
        | [] => x
        | f :: fs =>
          if f.val + 1 < f.count then ({ x with loops := { f with val := f.val + 1 } :: fs } : LoomSt).goto (f.at_ + 1)
          else ({ x with loops := fs } : LoomSt).goto (x.pc + 1))
    else s
  | none => s)

/-- END: the loom's run of the draft ends; its station's run learns of it (R126, R130). -/
def execEndRun (l : LoomId) (s : State) : Host.Outcome State Fault Refusal := s.onDev fun s =>
  .next (match (s.loom l.val).word with
  | some w =>
    if opc w = 0x03 then
      let x := s.loom l.val
      let s1 := s.modLoom l.val (fun x => { x with running := false })
      match s.loomStall l.val, x.station with
      | some k, some n => s1.modStation k n (fun y =>
          { y with runs := y.runs.map (fun r => if r.seq = x.runSeq then { r with ended := sinsert l.val r.ended } else r) })
      | _, _ => s1
    else s
  | none => s)

/-! ### CAST (R140, R248 to R258) -/

/-- The overflow map's record (R254), read from the first line of the raw region. -/
structure MapRec where
  va : Nat
  tiles : Nat
  ebytes : Nat
  ok : Bool

def mapRec (x : LoomSt) (slot ebytes : Nat) : MapRec :=
  let b := benchBytes x (8192 * slot) 64
  { va := u64 b 0 % 2 ^ 52, tiles := u64 b 8, ebytes := ebytes, ok := u16 b 16 == 6 && u16 b 18 == ebytes && allZero b 20 44 }

/-- The number of the block whose scale lies at an offset: blocks in the order in which R107 stores their scales (R255). -/
def blockNo (offs : List Nat) (off : Nat) : Nat := (offs.filter (fun o => decide (o < off))).length

def blockOffs (d : Desc) : List Nat := (blocksOf d.handle d.format.width).map (·.1)

/-- Bit `j` of a map entry. -/
def entryBit (e : List Byte) (j : Nat) : Bool := bit (u8 e (j / 8)) (j % 8)

/-- The effective code of R256. -/
def effCode (c : Nat) (flag : Bool) : Nat := if flag && decide (c ≤ 0xFD) then c + 1 else c

/-- The entry written after a conversion: bit `j` set when an element of block `j` raised O (R256). -/
def newEntry (d : Desc) (evs : EvList) (ebytes : Nat) : List Byte :=
  let offs := blockOffs d
  let hit := evs.filterMap (fun e => if e.2.2.o.isSome then some (blockNo offs (scaleOff d.handle d.format.width e.1 e.2.1)) else none)
  (List.range ebytes).map (fun i => BitVec.ofNat 8 (((List.range 8).map (fun j => if hit.contains (8 * i + j) then 2 ^ j else 0)).sum))

def setBits (e : List Byte) : Nat := (e.map (fun b => ((List.range 8).filter (fun i => b.getLsbD i)).length)).sum

/-- The stored value of an element of a converted tile, with its scales, exactly. -/
def storedExact (o : OutTile) (x k : Nat) : XV :=
  elemExact (dataGet o.data) (mkTag { row := 0, col := 0, plane := 0, extR := o.extR, extC := o.extC, fmt := o.d.fmt, scale := o.d.scale, stall := 0 }) false x k

/-- The stored value of an element of a converted tile as the loom reads it. -/
def storedVal (o : OutTile) (x k : Nat) : XV := (storedExact o x k).round

/-- The residual of an element (R249, R250): y − q, exactly, or +0 where y is NaN or infinite or q saturated. -/
def residual (y : XV) (o : OutTile) (sat : Bool) (x k : Nat) : XV :=
  match y.v with
  | .fin _ _ => if sat then .ok .zero else xaddExact y (storedExact o x k).neg
  | _ => .ok .zero

/-- An element of a gradient CAST saturated (R250). -/
def OutTile.sat (o : OutTile) (x k : Nat) : Bool := o.evs.any (fun e => e.1 == x && e.2.1 == k && e.2.2.o.isSome)

/-- The residual tile of a gradient CAST, through TZ + 2 (R249, R250). `epoch`: the EPOCH of the TX tile. -/
def castResidual (c : Ctx) (s : Dev) (p : Sample) (t : Nat) (dr2 : Desc) (ys : List (List XV)) (o : OutTile) (epoch draw : Nat) : OutTile :=
  mkOut c p t dr2 (c.at_ s dr2 p 0 0 0) (edgeExt p dr2.rowMap dr2.lastRows true) (edgeExt p dr2.colMap dr2.lastCols true)
    (dr2.lastF && lastFor (s.loom c.l) p t) (epochOf dr2 p epoch) .computed false 4 draw extMax
    (matBuild (fun x k => residual (matGet ys x k) o (o.sat x k) x k))

/-- Residual elements written as +0 in place of y − q (R250). -/
def zeroedCount (ys : List (List XV)) (o : OutTile) : Nat :=
  (((List.range (o.extR + 1)).flatMap (fun x => (List.range (o.extC + 1)).map (fun k => (x, k)))).filter (fun q =>
    o.sat q.1 q.2 || (match (matGet ys q.1 q.2).v with
      | .fin _ _ => false
      | _ => true))).length

/-! The tiles of a CAST (R140): its source, the scales it takes over, residual in and out, its output. -/

def castSlot (c : Ctx) (s : Dev) (p : Sample) (d : Desc) : Nat := ringSlot d (c.at_ s d p 0 0 0)
def castDesc (c : Ctx) (t : Nat) (dz : Desc) : Desc := (c.st.desc t).getD dz

def castReads (c : Ctx) (s : Dev) (p : Sample) (w : Nat) (dx dz : Desc) : List Nat :=
  castSlot c s p dx :: ((if castSC w = 2 then [castSlot c s p (castDesc c (castTY w) dz)] else []) ++
    (if castGrad w then [castSlot c s p (castDesc c (castTZ w + 1) dz)] else []))

def castWrites (c : Ctx) (s : Dev) (p : Sample) (w : Nat) (dz : Desc) : List Nat :=
  castSlot c s p dz :: (if castGrad w then [castSlot c s p (castDesc c (castTZ w + 2) dz)] else [])

/-- A gradient CAST's tiles all stand for the output's coordinates (R248). -/
def castTagsOk (c : Ctx) (s : Dev) (p : Sample) (w : Nat) (dx dz : Desc) : Bool :=
  let zc := c.at_ s dz p 0 0 0
  !castGrad w || (castReads c s p w dx dz).all (fun i =>
    let t := ((s.loom c.l).slot i).tag
    tagRow t == zc.1 && tagCol t == zc.2.1 && tagPlane t == zc.2.2)

/-- The overflow map's record, and the VA of the tile's entry (R254, R255). -/
def castMap (c : Ctx) (s : Dev) (w : Nat) (dz : Desc) : MapRec := mapRec (s.loom c.l) (castDesc c (castTM w) dz).base (512 / dz.handle.b)
def castTile (c : Ctx) (s : Dev) (p : Sample) (dz : Desc) : Nat :=
  let zc := c.at_ s dz p 0 0 0
  zc.2.2 * dz.sp + zc.1 * dz.sr + zc.2.1
def castVa (c : Ctx) (s : Dev) (p : Sample) (w : Nat) (dz : Desc) : Nat := (castMap c s w dz).va + castTile c s p dz * (512 / dz.handle.b)
def castMapOk (c : Ctx) (s : Dev) (p : Sample) (w : Nat) (dz : Desc) : Bool :=
  !castOmap w || ((castMap c s w dz).ok && decide (castTile c s p dz < (castMap c s w dz).tiles))

/-- The values that a CAST converts: the source's, with the residual added for a gradient (R249). -/
def castVals (c : Ctx) (s : Dev) (p : Sample) (w : Nat) (dx dz : Desc) : List (List XV) :=
  let x := s.loom c.l
  let i := castSlot c s p dx
  if castGrad w then
    let r := castSlot c s p (castDesc c (castTZ w + 1) dz)
    matBuild (fun a k => (xaddExact (elemExact (slotGet x i) (x.slot i).tag c.ftz a k) (elemExact (slotGet x r) (x.slot r).tag c.ftz a k)).round)
  else slotVals x c.ftz i

/-- The scale code that TY supplies at an offset. -/
def castBase (c : Ctx) (s : Dev) (p : Sample) (w : Nat) (dz : Desc) : Nat → Nat :=
  let dy := castDesc c (castTY w) dz
  match suppliedFrom (s.loom c.l) dy dz (if castSC w = 2 then castSlot c s p dy else 0) with
  | .supplied f => f
  | _ => fun _ => 0

/-- The output of a CAST, its map entry having been read as `entry` (R256). -/
def castOut (c : Ctx) (s : Dev) (p : Sample) (w : Nat) (dx dz : Desc) (entry : List Byte) (dr : Nat) : OutTile :=
  let x := s.loom c.l
  let sx := castSlot c s p dx
  let flag (off : Nat) : Bool := castOmap w && entryBit entry (blockNo (blockOffs dz) off)
  let src : ScaleSrc := if castSC w = 0 then .none else if castSC w = 1 then .computed
    else .supplied (fun off => effCode (castBase c s p w dz off) (flag off))
  mkOut c p (castTZ w) dz (c.at_ s dz p 0 0 0) (edgeExt p dz.rowMap dz.lastRows true) (edgeExt p dz.colMap dz.lastCols true)
    (dz.lastF && lastFor x p (castTZ w)) (epochOf dz p (tagEpoch (x.slot sx).tag)) src
    (castRnd w) (if castGrad w then 1 else 4) (dr * 256) (if castGrad w then extMax else srcMax (x.slot sx).tag) (castVals c s p w dx dz)

/-- The entry read from the overflow map, where the CAST uses one and takes over scales. -/
def castRead (c : Ctx) (s : Dev) (p : Sample) (w : Nat) (dz : Desc) : TRes (List Byte) :=
  if castOmap w && castSC w == 2 then s.tierRead c.stall c.src none (castVa c s p w dz) (512 / dz.handle.b) else .ok [] s

/-- The entry written back (R255, R256). -/
def castMapWrite (c : Ctx) (s0 s : Dev) (p : Sample) (w : Nat) (dz : Desc) (o : OutTile) : TRes Unit :=
  let eb := 512 / dz.handle.b
  if castOmap w then s.tierWrite c.stall c.src none false (castVa c s0 p w dz) (if castSC w = 2 then newEntry dz o.evs eb else List.replicate eb 0)
  else .ok () s

/-- CAST: one tile, once its source tiles stand ready; its outputs then go into their slots as these are EMPTY (R133, R140,
R248 to R258). -/
def castWord (l : Nat) (s : Dev) : Dev :=
  match s.ctx l, (s.loom l).ful with
  | some c, some j => if (s.loom l).live && opc j.smp.w == 0x31 then s.fulFlush c else s
  | _, _ => s.withWord l 0x31 fun c p w =>
    withDesc c (castTX w) (fun dx => withDesc c (castTZ w) (fun dz =>
      let x := s.loom l
      let reads := castReads c s p w dx dz
      s.guardSlots l p.op 3 (rdSlots c.stall x reads) fun s =>
        if !castTagsOk c s p w dx dz || !castMapOk c s p w dz then s.faultLoom l 5 0 0 0 p.op
        else
          (castRead c s p w dz).forLoom s l p.op fun entry s1 =>
            let (dr, s2) := s1.draw
            let o := castOut c s p w dx dz entry dr
            (castMapWrite c s s2 p w dz o).forLoom s l p.op fun _ s3 =>
              let base := castBase c s p w dz
              let used := (blockOffs dz).filter (fun off => castOmap w && entryBit entry (blockNo (blockOffs dz) off))
              let s4 := if castOmap w && castSC w == 2 then
                  ((s3.count l 33 (setBits (newEntry dz o.evs (512 / dz.handle.b)))).count l 34 (used.filter (fun o => decide (base o ≤ 0xFD))).length).count l 35
                    (used.filter (fun o => base o == 0xFE)).length
                else s3
              let ys := castVals c s p w dx dz
              let res := castResidual c s p (castTZ w + 2) (castDesc c (castTZ w + 2) dz) ys o (tagEpoch (x.slot (castSlot c s p dx)).tag) (dr * 256 + 1)
              let s5 := (s4.readTiles l reads).fulWrite c p (o :: (if castGrad w then [res] else []))
              advance (if castGrad w then s5.count l 32 (zeroedCount ys o) else s5) l) s) s

/-- CAST (R140). -/
def execCast (l : LoomId) (s : State) : Host.Outcome State Fault Refusal := s.onDev fun s => .next (castWord l.val s)

end Sys2Proof.Machine
end

