-- ==== Sys2Proof/Machine/Load.lean ====
section
/-!
DEFINITION. Plan commands (R184, R185, R207 to R214, R370, R372).
-/
namespace Sys2Proof.Machine

/-! ### Commands accepted and held -/

/-- The register block of a plan target: none the device plan's. -/
def Dev.blk (s : Dev) : PlanTarget → PlanBlk
  | .device => s.hub.dblk
  | .stall k => (s.stall k.val).blk

def Dev.modBlk (s : Dev) (t : PlanTarget) (f : PlanBlk → PlanBlk) : Dev :=
  match t with
  | .device => s.modHub (fun h => { h with dblk := f h.dblk })
  | .stall k => s.modStall k.val (fun x => { x with blk := f x.blk })

def tgtNum : PlanTarget → Nat
  | .device => 0
  | .stall k => k.val + 1

/-- A command is held and has not ended (R213). -/
def PlanState.busy (p : PlanState) : Bool := p == .waiting || p == .verifying || p == .placing || p == .unloading

/-- The states of a load command in which staging is locked. -/
def PlanState.locks (p : PlanState) : Bool := p == .waiting || p == .verifying || p == .placing

/-- A target's staging is locked from the acceptance of a load command until STATE leaves VERIFYING and PLACING (R209). -/
def Dev.stagingLocked (s : Dev) (t : PlanTarget) : Bool :=
  (s.blk t).state.locks && !(s.hub.held.any (fun c => c.tgt == tgtNum t && c.unload))

/-- The target that a stall's number names. -/
def stallTarget (k : Nat) : PlanTarget := .stall ⟨k % 96, Nat.mod_lt k (by decide)⟩

def Dev.devInProgress (s : Dev) : Bool := s.hub.held.any (fun c => c.tgt == 0)

def Dev.unhold (s : Dev) (t : PlanTarget) : Dev :=
  s.modHub (fun h => { h with held := h.held.filter (fun c => c.tgt != tgtNum t) })

/-- The vector that reports a plan command's end to the function that issued it (R457). -/
def Dev.planIrq (s : Dev) (fn : Nat) : Dev := s.msix fn (if fn = 0 then 1 else 2)

/-- The event-log entry of a plan command's end (R460). -/
def Dev.planLog (s : Dev) (t : PlanTarget) (code : Nat) (digest : BitVec 256) : Dev :=
  s.logEvent 2 0x0020 (match t with
    | .device => 255
    | .stall k => k.val) 0 [code, (digest.setWidth 64).toNat, ((digest >>> 64).setWidth 64).toNat, ((digest >>> 128).setWidth 64).toNat, ((digest >>> 192).setWidth 64).toNat]

/-- Accept a load command, or discard it with CMD_LOST (R213). -/
def Dev.acceptLoad (s : Dev) (t : PlanTarget) (fn : Nat) : Dev :=
  let b := s.blk t
  if b.state.busy then s.modBlk t (fun b => { b with cmdLost := true })
  else
    let prev := b.state
    (s.modBlk t (fun b => { b with state := .waiting, prev := prev, issuer := fn })).modHub
      (fun h => { h with held := h.held ++ [{ tgt := tgtNum t, unload := false }] })

/-- A command register or doorbell of a function takes effect only while the host link is up, and after every earlier BAR4
write of the function has landed (R450). -/
def Dev.hostCmd (s : Dev) (fn : Nat) (k : Dev) : Host.Outcome Dev Fault Refusal :=
  if s.hub.linkUp && (s.fn fn).wbuf.isEmpty then .next k else .next s

/-- PLAN_LOAD: OP 01 to SCH_PLAN_CMD of a stall, by the physical function or the stall's own (R210 step 1). -/
def execPlanLoad (fn : FnId) (st : StallId) (s : State) : Host.Outcome State Fault Refusal := s.onDev fun s =>
  s.hostCmd fn.val (if fn.val = 0 ∨ fn.val = st.val + 1 then s.acceptLoad (.stall st) fn.val else s)

/-- DPLAN_LOAD: OP 01 to SCH_DPLAN_CMD, by the physical function (R184). -/
def execDplanLoad (s : State) : Host.Outcome State Fault Refusal := s.onDev fun s => s.hostCmd 0 (s.acceptLoad .device 0)

/-! ### Verification (R207, R210 steps 2 to 4) -/

/-- MiB that the Store and Cellar regions of a plan occupy, and its KEEP records. -/
def regionsMib (p : StallPlan) (cel : Bool) : Nat := (((p.regions.filter (fun r => r.cellar == cel)).map (fun r => r.len)).sum) / 1048576
def keepsMib (p : StallPlan) : Nat := (p.keeps.map (·.2)).sum

def sameRegion (a b : Region) : Bool :=
  a.num == b.num && a.cellar == b.cellar && a.interleave == b.interleave && a.die == b.die && a.va == b.va && a.len == b.len

/-- Every place that a region of a stall holds: homes, guest frames and fresh homes. -/
def Dev.regionPlaces (s : Dev) (k : Nat) (r : Region) : List (Place × Nat × Nat × Bool) :=
  let bs := (List.range (r.len / frameSz)).map (fun b => (b, s.block k r.num b))
  let homes := bs.filterMap (fun e => e.2.home.map (fun p =>
    (p, r.interleave, (if r.cellar then celPortOf s.mem r e.1 else if r.interleave = 3 then r.die else (e.1 + r.num) % 24), r.cellar)))
  let guests := bs.filterMap (fun e => e.2.guest.map (fun g => ((⟨g.2, 0⟩ : Place), 2, g.1, false)))
  let fresh := bs.filterMap (fun e => e.2.fresh.map (fun p => (p, r.interleave, (if r.interleave = 3 then r.die else (e.1 + r.num) % 24), r.cellar)))
  homes ++ (guests ++ fresh)

/-- The free pool as it will stand once all zeroing and the regions this load releases are done. -/
def Dev.memAfterRelease (s : Dev) (k : Nat) (keep : List Region) : MemSt :=
  let free (m : MemSt) (z : Place × Nat × Nat × Bool) : MemSt := freePlace m z.1 z.2.1 z.2.2.1 z.2.2.2
  let m1 := s.stalls.foldl (fun m e => e.2.zeroing.foldl free m) s.mem
  ((s.regions k).filter (fun r => !keep.any (sameRegion r))).foldl (fun m r => (s.regionPlaces k r).foldl free m) m1

/-- Regions of a plan that the stall does not already hold (R211). -/
def Dev.newRegions (s : Dev) (k : Nat) (rs : List Region) : List Region :=
  rs.filter (fun r => !(s.regions k).any (sameRegion r))

def Dev.stallHasPlan (s : Dev) (k : Nat) : Bool := (s.stall k).plan.isSome || ((s.stall k).blk.state != .none && (s.stall k).blk.state != .waiting)

/-- What the loader knows when it verifies a plan (R207, R215). -/
def Dev.planEnv (s : Dev) (t : PlanTarget) : PlanEnv :=
  let d := s.hub.devPlan.getD {}
  let k := match t with
    | .device => 0
    | .stall k => k.val
  { dev := t == .device, stall := k, viaPf := (s.blk t).issuer == 0, lenReg := (s.blk t).len.toNat,
    stageBytes := (match t with
      | .device => 1048576
      | .stall _ => match s.stallRec k with
        | some r => r.stage * 1048576
        | none => 0),
    opKey := s.sec.opKey, stallKeys := s.sec.stallKeys, devPlan := d,
    withPlan := (d.stalls.map (fun (r : StallRec) => r.stall)).filter (fun j => s.stallHasPlan j),
    zeroing := (d.stalls.map (fun (r : StallRec) => r.stall)).filter (fun j => !(s.stall j).zeroing.isEmpty),
    used := (d.stalls.map (fun (r : StallRec) => r.stall)).filterMap (fun j => (s.stall j).plan.map (fun p => (j, keepsMib p, regionsMib p false, regionsMib p true))),
    cellarCap := s.mem.celCap.toNat, cellarMode := s.mem.celMode.toNat,
    placeable := fun rs => (placeRegions (s.newRegions k rs) (s.memAfterRelease k rs)).isSome }

/-- The bytes in a target's staging area. -/
def Dev.staged (s : Dev) (t : PlanTarget) : List Byte :=
  let n := (s.blk t).len.toNat
  match t with
  | .device => tgetRange 0 s.hub.dstage 0 n
  | .stall k => tgetRange 0 (s.stall k.val).stage 0 n

/-- No command accepted earlier still awaits verification, and device and stall commands wait for one another (R213). -/
def Dev.mayVerify (s : Dev) (t : PlanTarget) : Bool :=
  let early := s.hub.held.takeWhile (fun c => c.tgt != tgtNum t)
  early.all (fun c => c.unload || c.verified) &&
  (match t with
   | .stall _ => early.all (fun c => c.tgt != 0)
   | .device => s.stalls.all (fun e => e.2.blk.state != .verifying && e.2.blk.state != .placing && e.2.blk.state != .unloading))

/-- A refused command: previous State, SCH_PLAN_FAIL, staging unlocked (R210 steps 3 and 4). -/
def Dev.refusePlan (s : Dev) (t : PlanTarget) (f : Refuse) : Dev :=
  let b := s.blk t
  (((s.modBlk t (fun b => { b with state := b.prev, fail := f })).unhold t).planLog t f.code.toNat b.digest).planIrq b.issuer

/-- PLAN_VERIFY: the security core and the scheduler core check a held plan (R207, R210 steps 2 to 4). -/
def execPlanVerify (tgt : PlanTarget) (s : State) : Host.Outcome State Fault Refusal := s.onDev fun s =>
  if (s.blk tgt).state == .waiting && s.hub.held.any (fun c => c.tgt == tgtNum tgt && !c.unload && !c.verified) &&
     s.mayVerify tgt && s.coreUp 0 && s.coreUp 2 then
    let bytes := s.staged tgt
    match planRefuse (s.planEnv tgt) bytes with
    | some f => .next (s.refusePlan tgt f)
    | none =>
      let s1 := (s.modBlk tgt (fun b => { b with state := .verifying })).modHub
        (fun h => { h with held := h.held.map (fun c => if c.tgt = tgtNum tgt then { c with verified := true } else c) })
      match tgt with
      | .device => .next (s1.modHub (fun h => { h with dcand := some (parseDev bytes) }))
      | .stall k => .next (s1.modStall k.val (fun x => { x with cand := some (parseStallPlan bytes) }))
  else .next s

/-! ### Settling a frozen stall (R370) -/

/-- Tiles that a loom holds in its Bench slots. -/
def tilesHeld (x : LoomSt) : Nat :=
  (x.slots.filter (fun e => e.2.state == .full || e.2.state == .pinned || (e.2.state == .filling && e.2.quarters != 0))).length

/-- Tiles outside the slots: at the network port, in the partials that it forwards, in the tile buffers, and the one that the
array's windows, sums, accumulators and drains make (R370). -/
def tilesInUnits (x : LoomSt) : Nat :=
  x.xferIn.length +
  (match x.xfer with
   | some j => (j.outs.filter (fun o => o.tile.isSome)).length
   | none => 0) +
  (match x.arr with
   | some j => b2n (!j.taken.isEmpty) +
     ((List.range 2).filter (fun b => j.collected.any (fun e => decide (64 * (j.converted + b) < e.2)))).length
   | none => 0)

/-- A loom with its elastic contents, its run and its Bench slots gone. -/
def emptyLoom (x : LoomSt) : LoomSt :=
  { x with
    running := false, loops := [], waits := [], excRuns := [], slots := [], ceList := [], rdDone := [], acc := [], tbuf := [],
    width := 0, arr := none, arrNext := none, pickNext := none, ful := none, walkRun := (0, 0), runDraw := 0,
    att := none, walks := [], pick := none, upd := none, apx := none, xfer := none, tier := none, outq := [],
    attPinned := false, updLate := [], spills := [], spillGranted := [], apxSeq := [], apxRun := [], apxOrder := [], xferIn := [], updRun := none }

/-- Freeze and settle a stall (R149, R210 step 6, R212 step 3, R370). -/
def Dev.settle (s : Dev) (k : Nat) : Dev :=
  let ls := s.stallLooms k
  let n := (ls.map (fun l => tilesHeld (s.loom l) + tilesInUnits (s.loom l))).sum
  let s1 := ls.foldl (fun t l => t.modLoom l (fun x => { emptyLoom x with frzPlan := true })) s
  let mine (key : Nat) : Bool := ls.contains (streamRcv key) || ls.contains (streamSnd key)
  let away (r : CtlMsg × Nat × Nat) : Bool := ls.contains r.2.1
  let gs := s.links.grants.filter away
  let absent (t : Dev) (m : CtlMsg) : Dev := t.sendCtl m.dstStall m.group m.member m.minus 5 (m.row, m.col, m.plane) (m.srcDev, m.srcStall) (m.link / 12)
  let s2 := (gs ++ s.links.reqs.filter away).foldl (fun t r => absent t r.1) { s1 with
    net := tdrop mine s1.net, acks := tdrop mine s1.acks, waiters := tdrop (fun w => ls.contains (w / 512)) s1.waiters,
    links := { s1.links with reqs := s1.links.reqs.filter (fun r => !away r), grants := s1.links.grants.filter (fun r => !away r) } }
  s2.modStall k (fun x => { x with
    discard := x.discard + BitVec.ofNat 64 n, settled := true, passes := [], revoked := x.revoked ++ gs.map (fun r => r.1.flow),
    epochs := (x.epochs.map (fun e => (e.1, { e.2 with pinCur := 0, pinPrev := 0 }))).filter (fun e => e.2 != ({} : EpochDom)),
    hopCur := [], stations := x.stations.map (fun e => (e.1, { e.2 with runs := [] })),
    quire := if x.quire.state == .idle then x.quire else { x.quire with state := .failed } })

/-! ### Regions (R210 step 7, R214) -/

/-- Release a region's blocks: they wait for zeroing, and the region's Shelf lines are discarded (R214). -/
def Dev.releaseRegion (s : Dev) (k : Nat) (r : Region) : Dev :=
  let zs := s.regionPlaces k r
  ((s.modStall k (fun x => { x with
    blocks := tdrop (fun key => key / 2 ^ 32 == r.num) x.blocks, zeroing := x.zeroing ++ zs })).zeroUnits k zs).modMem
    (fun m => { m with shelf := m.shelf.map (fun e => (e.1, e.2.filter (fun y => y.stall != k || y.region != r.num))) })

/-- Frames of the call-up pool: the part of the STORE quota that Store regions do not occupy (R309). -/
def Dev.poolFrames (s : Dev) (k : Nat) (p : StallPlan) : Nat :=
  match s.stallRec k with
  | some r => (r.store - regionsMib p false) / 2
  | none => 0

/-- Guest frames of the blocks a stall holds. -/
def guestCount (x : StallSt) : Nat := (x.blocks.filter (fun e => e.2.guest.isSome)).length

/-! ### Looms (R210 steps 8 and 9) -/

/-- Q of R294 for the looms of an update station. -/
def spillQuota (p : StallPlan) : Nat :=
  match p.regions.find? (fun r => r.spill) with
  | some r => min (r.len / 4288 / max (updLooms p).length 1) 65535
  | none => 0

/-- The raw slots of a draft (R133). -/
def rawSlots (t : Station) : List Nat :=
  ((List.range 16).filterMap t.desc).flatMap (fun d => if d.kind = 2 then (List.range d.depth).map (fun i => d.base + i) else [])

/-- Load a station's draft, role and RAW records into member `m`'s loom (R205, R210 step 8). -/
def loadLoom (p : StallPlan) (t : Station) (m : Nat) (x : LoomSt) : LoomSt :=
  let raws := rawSlots t
  let y := { emptyLoom x with
    fault := {}, frzPlan := false, frzFault := false, role := t.role, station := some t.num, member := m, draft := t.draft, pc := 0,
    bench := tdrop (fun a => raws.contains (a / 8192)) x.bench,
    slots := raws.foldl (fun ss i => tset {} ss i { state := .raw }) [],
    spillCap := BitVec.ofNat 16 (if spills t then spillQuota p else 0) }
  (p.raws.filter (fun r => r.station == t.num && (match r.member with
    | none => true
    | some i => i == m))).foldl (fun y r => benchWrite y (8192 * r.slot + r.offset) r.data) y

/-- A loom of the stall that no station uses. -/
def clearLoom (x : LoomSt) : LoomSt :=
  { emptyLoom x with fault := {}, frzPlan := false, frzFault := false, role := 0, station := none, member := 0, draft := [], pc := 0, spillCap := 0 }

/-- Load every loom of the stall. -/
def Dev.loadLooms (s : Dev) (k : Nat) (p : StallPlan) : Dev :=
  let s1 := (s.stallLooms k).foldl (fun t l => t.modLoom l clearLoom) s
  p.stations.foldl (fun t st => st.looms.zipIdx.foldl (fun t e => t.modLoom e.1 (loadLoom p st e.2)) t) s1

/-- The looms that refuse their draft, with the offending word: each member decodes its station's draft (R148). -/
def draftFailures (p : StallPlan) : List (Nat × Nat) :=
  p.stations.flatMap (fun t => match draftRefused (p.env t) t.draft with
    | some w => t.looms.map (fun l => (l, w))
    | none => [])

/-! ### Placement of a device plan, unloading -/

/-- A stall's record keeps its clusters, hoppers and staging (R184). -/
def sameShape (a b : StallRec) : Bool := a.clusters == b.clusters && a.hopFirst == b.hopFirst && a.hopCount == b.hopCount && a.stage == b.stage

/-- Discard every hopper entry of a stall's range (R184, R456). -/
def Dev.dropHoppers (s : Dev) (r : StallRec) : Dev :=
  s.modHub (fun h => { h with hoppers := tdrop (fun q => decide (r.hopFirst ≤ q) && decide (q < r.hopFirst + r.hopCount)) h.hoppers })

/-- A stall ceases to exist: its state goes, and a command that it holds in WAITING is refused with code 0x15 (R184, R185,
R213). -/
def Dev.dropStall (s : Dev) (k : Nat) : Dev :=
  let b := (s.stall k).blk
  let t := (s.setStall k {}).modTally (fun y => { y with pendStalls := y.pendStalls.filter (· != k) })
  if b.state == .waiting then
    (t.modBlk (stallTarget k) (fun x => { x with issuer := b.issuer })).refusePlan (stallTarget k) (refuse 0x15 0 0 0)
  else t

/-- Put a verified device plan into force (R184): removed or reshaped stalls lose their entries and state, a new stall's
epoch domains stand at 0 (R236), the call-up pools follow the new quotas (R309), and a stall built on a held or dead cluster
faults (R374, R424). -/
def Dev.placeDevice (s : Dev) (d : DevPlan) : Dev :=
  let old := s.hub.devPlan.getD {}
  let gone := old.stalls.filter (fun (a : StallRec) => !d.stalls.any (fun b => b.stall == a.stall && sameShape a b))
  let removed := gone.filter (fun (a : StallRec) => !d.stalls.any (fun b => b.stall == a.stall))
  let s1 := gone.foldl (fun t r => t.dropHoppers r) s
  let s2 := gone.foldl (fun t (r : StallRec) => (t.stallLooms r.stall).foldl (fun t l => t.modLoom l clearLoom) t) s1
  let s3 := removed.foldl (fun t (r : StallRec) => t.dropStall r.stall) s2
  let s4 := s3.modHub (fun h => { h with
    devPlan := some d, dcand := none,
    dblk := { h.dblk with state := .loaded, planId := d.planId, digest := d.digest } })
  let s5 := d.stalls.foldl (fun t (r : StallRec) => t.modStall r.stall (fun x => { x with
    epochs := if old.stalls.any (fun (a : StallRec) => a.stall == r.stall) then x.epochs else [],
    poolCap := match x.plan with
      | some p => (r.store - regionsMib p false) / 2
      | none => x.poolCap })) s4
  let s6 := s5.trainLinks d.axes
  d.stalls.foldl (fun t (r : StallRec) =>
    if old.stalls.any (fun (a : StallRec) => a.stall == r.stall && a.clusters == r.clusters) then t else t.refault r.stall) s6

/-- Unload the device plan: every cluster becomes unassigned (R185). -/
def Dev.unloadDevice (s : Dev) : Dev :=
  let old := s.hub.devPlan.getD {}
  let s1 := old.stalls.foldl (fun t r => (t.dropHoppers r).dropStall r.stall) s
  let s2 := s1.modTally (fun y => { y with pendStalls := [] })
  let s3 := s2.modHub (fun h => { h with devPlan := none, dblk := { h.dblk with state := .none, planId := 0, digest := 0 } })
  let s3 := s3.trainLinks {}
  ((s3.unhold .device).planLog .device 0 0).planIrq 0

/-- A device UNLOAD is judged (R185, R213): refused while a stall plan stands; waiting for stalls that are verifying, placing
or unloading and for stall commands accepted before it, not for those that wait behind it; then for zeroing. -/
def Dev.judgeDevUnload (s : Dev) : Dev :=
  let early := s.hub.held.takeWhile (fun c => c.tgt != 0)
  if s.stalls.any (fun e => e.2.blk.state == .loaded || e.2.blk.state == .failed) then s.refusePlan .device (refuse 0x16 0 0 0)
  else if !early.isEmpty || s.stalls.any (fun e => e.2.blk.state == .verifying || e.2.blk.state == .placing || e.2.blk.state == .unloading) then s
  else if s.stalls.any (fun e => !e.2.zeroing.isEmpty) then s.modBlk .device (fun b => { b with state := .unloading })
  else s.unloadDevice

/-- DPLAN_UNLOAD: OP 10 to SCH_DPLAN_CMD (R185, R213). -/
def execDplanUnload (s : State) : Host.Outcome State Fault Refusal := s.onDev fun s =>
  let b := s.hub.dblk
  s.hostCmd 0 (if b.state.busy || b.state == .none then s.modBlk .device (fun b => { b with cmdLost := true })
    else
      let s1 := (s.modBlk .device (fun b => { b with state := .waiting, prev := b.state, issuer := 0 })).modHub
        (fun h => { h with held := h.held ++ [{ tgt := 0, unload := true }] })
      s1.judgeDevUnload)

/-- Run hoppers of the stall's plan. -/
def runHops (p : StallPlan) : List Nat := (p.stations.map (fun t => t.runHop)).eraseDups

/-- Steps 2 to 6 of R212. -/
def Dev.unloadStall (s : Dev) (k : Nat) : Dev :=
  let p := (s.stall k).plan.getD {}
  let issuer := (s.stall k).blk.issuer
  let hops := (runHops p).filterMap (s.hopOf k)
  let dropped := (hops.map (fun h => (s.hopper h).length)).sum
  let s1 := s.settle k
  let s2 := (s1.stallLooms k).foldl (fun t l => t.modLoom l clearLoom) s1
  let s3 := hops.foldl (fun t h => t.setHopper h []) s2
  let s4 := p.regions.foldl (fun t r => t.releaseRegion k r) s3
  let s5 := s4.modStall k (fun x => { x with
    blk := { x.blk with state := .none, dropped := BitVec.ofNat 32 dropped, planId := 0, digest := 0 },
    plan := none, cand := none, settled := false, outOfTally := true, faulted := false, withdrawn := false, notified := false, cause := 0, faultLoom := 0,
    stations := [], hopCur := [], groups := [], leads := [], poolCap := 0, poolUsed := 0, rstState := .idle, quire := { x.quire with state := .idle } })
  let s6 := s5.modTally (fun t => { t with pendStalls := t.pendStalls.filter (· != k) })
  (((s6.modHub (fun h => { h with held := h.held.filter (fun c => c.tgt != k + 1) })).planLog (stallTarget k) 0 0)).planIrq issuer

/-- PLAN_UNLOAD: OP 10 to SCH_PLAN_CMD (R212, R213); it goes through at once unless a wave or a device command is in
progress or the scheduler core is away. From UNLOADING on the stall is withdrawn from the tally, until step 10 of R210. -/
def execPlanUnload (fn : FnId) (st : StallId) (s : State) : Host.Outcome State Fault Refusal := s.onDev fun s =>
  s.hostCmd fn.val (if fn.val = 0 ∨ fn.val = st.val + 1 then
    let b := (s.stall st.val).blk
    if b.state == .loaded || b.state == .failed then
      let dev := s.devInProgress
      let s1 := (s.modStall st.val (fun x => { x with
          outOfTally := x.outOfTally || !dev,
          blk := { x.blk with state := if dev then .waiting else .unloading, prev := x.blk.state, issuer := fn.val } })).modHub
        (fun h => { h with held := h.held ++ [{ tgt := st.val + 1, unload := true }] })
      if dev || s.tally.busy || !s.coreUp 2 then s1 else s1.unloadStall st.val
    else s.modBlk (.stall st) (fun b => { b with cmdLost := true })
  else s)

/-- PLAN_PLACE (R210 steps 5 and 6, R212, R184, R185): the next step of a verified or waiting command. -/
def execPlanPlace (tgt : PlanTarget) (s : State) : Host.Outcome State Fault Refusal := s.onDev fun s =>
  match s.hub.held.find? (fun c => c.tgt == tgtNum tgt) with
  | none => .next s
  | some c =>
    match tgt with
    | .device =>
      if c.unload then .next s.judgeDevUnload
      else if c.verified && s.coreUp 2 then
        match s.hub.dcand with
        | some d => .next ((((s.placeDevice d).unhold .device).planLog .device 0 d.digest).planIrq 0)
        | none => .next s
      else .next s
    | .stall st =>
      let early := s.hub.held.takeWhile (fun e => e.tgt != st.val + 1)
      if c.unload then
        (if early.all (fun e => e.tgt != 0) && !s.tally.busy && s.coreUp 2 then .next (s.unloadStall st.val)
         else if early.all (fun e => e.tgt != 0) then
           .next (s.modStall st.val (fun x => { x with outOfTally := true, blk := { x.blk with state := .unloading } }))
         else .next s)
      else if c.verified && (s.stall st.val).blk.state == .verifying && !s.tally.busy && s.coreUp 2 then
        let s1 := s.modStall st.val (fun x => { x with outOfTally := true, blk := { x.blk with state := .placing } })
        .next (if (s.stall st.val).plan.isSome then s1.settle st.val else s1)
      else .next s

/-- PLAN_REGIONS (R210 steps 7 to 10, R211, R372). -/
def execPlanRegions (st : StallId) (s : State) : Host.Outcome State Fault Refusal := s.onDev fun s =>
  let k := st.val
  let x := s.stall k
  match x.cand with
  | none => .next s
  | some p =>
    let cores := (match s.stallRec k with
      | some r => (List.range 96).all (fun c => !r.clusters.getLsbD c || s.coreUp (16 + c))
      | none => true)
    if x.blk.state != .placing then .next s
    else
      let old := s.regions k
      let s1 := (old.filter (fun r => !p.regions.any (sameRegion r))).foldl (fun t r => t.releaseRegion k r) s
      if !cores || !s.coreUp 2 then .next s
      else
      match placeRegions (s.newRegions k p.regions) s1.mem with
      | none => .next (s1.modStall k (fun x => { x with plan := some { (x.plan.getD {}) with regions := (x.plan.getD {}).regions.filter (fun r => p.regions.any (sameRegion r)) } }))
      | some (bs, m) =>
        let s2 := (s1.modMem (fun _ => m)).modStall k (fun x => { x with
          blocks := bs.foldl (fun t e => tset {} t e.1 e.2) x.blocks, plan := some p, cand := none })
        let s3 := s2.loadLooms k p
        if !(draftFailures p).isEmpty then
          .next (((draftFailures p).foldl (fun t e => t.faultLoom e.1 4 0 0 0 e.2) (s3.modStall k (fun x => { x with blk := { x.blk with state := .failed } }))).unhold (.stall st))
        else
          let s4 := s3.modStall k (fun x => { x with
            blk := { x.blk with state := .loaded, planId := p.planId, digest := p.digest },
            settled := false, outOfTally := false, faulted := false, withdrawn := false, notified := false, cause := 0, faultLoom := 0,
            quire := { x.quire with state := .idle, resume := true },
            leads := [], passes := [], hopCur := [], stations := x.stations.map (fun e => (e.1, { e.2 with runs := [] })),
            groups := p.rosters.foldl (fun t g => tset none t g.group (some (s.routed k { axis := g.axis, epoch := BitVec.ofNat 32 g.epoch, members := g.members }))) [],
            poolCap := s.poolFrames k p, poolUsed := guestCount x })
          let s5 := s4.modMem (fun m => { m with regs := m.regs.map (fun e => (e.1, { e.2 with withdrawn := e.2.withdrawn.filter (· != k) })) })
          .next ((((s5.unhold (.stall st)).planLog (.stall st) 0 p.digest).planIrq x.blk.issuer).refault k)

/-- Bytes of a released place read zero once it is zeroed (R214). -/
def zeroPlace (m : MemSt) (z : Place × Nat × Nat × Bool) : MemSt :=
  let (p, inter, u, cel) := z
  if cel then
    let a := celKeyOf u (frameSz * p.frame)
    { m with cellar := tdrop (fun i => decide (a ≤ i) && decide (i < a + frameSz)) m.cellar,
             cellarPoison := m.cellarPoison.filter (fun i => decide (64 * i < a) || decide (a + frameSz ≤ 64 * i)) }
  else
    let mine (st a : Nat) : Bool := placeHolds inter u p st a
    { m with store := tdrop (fun i => mine (i / 2 ^ 37) (i % 2 ^ 37)) m.store,
             stks := m.stks.map (fun e => (e.1, { e.2 with poison := e.2.poison.filter (fun ln => !mine e.1 (64 * ln)) })) }

/-- No unit of a stall waits at a Store or Cellar regulator. -/
def Dev.zeroServed (s : Dev) (k : Nat) : Bool :=
  ((List.range 24).map regStore ++ (List.range 4).map regCellar).all (fun i => tget 0 (s.reg i).waiting k == 0)

/-- CAPACITY_ZERO_COMPLETE (R214): once the regulators have served its traffic, the stall's released capacity is zero and
free; a device UNLOAD that waited for it goes on. -/
def execCapacityZeroComplete (st : StallId) (s : State) : Host.Outcome State Fault Refusal := s.onDev fun s =>
  let zs := (s.stall st.val).zeroing
  if zs.isEmpty || !s.zeroServed st.val then .next s
  else
    let s1 := s.modMem (fun m => zs.foldl (fun m z => freePlace (zeroPlace m z) z.1 z.2.1 z.2.2.1 z.2.2.2) m)
    let s1 := zs.foldl (fun t z => if z.2.2.2 then t else
      (List.range 24).foldl (fun t i => t.count (storeKey i) 7 (placeLines z.2.1 z.2.2.1 z.1 i)) t) s1
    let s2 := s1.modStall st.val (fun x => { x with zeroing := [] })
    .next (if s2.hub.dblk.state == .unloading then s2.judgeDevUnload else s2)

end Sys2Proof.Machine
end

