-- ==== Sys2Proof/Machine/TierOps.lean ====
section
/-!
DEFINITION. Tier events: line accesses with their error codes (R313, R320 to R326), line reduces (R164, R316), moving of
granules (R309 to R312), regulators (R317, R366), TIER words and the route card (R328 to R332), latches (R302, R303, R322).
-/
namespace Sys2Proof.Machine

/-! ### Owners of Store lines, poison findings (R322) -/

/-- A block of a region lies over a Store byte, by its home, its fresh home or its guest frame. -/
def blockHolds (r : Region) (b : Nat) (x : Block) (st a : Nat) : Bool :=
  let u := if r.interleave = 3 then r.die else (b + r.num) % 24
  let at_ (p : Option Place) : Bool := match p with
    | some p => !r.cellar && placeHolds r.interleave u p st a
    | none => false
  at_ x.home || at_ x.fresh || (match x.guest with
    | some g => g.1 == st && a / frameSz == g.2
    | none => false)

/-- The stall that owns the frame of a Store byte, 127 for none (STC_UE.STALL). -/
def Dev.ownerOf (s : Dev) (st a : Nat) : Nat :=
  match s.stalls.find? (fun e => (s.regions e.1).any (fun r => e.2.blocks.any (fun q => q.1 / 2 ^ 32 == r.num && blockHolds r (q.1 % 2 ^ 32) q.2 st a))) with
  | some e => e.1
  | none => 127

/-- The event of a new uncorrectable finding (R322), told to the physical function and to the stall that owns the frame. -/
def Dev.findingEvent (s : Dev) (own : Nat) (data : List Nat) : Dev :=
  let s1 := s.logEvent 0x0100 0x0012 (if own = 127 then 255 else own) 2 data
  (if own = 127 then s1 else s1.msix (own + 1) 5).msix 0 5

/-- A new uncorrectable finding (R322): the line is poisoned, latched, counted, logged, and its stall and the physical
function are told (R457 vector 5). `src`: 0 access, 1 scrub, 2 Shelf write-back. In the reserve the error is corrected from
the other copy and counted (R304): the model takes every line of the reserve as held twice (log entry 77). -/
def Dev.poisonFinding (s : Dev) (st ln src : Nat) : Dev :=
  if reserveFrame st (64 * ln / frameSz) then (s.count (storeKey st) 4 1).findingEvent 127 [64 * ln + 2 ^ 37 * 127 + 2 ^ 44 * src, st]
  else
    let own := s.ownerOf st (64 * ln)
    let s1 := (s.modMem (fun m => m.modStack st (fun x =>
      let y := { x with poison := sinsert ln x.poison }
      if y.ueValid then y
      else { y with ueAddr := BitVec.ofNat 37 (64 * ln), ueStall := BitVec.ofNat 7 own, ueSource := BitVec.ofNat 2 src, ueValid := true }))).count (storeKey st) 4 1
    let x := s1.mem.stack st
    s1.findingEvent own [x.ueAddr.toNat + 2 ^ 37 * x.ueStall.toNat + 2 ^ 44 * x.ueSource.toNat + 2 ^ 63, st]

/-- The stall that owns a Cellar line's frame, 127 for none. -/
def Dev.ownerOfCel (s : Dev) (p a : Nat) : Nat :=
  match s.stalls.find? (fun e => (s.regions e.1).any (fun r => r.cellar && e.2.blocks.any (fun q =>
      q.1 / 2 ^ 32 == r.num && celPortOf s.mem r (q.1 % 2 ^ 32) == p && (match q.2.home with
        | some h => h.frame == a / frameSz
        | none => false)))) with
  | some e => e.1
  | none => 127

/-- An expander returns a line as poisoned (R325): counted at its port, logged and told as a finding of Store, without a
latch. -/
def Dev.cellarFinding (s : Dev) (p ln : Nat) : Dev :=
  let own := s.ownerOfCel p (64 * ln)
  ((s.modMem (fun m => { m with cellarPoison := sinsert (celKeyOf p (64 * ln) / 64) m.cellarPoison })).count (celKey p) 4 1).findingEvent own
    [64 * ln + 2 ^ 44 * own, 32 + p]

/-- A controller-code correction in a line: counted, and its frame retires after more than 16 in one pass (R312, R321). -/
def Dev.stcCorrect (s : Dev) (st ln : Nat) : Dev :=
  let f := 64 * ln / frameSz
  (s.modMem (fun m => m.modStack st (fun x =>
    let n := tget 0 x.passCe f + 1
    { x with passCe := tset 0 x.passCe f n, retiring := if 16 < n then sinsert f x.retiring else x.retiring }))).count (storeKey st) 2 1

/-- The word in progress whose access a line command of loom `l` is: that of its PICK, TIER, UPD, ATT or XFER, else the
word at its program counter (R302). -/
def Dev.accessOp (s : Dev) (l : Nat) : Nat :=
  let x := s.loom l
  match x.pick, x.tier, x.upd, x.att, x.xfer with
  | some j, _, _, _, _ => j.smp.op
  | none, some j, _, _, _ => j.smp.op
  | none, none, some j, _, _ => j.smp.op
  | none, none, none, some j, _ => j.smp.op
  | none, none, none, none, some j => j.smp.op
  | none, none, none, none, none => x.pc

/-- What the code finds in the line at a VA as an access comes to read it: at the Store controller if no Shelf holds the line,
or at the expander (R321, R322, R325). The kind of LOM_TIER_FAULT where nothing can be read. -/
def Dev.findLine (s : Dev) (k va : Nat) (e : LineEcc) : Dev × Option Nat :=
  match s.xlate k va with
  | .at_ _ _ _ (.store st a) =>
    let ln := a / 64
    if storePoisoned s.mem st ln || (s.shelfLines (st / 3)).any (fun x => x.line == shelfLineKey st ln && !x.released) then (s, none)
    else match e with
      | .clean => (s, none)
      | .corrected => (s.stcCorrect st ln, none)
      | .escaped d => (s.modMem (fun m => { m with store := tsetRange 0 m.store (storeKeyOf st (64 * ln)) d }), none)
      | .uncorrectable => ((s.stcRead k st ln).2.poisonFinding st ln 0, some 4)
  | .at_ _ _ _ (.cellar p a) =>
    if celPoisoned s.mem p (a / 64) || e != .uncorrectable then (s, none)
    else (((s.regAdd (regCellar p) k).count (celKey p) 0 1).cellarFinding p (a / 64), some 5)
  | _ => (s, none)

/-- An access that the tiers would serve, with what the code finds in its first line. -/
def Dev.meets {α : Type} (s : Dev) (k va : Nat) (e : LineEcc) (f : Dev → TRes α) : TRes α :=
  match f s with
  | .ok a s1 =>
    if e = .clean then .ok a s1
    else match s.findLine k va e with
      | (s2, some kind) => .bad va kind s2
      | (s2, none) => f s2
  | r => r

/-- STORE_LINE_ACCESS (R321, R322): a line access of loom `l` at a VA, under its region's hint (R314): the line is read, or
`data` is written over it whole. It passes through the line's Shelf (R313); `ecc` is what the code finds where it is read
from the tier. -/
def execStoreLineAccess (l : LoomId) (va : BitVec 52) (data : Option (List Byte)) (ecc : LineEcc) (s : State) : Host.Outcome State Fault Refusal := s.onDev fun s =>
  match s.loomStall l.val with
  | none => .next s
  | some k =>
    match data with
    | some d => .next ((s.tierWrite k (some l.val) none false va.toNat d).forLoom s l.val (s.accessOp l.val) (fun _ t => t))
    | none => .next ((s.meets k va.toNat ecc (fun t => t.tierRead k (some l.val) none va.toNat 64)).forLoom s l.val (s.accessOp l.val) (fun _ t => t))

/-- What a Shelf word's code found before an access (R324): a clean line is dropped to be fetched again, a dirty one is
written to Store as poisoned. -/
def Dev.shelfEcc (s : Dev) (st ln : Nat) (e : ShelfEcc) : Dev :=
  let die := st / 3
  let key := shelfLineKey st ln
  match e, (s.shelfLines die).find? (fun x => x.line == key && !x.released) with
  | .corrected, some _ => s.count (shelfKey die) 7 1
  | .uncorrectable, some x =>
    let s1 := s.setShelf die (dropLine (s.shelfLines die) key)
    if x.dirty then (s1.poisonFinding st ln 2) else s1.count (shelfKey die) 8 1
  | _, _ => s

/-- SHELF_ACCESS (R313 to R315, R324): one line access of loom `l` through the Shelf under a hint; `data` a full-line write;
`ecc` what the Shelf's code finds in the line if it holds it. -/
def execShelfAccess (l : LoomId) (va : BitVec 52) (hint : BitVec 2) (data : Option (List Byte)) (ecc : ShelfEcc) (s : State) : Host.Outcome State Fault Refusal := s.onDev fun s =>
  match s.loomStall l.val with
  | none => .next s
  | some k =>
    let s1 := match s.xlate k va.toNat with
      | .at_ _ _ _ (.store st a) => s.shelfEcc st (a / 64) ecc
      | _ => s
    match data with
    | some d => .next ((s1.tierWrite k (some l.val) (some hint.toNat) false va.toNat d).forLoom s l.val (s.accessOp l.val) (fun _ t => t))
    | none => .next ((s1.tierRead k (some l.val) (some hint.toNat) va.toNat 64).forLoom s l.val (s.accessOp l.val) (fun _ t => t))

/-- SCRUB_LINE (R320, R323): the scrub reads its next line; `odecc`: what a die that it has just finished reports. -/
def execScrubLine (st : StackId) (ecc : LineEcc) (odecc : Nat) (s : State) : Host.Outcome State Fault Refusal := s.onDev fun s =>
  let x := s.mem.stack st.val
  if x.state != .inService then .next s
  else
    let ln := x.scrubAt
    let s1 := ((s.regAdd (regStore st.val) 96).count (storeKey st.val) 6 1).count (storeKey st.val) 3 odecc
    let s2 := match ecc with
      | .corrected => s1.stcCorrect st.val ln
      | .uncorrectable => if x.poison.contains ln then s1 else s1.poisonFinding st.val ln 1
      | .escaped d => s1.modMem (fun m => { m with store := tsetRange 0 m.store (storeKeyOf st.val (64 * ln)) d })
      | .clean => s1
    .next (s2.modMem (fun m => m.modStack st.val (fun y =>
      if ln + 1 = 2 ^ 31 then { y with scrubAt := 0, passCe := [] } else { y with scrubAt := ln + 1 })))

/-- STACK_OUT (R326): the stack goes out of service, a module fault. -/
def execStackOut (st : StackId) (s : State) : Host.Outcome State Fault Refusal := s.onDev fun s =>
  if (s.mem.stack st.val).state == .out then .next s
  else .next (((s.modMem (fun m => m.modStack st.val (fun x => { x with state := .out }))).logEvent 0x0100 0x0013 255 3 [st.val]).moduleFault)

/-! ### Line reduce and partial write (R164, R258, R316) -/

/-- One element of a line reduce: combined exactly, rounded once with RNE under the issuing station's overflow mode. -/
def reduceElem (red : RedOp) (f : Fmt) (special : Bool) (old : Nat) (b : XV) : Conv :=
  let a : XV := .ok (f.value false old)
  let r := match red with
    | .sum => xaddExact a b
    | .max => xmax a b
    | .min => xmin a b
  convert f false false special false .rne r.v

/-- The line bytes with contributions combined from byte `off` on, and the number of results beyond range. -/
def reduceLine (red : RedOp) (f : Fmt) (special : Bool) (line : List Byte) (off : Nat) (contrib : List XV) : List Byte × Nat :=
  let cs := contrib.zipIdx.map (fun e => reduceElem red f special (u16 line (off + 2 * e.2)) e.1)
  (splice line off (cs.flatMap (fun c => natLe 2 c.code)), (cs.filter (fun c => c.o.isSome)).length)

/-- Put a line back where it was read: in its Shelf, dirty, if it is there, else at its controller or port. -/
def Dev.putLine (s : Dev) (k : Nat) (l : Loc) (d : List Byte) : Dev :=
  match l with
  | .store st a =>
    let die := st / 3
    let key := shelfLineKey st (a / 64)
    match (s.shelfLines die).find? (fun x => x.line == key && !x.released) with
    | some x => s.setShelf die ({ x with data := d, dirty := true } :: dropLine (s.shelfLines die) key)
    | none => s.stcWrite k st (a / 64) d
  | .cellar p a => (s.celWrite k p (a / 64) 0 d).2

/-- A line reduce by a stall at a VA (R164): within one line. -/
def Dev.lineReduce (s : Dev) (k : Nat) (src : Option Nat) (special : Bool) (va : Nat) (red : RedOp) (f : Fmt) (contrib : List XV) : TRes Unit :=
  match s.xlate k va with
  | .unmapped => .bad va 1 s
  | .staging _ => .bad va 3 s
  | .waits c => .wait c
  | .at_ r b g l =>
    if !r.write then .bad va 2 s
    else if quireBusy (s.stall k).quire.state && (s.quireSrc k).contains r.num then .wait .moving
    else
      match s.locRead k r l r.hint with
      | (none, s1) => .bad va (poisonKind l) s1
      | (some d, s1) =>
        let (d', n) := reduceLine red f special d (va % 64) contrib
        let s2 := ((s1.putLine k l d').markWrite k r b g).lineTraffic k src l true
        .ok () (match l with
          | .store st _ => (s2.count (shelfKey (st / 3)) 5 1).count (shelfKey (st / 3)) 6 n
          | .cellar p _ => s2.count (celKey p) 5 n)

/-- LINE_REDUCE (R164, R322): one reduce from loom `l`'s picker: the contribution, with what the code finds as the line is read. -/
def execLineReduce (l : LoomId) (va : BitVec 52) (red : RedOp) (fp16 : Bool) (contrib : List W16 × LineEcc) (s : State) : Host.Outcome State Fault Refusal := s.onDev fun s =>
  match s.loomStall l.val with
  | none => .next s
  | some k =>
    let special := headSpecial ((s.loom l.val).draft.headD 0)
    let f : Fmt := if fp16 then .fp16 else .bf16
    .next ((s.meets k va.toNat contrib.2 (fun t => t.lineReduce k (some l.val) special va.toNat red f (contrib.1.map (fun c => .ok (f.value false c.toNat))))).forLoom s l.val (s.accessOp l.val)
      (fun _ t => t.count l.val 17 1))

/-- LINE_PARTIAL_WRITE (R258, R313, R322): part of one line is written as one access: the bytes, with what the code finds as
the line is fetched. -/
def execLinePartialWrite (l : LoomId) (va : BitVec 52) (data : List Byte × LineEcc) (s : State) : Host.Outcome State Fault Refusal := s.onDev fun s =>
  match s.loomStall l.val with
  | none => .next s
  | some k =>
    .next ((s.meets k va.toNat (if data.1.length = 64 then .clean else data.2) (fun t => t.tierWrite k (some l.val) none false va.toNat data.1)).forLoom s l.val
      (s.accessOp l.val) (fun _ t => t))

/-! ### Host writes that wait (R451) -/

/-- Carry out one buffered host write, or none if it still waits. -/
def Dev.landHostWrite (s : Dev) (fn : Nat) (w : HostWrite) : Option Dev :=
  match s.meets w.stall w.va (if w.data.length = 64 then .clean else w.ecc) (fun t => t.tierWrite w.stall none none true w.va w.data) with
  | .ok _ s1 => some s1
  | .wait _ => none
  | .bad va kind s1 =>
    if kind = 1 then
      some (s1.modStall w.stall (fun x => if x.hostfValid then x else { x with hostfVa := BitVec.ofNat 52 va, hostfWrite := true, hostfValid := true }))
    else some (s1.modFn fn (fun f => { f with acc := { f.acc with writeLost := true } }))

/-- Land a function's buffered writes in order, as far as they go. -/
def Dev.drainFn (s : Dev) (fn : Nat) : List HostWrite → Dev
  | [] => s.modFn fn (fun f => { f with wbuf := [] })
  | w :: ws =>
    match s.landHostWrite fn w with
    | some s1 => s1.drainFn fn ws
    | none => s.modFn fn (fun f => { f with wbuf := w :: ws })

/-- Land every function's buffered writes as far as they go. -/
def Dev.drainAll (s : Dev) : Dev :=
  s.hub.fns.foldl (fun t e => if e.2.wbuf.isEmpty then t else t.drainFn e.1 e.2.wbuf) s

/-! ### Granules (R309 to R312) -/

/-- The line of a location as the tiers hold it now, Shelf first; none if poisoned. -/
def Dev.peekLine (s : Dev) (l : Loc) : Option (List Byte) :=
  match l with
  | .store st a =>
    match (s.shelfLines (st / 3)).find? (fun x => x.line == shelfLineKey st (a / 64) && !x.released) with
    | some x => some x.data
    | none => if storePoisoned s.mem st (a / 64) then none else some (lineOfStore s.mem st (a / 64))
  | .cellar p a => if celPoisoned s.mem p (a / 64) then none else some (celLine s.mem p (a / 64))

/-- Write a line at a location below the Shelf, poisoned where there is no data; a Shelf copy of the old content goes. -/
def Dev.pokeLine (s : Dev) (k : Nat) (l : Loc) (d : Option (List Byte)) : Dev :=
  match l with
  | .store st a =>
    let s1 := s.setShelf (st / 3) (dropLine (s.shelfLines (st / 3)) (shelfLineKey st (a / 64)))
    match d with
    | some d => s1.stcWrite k st (a / 64) d
    | none => s1.modMem (fun m => m.modStack st (fun x => { x with poison := sinsert (a / 64) x.poison }))
  | .cellar p a =>
    match d with
    | some d => (s.celWrite k p (a / 64) 0 d).2
    | none => s.modMem (fun m => { m with cellarPoison := sinsert (celKeyOf p a / 64) m.cellarPoison })

/-- Copy the 1,024 lines of granule `g` between two locations of its block. -/
def Dev.copyGranule (s : Dev) (k g : Nat) (src dst : Nat → Loc) : Dev :=
  (List.range 1024).foldl (fun t i =>
    let x := 65536 * g + 64 * i
    let t1 := match src x with
      | .store st _ => (t.regAdd (regStore st) k).count (storeKey st) 0 1
      | .cellar p _ => (t.regAdd (regCellar p) k).count (celKey p) 0 1
    t1.pokeLine k (dst x) (t.peekLine (src x))) s

/-- A region of a stall by number. -/
def Dev.regionOf (s : Dev) (k r : Nat) : Option Region := (s.regions k).find? (fun x => x.num == r)

/-- A port of the Cellar is in service. -/
def MemSt.portUp (m : MemSt) (p : Nat) : Bool := tget .absent m.celState p == .inService

/-- A frame for a call-up (R309): on stack (b + r) mod 24, else on the stack with the most free frames. -/
def poolFrame (m : MemSt) (r b : Nat) : Option (Nat × Nat) :=
  let first := (b + r) % 24
  match findUp (frameFree m first) 65536 0 with
  | some f => some (first, f)
  | none =>
    let free (st : Nat) : Nat := 65536 - (m.singles.filter (fun x => x / 65536 == st)).length
    let best := (List.range 24).foldl (fun a st => if free a < free st then st else a) 0
    (findUp (frameFree m best) 65536 0).map (fun f => (best, f))

/-- Begin the call-up of a block (R309, R311): a guest frame is taken and its absent granules are marked, or the call-up
waits for the pool. -/
def Dev.callUp (s : Dev) (k : Nat) (r : Region) (b : Nat) : Dev :=
  let x := s.block k r.num b
  let mark (x : Block) : Block :=
    { x with waitPool := false,
             moving := (List.range 32).foldl (fun t g => if x.present.getLsbD g then t else tset .still t g .callingUp) x.moving }
  match x.guest with
  | some _ => s.modBlock k r.num b mark
  | none =>
    if (s.stall k).poolCap ≤ (s.stall k).poolUsed then s.modBlock k r.num b (fun x => { x with waitPool := true })
    else
      match poolFrame s.mem r.num b with
      | none => s.modBlock k r.num b (fun x => { x with waitPool := true })
      | some (st, f) =>
        ((s.modMem (fun m => { m with singles := sinsert (st * 65536 + f) m.singles })).modStall k (fun y => { y with poolUsed := y.poolUsed + 1 })).modBlock k r.num b
          (fun x => mark { x with guest := some (st, f) })

/-- CALLUP_GRANULE (R309): the lowest granule being called up is copied and becomes present; a call-up that waits for a
pool frame takes one if there is one. -/
def execCallupGranule (st : StallId) (region : BitVec 12) (block : BitVec 32) (s : State) : Host.Outcome State Fault Refusal := s.onDev fun s =>
  let k := st.val
  match s.regionOf k region.toNat with
  | none => .next s
  | some r =>
    let b := block.toNat
    let x := s.block k r.num b
    if x.waitPool then .next (s.callUp k r b)
    else
      match (List.range 32).find? (fun g => tget .still x.moving g == .callingUp), x.home, x.guest with
      | some g, some hp, some (gs, gf) =>
        let p := celPortOf s.mem r b
        if s.mem.portUp p then
          let s1 := (s.copyGranule k g (fun o => homeLoc s.mem r b hp o) (fun o => .store gs (frameSz * gf + o))).count (celKey p) 2 1
          .next ((s1.modBlock k r.num b (fun x => { x with present := setBit x.present g, dirty := clrBit x.dirty g, moving := tset .still x.moving g .still })).drainAll)
        else .next s
      | _, _, _ => .next s

/-- Copy a dirty granule to its home frame and clear its dirty bit (R310). -/
def Dev.writeBack (s : Dev) (k : Nat) (r : Region) (b g : Nat) : Dev :=
  let x := s.block k r.num b
  match x.home, x.guest with
  | some hp, some (gs, gf) =>
    let p := celPortOf s.mem r b
    ((s.copyGranule k g (fun o => .store gs (frameSz * gf + o)) (fun o => homeLoc s.mem r b hp o)).count (celKey p) 3 1).modBlock k r.num b
      (fun x => { x with dirty := clrBit x.dirty g })
  | _, _ => s

/-- GRANULE_WRITEBACK (R310): a granule being written back reaches its home frame. -/
def execGranuleWriteback (st : StallId) (region : BitVec 12) (block : BitVec 32) (g : Fin 32) (s : State) : Host.Outcome State Fault Refusal := s.onDev fun s =>
  let k := st.val
  match s.regionOf k region.toNat with
  | none => .next s
  | some r =>
    let b := block.toNat
    let x := s.block k r.num b
    if tget .still x.moving g.val == .writingBack && s.mem.portUp (celPortOf s.mem r b) then
      .next ((if x.dirty.getLsbD g.val then s.writeBack k r b g.val else s).modBlock k r.num b (fun x => { x with moving := tset .still x.moving g.val .still }))
    else .next s

/-- GRANULE_PUT_DOWN (R310): a granule being put down is written back if dirty and becomes absent, of a read-only region or in
the read-only configuration only absent; with the last one the guest frame goes back to the pool. -/
def execGranulePutDown (st : StallId) (region : BitVec 12) (block : BitVec 32) (g : Fin 32) (s : State) : Host.Outcome State Fault Refusal := s.onDev fun s =>
  let k := st.val
  match s.regionOf k region.toNat with
  | none => .next s
  | some r =>
    let b := block.toNat
    let x := s.block k r.num b
    let dirty := x.dirty.getLsbD g.val && r.write && s.mem.celMode == 2
    if tget .still x.moving g.val == .puttingDown && (!dirty || s.mem.portUp (celPortOf s.mem r b)) then
      let s1 := if dirty then s.writeBack k r b g.val else s
      let s2 := s1.modBlock k r.num b (fun x => { x with present := clrBit x.present g.val, dirty := clrBit x.dirty g.val, moving := tset .still x.moving g.val .still })
      let y := s2.block k r.num b
      match y.guest with
      | some (gs, gf) =>
        if y.present = 0 ∧ !(y.moving.any (fun e => e.2 == .callingUp)) then
          let s3 := s2.modMem (fun m => zeroPlace { m with
            singles := m.singles.filter (· != gs * 65536 + gf),
            shelf := m.shelf.map (fun e => (e.1, e.2.filter (fun z => z.line / 2 ^ 31 != gs || 64 * (z.line % 2 ^ 31) / frameSz != gf))) } (⟨gf, 0⟩, 2, gs, false))
          .next (((s3.modStall k (fun z => { z with poolUsed := z.poolUsed - 1 })).modBlock k r.num b (fun x => { x with guest := none })).drainAll)
        else .next s2.drainAll
      | none => .next s2.drainAll
    else .next s

/-- The frame of a block's home lies on a retiring frame (R312). -/
def onRetiring (m : MemSt) (r : Region) (b : Nat) (p : Place) : Bool :=
  let bad (st : Nat) : Bool := (m.stack st).retiring.contains p.frame
  match r.interleave with
  | 2 => bad ((b + r.num) % 24)
  | 3 => (List.range 3).any (fun i => bad (3 * r.die + i))
  | _ => (List.range 24).any bad

/-- A fresh home for a block on a retiring frame (R312): the same slot position in another band or triple, or another
frame of the same stack. -/
def freshPlace (m : MemSt) (r : Region) (b : Nat) (p : Place) : Option (Place × MemSt) :=
  match r.interleave with
  | 2 => let st := (b + r.num) % 24
         (findUp (frameFree m st) 65536 0).map (fun f => (⟨f, 0⟩, { m with singles := sinsert (st * 65536 + f) m.singles }))
  | 3 =>
    let ss := (List.range 3).map (fun i => 3 * r.die + i)
    match m.triples.find? (fun e => e.1 / 65536 == r.die && e.1 % 65536 != p.frame && !e.2.getLsbD p.slot && soundFrame m ss (e.1 % 65536)) with
    | some e => some (⟨e.1 % 65536, p.slot⟩, { m with triples := tset 0 m.triples e.1 (setBit e.2 p.slot) })
    | none => (findUp (tripleFree m r.die) 65536 0).map (fun f =>
        (⟨f, p.slot⟩, { m with triples := tset 0 m.triples (r.die * 65536 + f) (setBit 0 p.slot) }))
  | i =>
    match m.bands.reverse.find? (fun e => e.2.1 == i && e.1 != p.frame && !e.2.2.getLsbD p.slot && soundFrame m (List.range 24) e.1) with
    | some e => some (⟨e.1, p.slot⟩, { m with bands := tset (9, 0) m.bands e.1 (e.2.1, setBit e.2.2 p.slot) })
    | none => (findDown (bandFree m) 65536).map (fun f => (⟨f, p.slot⟩, { m with bands := tset (9, 0) m.bands f (i, setBit 0 p.slot) }))

/-- FRAME_RELOCATE (R312): the next granule of a MIGRATE block on a retiring frame moves to the block's fresh home; the old
place, released by the last one, awaits zeroing (R214). -/
def execFrameRelocate (st : StallId) (region : BitVec 12) (block : BitVec 32) (s : State) : Host.Outcome State Fault Refusal := s.onDev fun s =>
  let k := st.val
  match s.regionOf k region.toNat with
  | none => .next s
  | some r =>
    let b := block.toNat
    let x := s.block k r.num b
    match x.home with
    | none => .next s
    | some hp =>
      if r.cellar || !r.migrate || !onRetiring s.mem r b hp then .next s
      else
        let got : Option (Place × Dev) := match x.fresh with
          | some p => some (p, s)
          | none => (freshPlace s.mem r b hp).map (fun e => (e.1, s.modMem (fun _ => e.2)))
        match got, (List.range 32).find? (fun g => !x.moved.getLsbD g) with
        | some (fp, s1), some g =>
          let s2 := s1.copyGranule k g (fun o => homeLoc s.mem r b hp o) (fun o => homeLoc s.mem r b fp o)
          let s3 := s2.modBlock k r.num b (fun x => { x with fresh := some fp, moved := setBit x.moved g })
          if (s3.block k r.num b).moved = BitVec.allOnes 32 then
            let u := if r.interleave = 3 then r.die else (b + r.num) % 24
            .next ((((s3.modStall k (fun x => { x with zeroing := x.zeroing ++ [(hp, r.interleave, u, false)] })).zeroUnits k [(hp, r.interleave, u, false)]).modBlock k r.num b
              (fun x => { x with home := some fp, fresh := none, moved := 0 })).drainAll)
          else .next s3.drainAll
        | _, _ => .next s

/-! ### Cellar ports (R325) -/

def execCellarPortFail (p : CelPortId) (s : State) : Host.Outcome State Fault Refusal := s.onDev fun s =>
  if s.mem.portUp p.val then
    .next ((s.modMem (fun m => { m with celState := tset .absent m.celState p.val .failed })).logEvent 0x0100 0x0013 255 3 [256 + p.val])
  else .next s

def execCellarPortRestore (p : CelPortId) (s : State) : Host.Outcome State Fault Refusal := s.onDev fun s =>
  if tget .absent s.mem.celState p.val == .failed && s.coreUp 3 then
    .next (s.modMem (fun m => { m with celState := tset .absent m.celState p.val .inService })).drainAll
  else .next s

/-! ### Regulators (R317, R366) and latches -/

def regKey : RegUnit → Nat
  | .store s => regStore s.val
  | .cellar p => regCellar p.val
  | .shelf k => regShelf k.val
  | .ring k cw => regRing k.val cw
  | .link i => 500 + i.val

/-- The weight of a stall at a regulator (R317, R366, R214): withdrawn, it counts for zeroing traffic alone. -/
def Dev.weightAt (s : Dev) (u : RegUnit) (k : Nat) : Nat :=
  match s.stallRec k with
  | none => 0
  | some r =>
    let out := (s.reg (regKey u)).withdrawn.contains k
    match u with
    | .store _ => if out && (s.stall k).zeroing.isEmpty then 0 else r.wStore
    | .cellar _ => if out && (s.stall k).zeroing.isEmpty then 0 else r.wStore
    | .shelf _ => if out then 0 else r.wShelf
    | .ring _ _ => if out then 0 else r.wRing
    | .link _ => if out then 0 else r.wLink

/-- The stall that the round serves next, and whether a new round begins. -/
def nextStall (r : RegSt) (w : Nat → Nat) : Option (Nat × Bool) :=
  let wants (k : Nat) : Bool := decide (0 < tget 0 r.waiting k)
  match (List.range 96).find? (fun k => wants k && decide (r.pos ≤ k) && decide ((if k = r.pos then r.served else 0) < w k)) with
  | some k => some (k, false)
  | none => ((List.range 96).find? (fun k => wants k && decide (0 < w k))).map (fun k => (k, true))

/-- The usage counter that a regulator's unit charges (R394): base die and x. -/
def usageOf : RegUnit → Option (Nat × Nat)
  | .store s => some (s.val / 3, 0)
  | .shelf k => some (k.val, 1)
  | .ring k _ => some (k.val, 2)
  | .link i => some (i.val / 12, 3)
  | .cellar _ => none

def Dev.addUsage (s : Dev) (die k x n : Nat) : Dev :=
  s.modMem (fun m => { m with usage := tmod 0 m.usage ((die * 96 + k) * 4 + x) (· + BitVec.ofNat 48 n) })

/-- Every regulator and link arbiter of the module. -/
def allRegs : List Nat :=
  (List.range 24).map regStore ++ ((List.range 4).map regCellar ++ ((List.range 8).map regShelf ++
    ((List.range 8).map (fun k => regRing k true) ++ ((List.range 8).map (fun k => regRing k false) ++ (List.range 96).map (500 + ·)))))

/-- WEIGHT_WITHDRAW (R366): a faulted stall with nothing left waiting at a regulator or arbiter leaves W there; WITHDRAWN is
set once every one has done so (R364 step 4). -/
def execWeightWithdraw (st : StallId) (u : RegUnit) (s : State) : Host.Outcome State Fault Refusal := s.onDev fun s =>
  let k := st.val
  let i := regKey u
  if (s.stall k).faulted && decide (tget 0 (s.reg i).waiting k = 0) && !(s.reg i).withdrawn.contains k then
    let s1 := s.modReg i (fun r => { r with withdrawn := sinsert k r.withdrawn })
    .next (if allRegs.all (fun j => (s1.reg j).withdrawn.contains k) then s1.modStall k (fun x => { x with withdrawn := true }) else s1)
  else .next s

/-- HOSTF_CLEAR (R303), by the physical function or the stall's own: VALID is W1C, VA and WRITE are read only. -/
def execHostfClear (fn : FnId) (st : StallId) (s : State) : Host.Outcome State Fault Refusal := s.onDev fun s =>
  s.host (if fn.val = 0 ∨ fn.val = st.val + 1 then s.modStall st.val (fun x => { x with hostfValid := false }) else s)

/-- TIER_FAULT_CLEAR (R302), by the physical function or the loom's stall. -/
def execTierFaultClear (fn : FnId) (l : LoomId) (s : State) : Host.Outcome State Fault Refusal := s.onDev fun s =>
  s.host (if s.fnReaches fn.val l.val then s.modLoom l.val (fun x => { x with tierFault := { x.tierFault with valid := false } }) else s)

/-- STC_UE_CLEAR (R322), by the physical function. -/
def execStcUeClear (fn : FnId) (st : StackId) (s : State) : Host.Outcome State Fault Refusal := s.onDev fun s =>
  s.host (if fn.val = 0 then s.modMem (fun m => m.modStack st.val (fun x => { x with ueValid := false })) else s)

/-! ### TIER words (R328 to R332) -/

/-- Start a TIER word of function `fn` (R328): its refusals fault the loom with CAUSE 5. -/
def Dev.tierIssue (s : Dev) (l fn : Nat) (bad : StallPlan → Nat → Bool) (k : Ctx → Sample → Nat → Dev) : Dev :=
  s.withWord l 0x90 fun c p w =>
    if tierFN w ≠ fn ∨ (s.loom l).tier.isSome then s
    else if (fn ≠ 0 && tierEntry w != 0) || (2 ≤ fn && (tierTZ w != 0 || tierHint w != 0)) || bad c.plan w then s.faultLoom l 5 0 0 0 p.op
    else k c p w

def Dev.startTier (s : Dev) (l : Nat) (p : Sample) : Dev :=
  advance (s.modLoom l (fun x => { x with tier := some { smp := p } })) l

/-- The pass that a loom's TIER FN 0 walks. -/
def Dev.passOf (s : Dev) (l : Nat) : Option (Nat × PassSt) :=
  match s.loomStall l, (s.loom l).tier, (s.loom l).station with
  | some k, some j, some n =>
    ((s.stall k).passes.find? (fun q => q.station == n && q.op == j.smp.op && q.runSeq == j.smp.runSeq && q.ctr == j.smp.ctr)).map (fun q => (k, q))
  | _, _, _ => none

def Dev.setPass (s : Dev) (k : Nat) (q : PassSt) : Dev :=
  s.modStall k (fun x => { x with passes := x.passes.map (fun y =>
    if y.station = q.station ∧ y.op = q.op ∧ y.runSeq = q.runSeq ∧ y.ctr = q.ctr then q else y) })

/-- Deliver the image at a VA as a tile through TZ (R328, R330); `want` the coordinates it must carry, if given. -/
def Dev.deliverImage (s : Dev) (c : Ctx) (p : Sample) (d : Desc) (hint : Option Nat) (va : Nat) (want : Option (Nat × Nat × Nat)) (k : Dev → Dev) : Dev :=
  let early : RdCheck := match want with
    | some w => wrSlot (s.loom c.l) 5 (ringSlot d w)
    | none => .ready
  s.guardSlots c.l p.op 5 early fun s =>
    (s.tierRead c.stall c.src hint va (imageLen d)).forLoom s c.l p.op fun b s1 =>
      let t := imageTile d.format d.handle b
      let coord := (tagRow t.tag, tagCol t.tag, tagPlane t.tag)
      if tagFmt t.tag != d.fmt || tagScale t.tag != d.scale || (match want with
          | some w => coord != w
          | none => false) then s1.tierFault c.l p.op va 6
      else
        match wrSlot (s1.loom c.l) 5 (ringSlot d coord) with
        | .ready => k (s1.putTile c 5 p.runSeq d coord t)
        | .wait => s
        | .bad cause i => s1.faultLoom c.l cause i 5 0 p.op

/-- TIER_FETCH (R328): issue, then the raw copy, or one image after another. -/
def execTierFetch (l : LoomId) (s : State) : Host.Outcome State Fault Refusal := s.onDev fun s =>
  let x := s.loom l.val
  match x.tier, s.ctx l.val with
  | some j, some c =>
    let w := j.smp.w
    if tierFN w ≠ 1 || !x.live then .next s
    else
      match s.regionOf c.stall (tierRegion w), c.st.desc (tierTZ w) with
      | some r, some d =>
        let done (t : Dev) : Dev := t.modLoom l.val (fun x => { x with tier := none })
        if d.kind = 2 then
          let n := min r.len (8192 * d.depth)
          .next ((s.tierRead c.stall c.src (some (tierHint w)) r.va n).forLoom s l.val j.smp.op fun b s1 =>
            done ((s1.modLoom l.val (fun x => benchWrite x (8192 * d.base) b)).count l.val 14 n))
        else if r.len / imageLen d ≤ j.next then .next (done s)
        else .next (s.deliverImage c j.smp d (some (tierHint w)) (r.va + j.next * imageLen d) none fun t =>
          t.modLoom l.val (fun x => { x with tier := some { j with next := j.next + 1 } }))
      | _, _ => .next s
  | _, _ => .next (s.tierIssue l.val 1 (fun _ _ => false) fun _ p _ => s.startTier l.val p)

/-- Write a stall's dirty Shelf lines of a region back; they stay, clean (R328). -/
def Dev.shelfClean (s : Dev) (k r : Nat) (inRange : ShelfLine → Bool) : Dev :=
  (List.range 8).foldl (fun t die =>
    let mine (x : ShelfLine) : Bool := x.stall == k && x.region == r && x.dirty && !x.released && inRange x
    let t1 := (t.shelfLines die).foldl (fun u x => if mine x then u.shelfWriteBack die k x else u) t
    t1.setShelf die ((t1.shelfLines die).map (fun x => if mine x then { x with dirty := false } else x))) s

/-- Write the dirty Shelf lines of a VA range back; they stay, clean (R330). -/
def Dev.cleanRange (s : Dev) (k va len : Nat) : Dev :=
  (List.range (len / 64)).foldl (fun t i =>
    match t.xlate k (va + 64 * i) with
    | .at_ r _ _ (.store st a) => t.shelfClean k r.num (fun x => x.line == shelfLineKey st (a / 64))
    | _ => t) s

/-- Mark granules of a region's called-up blocks for moving. -/
def Dev.markGranules (s : Dev) (k : Nat) (r : Region) (m : Moving) (sel : Block → Nat → Nat → Bool) : Dev :=
  (List.range (r.len / frameSz)).foldl (fun t b =>
    let x := t.block k r.num b
    if x.guest.isSome && (List.range 32).any (fun g => sel x b g) then
      t.modBlock k r.num b (fun x => { x with moving := (List.range 32).foldl (fun mv g => if sel x b g then tset .still mv g m else mv) x.moving })
    else t) s

/-- No granule of a region is in a transition of the given kind. -/
def Dev.noneMoving (s : Dev) (k : Nat) (r : Region) (m : Moving) : Bool :=
  (List.range (r.len / frameSz)).all (fun b => (s.block k r.num b).moving.all (fun e => e.2 != m))

/-- No block of a region has a guest frame. -/
def Dev.noGuests (s : Dev) (k : Nat) (r : Region) : Bool :=
  (List.range (r.len / frameSz)).all (fun b => (s.block k r.num b).guest.isNone)

/-- TIER_WRITE_BACK (R328): issue; then the dirty Shelf lines and the marking of dirty granules; then the end, once every
one is written back. -/
def execTierWriteBack (l : LoomId) (s : State) : Host.Outcome State Fault Refusal := s.onDev fun s =>
  let x := s.loom l.val
  match x.tier, s.ctx l.val with
  | some j, some c =>
    let w := j.smp.w
    if tierFN w ≠ 2 || !x.live then .next s
    else
      match s.regionOf c.stall (tierRegion w) with
      | some r =>
        if j.next = 0 then
          let s1 := s.shelfClean c.stall r.num (fun _ => true)
          let s2 := if r.cellar then s1.markGranules c.stall r .writingBack (fun x _ g => x.dirty.getLsbD g && tget .still x.moving g == .still) else s1
          .next (s2.modLoom l.val (fun x => { x with tier := some { j with next := 1 } }))
        else if s.noneMoving c.stall r .writingBack then .next (s.modLoom l.val (fun x => { x with tier := none }))
        else .next s
      | none => .next s
  | _, _ => .next (s.tierIssue l.val 2 (fun _ _ => false) fun _ p _ => s.startTier l.val p)

/-- TIER_MIGRATE (R328): issue; then every called-up block of the Cellar region is put down: granules that stand still are
marked again at each step, until no block of the region has a guest frame. -/
def execTierMigrate (l : LoomId) (s : State) : Host.Outcome State Fault Refusal := s.onDev fun s =>
  let x := s.loom l.val
  match x.tier, s.ctx l.val with
  | some j, some c =>
    let w := j.smp.w
    if tierFN w ≠ 3 || !x.live then .next s
    else
      match s.regionOf c.stall (tierRegion w) with
      | some r =>
        if s.noGuests c.stall r then .next (s.modLoom l.val (fun x => { x with tier := none }))
        else .next (s.markGranules c.stall r .puttingDown (fun x _ g => x.present.getLsbD g && tget .still x.moving g == .still))
      | none => .next s
  | _, _ => .next (s.tierIssue l.val 3 (fun p w => match p.region (tierRegion w) with
      | some r => !r.cellar
      | none => true) fun _ p _ => s.startTier l.val p)

/-- The lead of an entry (R332). -/
def leadOf (x : StallSt) (e : Nat) (r : RouteEntry) : Nat := let n := tget 0 x.leads e; if n = 0 then r.lead else n

/-- Positions of a pass, at most one for each entry (R329). -/
def passLen (p : StallPlan) (e0 : Nat) : Nat := ((List.range p.route.length).takeWhile (fun i => (routeAt p e0 i).isSome)).length

/-- Blocks that an entry's range touches. -/
def entryBlocks (e : RouteEntry) : List Nat :=
  (List.range ((e.offset + e.len - 1) / frameSz + 1)).filter (fun b => decide (e.offset / frameSz ≤ b))

/-- Whether a granule of a block lies in an entry's range. -/
def entryHas (e : RouteEntry) (b g : Nat) : Bool :=
  decide (b * frameSz + g * 65536 < e.offset + e.len) && decide (e.offset < b * frameSz + (g + 1) * 65536)

/-- ROUTE_ENTRY_START (R331): the walker starts the lowest position not yet started within its entry's lead of the frontier. -/
def execRouteEntryStart (l : LoomId) (s : State) : Host.Outcome State Fault Refusal := s.onDev fun s =>
  match s.passOf l.val with
  | none => .next s
  | some (k, q) =>
    match (s.stall k).plan with
    | none => .next s
    | some p =>
      let e0 := passEntry p q
      let can (i : Nat) : Bool := !q.entries.any (fun x => x.pos == i) &&
        (match routeAt p e0 i with
         | some e => (match p.route[e]? with
           | some r => decide (i < q.frontier + leadOf (s.stall k) e r)
           | none => false)
         | none => false)
      if !(s.loom l.val).live then .next s
      else
      match (List.range (passLen p e0)).find? can with
      | none => .next s
      | some i =>
        match routeAt p e0 i with
        | none => .next s
        | some e =>
          let s1 := s.setPass k { q with entries := q.entries ++ [{ pos := i, entry := e, late := decide (i < q.frontier) }] }
          match p.route[e]? with
          | none => .next s1
          | some re =>
            match s.regionOf k re.region with
            | none => .next s1
            | some r =>
              if re.action = 2 ∧ r.cellar ∧ r.migrate then
                let s2 := (entryBlocks re).foldl (fun t b => t.callUp k r b) s1
                .next (if (entryBlocks re).any (fun b => (s2.block k r.num b).waitPool) then s2.count l.val 51 1 else s2)
              else if re.action = 3 then
                let s2 := s1.cleanRange k (r.va + re.offset) re.len
                .next (if r.cellar then s2.markGranules k r .writingBack (fun x b g => entryHas re b g && x.dirty.getLsbD g && tget .still x.moving g == .still) else s2)
              else .next s1

/-- The share of an entry that a member takes is complete (R329, R330). -/
def Dev.shareDone (s : Dev) (k : Nat) (p : StallPlan) (d : Option Desc) (m mm : Nat) (re : RouteEntry) (n : Nat) : Bool :=
  match re.action with
  | 0 => decide ((re.offset + re.len - 1) / 65536 - re.offset / 65536 + 1 ≤ n * mm + m)
  | 1 => (match d with
    | some d => decide (re.len / imageLen d ≤ n * mm + m)
    | none => true)
  | 2 => (match p.region re.region with
    | some r => (entryBlocks re).all (fun b => let x := s.block k r.num b; !x.waitPool && x.moving.all (fun e => e.2 != .callingUp))
    | none => true)
  | _ => (match p.region re.region with
    | some r => s.noneMoving k r .writingBack
    | none => true)

/-- Tiles that a run wrote through a ring's output channel are acknowledged (R193, R329). -/
def LoomSt.sentOut (x : LoomSt) (d : Option Desc) (run : Nat) : Bool := match d with
  | some d => d.kind != 1 || (tget [] x.outq d.ch).all (fun i => i.run != run)
  | none => true

/-- TIER_FOLLOW (R329, R330): issue the word, which joins its station's pass; then one unit of this member's share of the
oldest started entry that is not complete: a granule of lines read into Shelf, or an image delivered as a tile. A share of
images is done once those that went through an output channel ring are acknowledged. -/
def execTierFollow (l : LoomId) (s : State) : Host.Outcome State Fault Refusal := s.onDev fun s =>
  let x := s.loom l.val
  match x.tier, s.ctx l.val with
  | some j, some c =>
    if tierFN j.smp.w ≠ 0 || !x.live then .next s
    else
      match s.passOf l.val with
      | none => .next s
      | some (k, q) =>
        match q.entries.find? (fun e => !e.done.contains l.val) with
        | none => .next s
        | some e =>
          match c.plan.route[e.entry]? with
          | none => .next s
          | some re =>
            let n := tget 0 j.prog e.pos
            let d := c.st.desc (tierTZ j.smp.w)
            let bump (t : Dev) : Dev := t.modLoom l.val (fun x => { x with tier := some { j with prog := tset 0 j.prog e.pos (n + 1) } })
            if s.shareDone k c.plan d x.member c.st.m re n then
              .next (if re.action = 1 && !x.sentOut d j.smp.runSeq then s else s.setPass k { q with entries := q.entries.map (fun y => if y.pos = e.pos then { y with done := sinsert l.val y.done } else y) })
            else
              match s.regionOf k re.region with
              | none => .next s
              | some r =>
                let i := n * c.st.m + x.member
                if re.action = 0 then
                  let g := re.offset / 65536 + i
                  let lo := max re.offset (g * 65536)
                  let hi := min (re.offset + re.len) ((g + 1) * 65536)
                  .next ((s.tierRead k c.src (some re.hint) (r.va + lo) (hi - lo)).forLoom s l.val j.smp.op fun _ t => bump t)
                else if re.action = 1 then
                  match d with
                  | some d => .next (s.deliverImage c j.smp d (some re.hint) (r.va + re.offset + i * imageLen d)
                      (some ((re.rowBase + i / max re.sr 1) % 2 ^ 24, (re.colBase + i % max re.sr 1) % 2 ^ 16, re.planeBase)) bump)
                  | none => .next s
                else .next s
  | _, _ => .next (s.tierIssue l.val 0 (fun _ _ => false) fun c p _ =>
      let s1 := s.startTier l.val p
      if (s1.passOf l.val).isSome then s1
      else s1.modStall c.stall (fun y => { y with passes := y.passes ++ [{ station := c.st.num, op := p.op, runSeq := p.runSeq, ctr := p.ctr }] }))

/-- ROUTE_ENTRY_COMPLETE (R329, R332): an entry whose every share is done is complete; its lead is adjusted; with the last
one the pass ends on every member. -/
def execRouteEntryComplete (l : LoomId) (s : State) : Host.Outcome State Fault Refusal := s.onDev fun s =>
  match s.passOf l.val with
  | none => .next s
  | some (k, q) =>
    match (s.stall k).plan with
    | none => .next s
    | some p =>
      let ms := match p.station q.station with
        | some t => t.looms
        | none => []
      match q.entries.find? (fun e => !e.complete && ms.all (fun m => e.done.contains m)) with
      | none => .next s
      | some e =>
        let lead := match p.route[e.entry]? with
          | some r => r.lead
          | none => 1
        let cur := match p.route[e.entry]? with
          | some r => leadOf (s.stall k) e.entry r
          | none => 1
        let early := decide (q.frontier < e.pos)
        let new := if e.late then lead else if early then max 1 (cur - 1) else cur
        let q' := { q with entries := q.entries.map (fun y => if y.pos = e.pos then { y with complete := true } else y) }
        let s1 := (s.setPass k q').modStall k (fun x => { x with leads := tset 0 x.leads e.entry new })
        let s2 := if e.late then s1.count l.val 53 1 else if early then s1.count l.val 54 1 else s1
        if decide (passLen p (passEntry p q) ≤ (q'.entries.filter (fun y => y.complete)).length) then
          .next (ms.foldl (fun t m => t.modLoom m (fun x => { x with tier := none }))
            (s2.modStall k (fun x => { x with passes := x.passes.filter (fun y => !(y.station == q.station && y.op == q.op && y.runSeq == q.runSeq && y.ctr == q.ctr)) })))
        else .next s2

end Sys2Proof.Machine
end

