-- ==== Sys2Proof/Machine/Pick.lean ====
section
/-!
DEFINITION. The picker (R150 to R171): stream and table records, gather, segment reduce, scatter-add, de-duplication.
-/
namespace Sys2Proof.Machine

/-! ### Records (R151, R152, R170) -/

/-- A stream record. -/
structure StreamRec where
  va : Nat
  count : Nat
deriving DecidableEq, Repr

/-- The first line of a raw region. -/
def recLine (x : LoomSt) (d : Desc) : List Byte := benchBytes x (8192 * d.base) 64

/-- A stream record; none where R170 refuses it. -/
def streamRec (b : List Byte) : Option StreamRec :=
  let va := u64 b 0
  let n := u64 b 8
  if va < 2 ^ 52 ∧ va % 4 = 0 ∧ 1 ≤ n ∧ n ≤ 2 ^ 40 ∧ u16 b 16 = 1 ∧ allZero b 18 46 then some ⟨va, n⟩ else none

/-- A table record (R152). -/
structure TableRec where
  va : Nat
  rows : Nat
  colt : Nat
  pitch : Nat
  f : Fmt
  scale : Nat
deriving DecidableEq, Repr

def TableRec.h (t : TableRec) : Handle := Handle.ofNat t.scale
def TableRec.cols (t : TableRec) : Nat := 64 * t.colt
def TableRec.elemBytes (t : TableRec) : Nat := t.cols * t.f.width / 8
def TableRec.scales (t : TableRec) : Nat := if t.h.bfmt = 0 then 0 else t.cols / t.h.b
/-- Bytes of a row. -/
def TableRec.size (t : TableRec) : Nat := t.elemBytes + t.scales
def TableRec.rowVa (t : TableRec) (i : Nat) : Nat := t.va + i * t.pitch
/-- BF16 or FP16 with BFMT 00 and TPRES 0 (R161, R163). -/
def TableRec.plain (t : TableRec) : Bool := (t.f == .bf16 || t.f == .fp16) && t.h.bfmt == 0 && !t.h.tpres

/-- A table record; none where R170 refuses it. -/
def tableRec (b : List Byte) : Option TableRec :=
  match Fmt.ofCode (u8 b 24) with
  | none => none
  | some f =>
    let t : TableRec := { va := u64 b 0, rows := u64 b 8, colt := u16 b 18, pitch := u32 b 20, f := f, scale := u16 b 25 + 65536 * u8 b 27 }
    if t.va < 2 ^ 52 ∧ t.va % 64 = 0 ∧ 1 ≤ t.rows ∧ t.rows ≤ 2 ^ 32 - 1 ∧ u16 b 16 = 2 ∧ 1 ≤ t.colt ∧ t.colt ≤ 256 ∧
       t.pitch % 64 = 0 ∧ t.size ≤ t.pitch ∧ t.h.geom = 0 ∧ handleOk f t.h = true ∧ allZero b 28 36 = true
    then some t else none

/-- b_m of R154. -/
def pickBound (count m mm : Nat) : Nat :=
  let t := (count + 63) / 64
  if mm ≤ m then count else 64 * (m * t / mm)

/-- Lines of an array of words at `va` that words `p` to `p + n - 1` touch first, words from `first` on having been
read in order. -/
def newLines (va first p n : Nat) : Nat :=
  if n = 0 then 0 else
  let hi := (va + 4 * (p + n - 1)) / 64
  if p = first then hi + 1 - (va + 4 * p) / 64 else hi - (va + 4 * (p - 1)) / 64

/-- An index word as the picker takes it: the row, or none for null and out of range, counted and latched (R150, R153). -/
def Dev.indexWord (s : Dev) (l rows pos w : Nat) : Option Nat × Dev :=
  if w = 0xFFFFFFFF then (none, s.count l 19 1)
  else if rows ≤ w then
    (none, (s.modLoom l (fun x => if x.pickOob then x else
      { x with pickOob := true, pickOobPos := BitVec.ofNat 40 pos, pickOobVal := BitVec.ofNat 32 w })).count l 20 1)
  else (some w, s)

def Dev.pickFault (s : Dev) (l op : Nat) : Dev := s.faultLoom l 5 0 4 0 op

def Dev.setPick (s : Dev) (l : Nat) (j : PickJob) : Dev := s.modLoom l (fun x => { x with pick := some j })

def redOf (n : Nat) : RedOp := if n = 1 then .max else if n = 2 then .min else .sum

/-- The records that the fields of a PICK name, as they stand at issue (R154, R170). -/
def pickRecs (x : LoomSt) (c : Ctx) (w : Nat) : List (List Byte) :=
  [pickTIDX w, pickTSEG w, pickTSRC w, pickTDST w].map (fun t => match c.st.desc t with
    | some d => recLine x d
    | none => [])

def PickJob.idx (j : PickJob) : Option StreamRec := streamRec (j.recs.getD 0 [])
def PickJob.offs (j : PickJob) : Option StreamRec := streamRec (j.recs.getD 1 [])
def PickJob.src (j : PickJob) : Option TableRec := tableRec (j.recs.getD 2 [])
def PickJob.dst (j : PickJob) : Option TableRec := tableRec (j.recs.getD 3 [])

/-- The picker takes a PICK (R135, R171). -/
def Dev.startPick (s : Dev) (l : Nat) (j : PickJob) : Dev :=
  s.modLoom l (fun x => { x with pick := some j, pickNext := none, pickFn := BitVec.ofNat 4 (pickFN j.smp.w), pickRange := BitVec.ofNat 40 j.b })

/-- A PICK that is issued: the picker takes it, or it waits while the picker is at work on the one before (R135). -/
def Dev.putPick (s : Dev) (l : Nat) (j : PickJob) : Dev :=
  advance (if (s.loom l).pick.isSome then s.modLoom l (fun x => { x with pickNext := some j }) else s.startPick l j) l

/-- The job of a PICK's word at issue: its records and the member's share of its stream (R154). -/
def pickJob (x : LoomSt) (c : Ctx) (p : Sample) : PickJob :=
  let j : PickJob := { smp := p, recs := pickRecs x c p.w }
  let n := match j.idx with
    | some r => r.count
    | none => 0
  let b := pickBound n x.member c.st.m
  { j with b := b, e := pickBound n (x.member + 1) c.st.m, rows := ((n + 63) / 64 + c.st.m - 1) / c.st.m, pos := b }

/-- Issue a PICK of function `fn` whose records `ok` accepts, or CAUSE 5 (R154, R170). -/
def Dev.issuePick (l fn : Nat) (ok : Ctx → PickJob → Bool) (s : Dev) : Dev :=
  s.withWord l 0x60 fun c p w =>
    let j := pickJob (s.loom l) c p
    if pickFN w ≠ fn ∨ (s.loom l).pickNext.isSome then s
    else if j.idx.isNone || !ok c j then s.pickFault l p.op
    else s.putPick l j

/-- What a PICK in progress works with. -/
structure PickEnv where
  c : Ctx
  j : PickJob
  w : Nat
  idx : StreamRec
  di : Desc
  dsrc : Desc
  ddst : Desc

def pickEnv (c : Ctx) (j : PickJob) : Option PickEnv :=
  let w := j.smp.w
  match c.st.desc (pickTIDX w), c.st.desc (pickTDST w), j.idx with
  | some di, some dd, some r => some { c := c, j := j, w := w, idx := r, di := di, dsrc := (c.st.desc (pickTSRC w)).getD dd, ddst := dd }
  | _, _, _ => none

/-- A live loom's PICK of function `fn` in progress goes on; a free picker takes the one that waits for it; else the word at the
pc is issued (R135). -/
def Dev.onPick (s : Dev) (l fn : Nat) (issue : Dev → Dev) (k : Dev → Ctx → PickJob → Dev) : Dev :=
  match s.ctx l, (s.loom l).pick, (s.loom l).pickNext with
  | some c, some j, _ =>
    let s1 := issue s
    if pickFN j.smp.w ≠ fn || !(s1.loom l).live then s1 else k s1 c j
  | some _, none, some j => if pickFN j.smp.w = fn ∧ (s.loom l).live = true then s.startPick l j else s
  | _, _, _ => issue s

def Dev.withPick (s : Dev) (l fn : Nat) (issue : Dev → Dev) (k : Dev → PickEnv → Dev) : Dev :=
  s.onPick l fn issue fun s1 c j => match pickEnv c j with
    | some e => k s1 e
    | none => s1

/-- Words `p` to `p + n − 1` of the array that a stream record names. They go through the picker's ring in the rest of the raw
region: a word is fetched into the ring when the picker comes to it, and read from there (R151); word p lies in word p modulo the
ring's length, which the spec leaves open (DESIGN CHOICE, log entry 25). -/
def Dev.ringWords (s : Dev) (l : Nat) (c : Ctx) (d : Desc) (va first p n : Nat) : TRes (List Byte) :=
  if n = 0 then .ok [] s else
  match s.tierRead c.stall c.src none (va + 4 * p) (4 * n) with
  | .ok b s1 =>
    let r := 16 * (128 * d.depth - 1)
    .ok b ((((s1.modLoom l (fun y => (List.range n).foldl (fun y i => benchWrite y (8192 * d.base + 64 + 4 * ((p + i) % r)) (slice b (4 * i) 4)) y)).count
      l 14 (4 * n)).count l 13 (4 * n)).count l 16 (newLines va first p n))
  | .bad v k s1 => .bad v k s1
  | .wait w => .wait w

def Dev.endPick (s : Dev) (l : Nat) : Dev := s.modLoom l (fun x => { x with pick := none })

/-! ### Gather (R155 to R157) -/

/-- Move line requests out while fewer than 256 are outstanding; one FULL episode while some must wait (R157, R171). -/
def Dev.pump (s : Dev) (l : Nat) (j : PickJob) : Dev :=
  let n := 256 - j.pend.length
  let j1 := { j with pend := j.pend ++ j.todo.take n, todo := j.todo.drop n }
  let full := !j1.todo.isEmpty && j1.pend.length == 256
  let s1 := s.setPick l { j1 with full := full }
  if full && !j.full then s1.count l 23 1 else s1

/-- Elements per quarter are 16; scales of the blocks that begin in quarter `q` of column tile `j`. -/
def quarterScales (t : TableRec) (j q : Nat) : List Nat :=
  if t.h.bfmt = 0 then [] else
  (List.range 2).filterMap (fun i => let k := 64 * j + 16 * q + 8 * i; if k % t.h.b = 0 then some (k / t.h.b) else none)

/-- Lines of a row that quarter `q` of column tile `j` needs. -/
def quarterLines (t : TableRec) (j q : Nat) : List Nat :=
  let a := (64 * j + 16 * q) * t.f.width / 8
  [a / 64, (a + 2 * t.f.width - 1) / 64] ++ (quarterScales t j q).map (fun n => (t.elemBytes + n) / 64)

/-- Put one quarter of one row into its slot; with the 64th row the quarter-full bit is set (R157). `g`: bytes of the row. -/
def Dev.placeQuarter (s : Dev) (l : Nat) (e : PickEnv) (t : TableRec) (tr x j q : Nat) (g : Nat → Byte) (done : Nat) : Dev :=
  let slot := ringSlot e.ddst (e.c.at_ s e.ddst e.j.smp tr j 0)
  let rb := runBytes t.f.width
  let a := (64 * j + 16 * q) * t.f.width / 8
  let elems := (List.range rb).map (fun i => g (a + i))
  s.modLoom l (fun y =>
    let y1 := benchWrite y (8192 * slot + 2048 * q + x * rb) elems
    let y2 := (quarterScales t j q).foldl (fun y n =>
      benchWrite y (8192 * slot + scaleOff t.h t.f.width x (n * t.h.b % 64)) [g (t.elemBytes + n)]) y1
    if done = 64 then let v := y2.slot slot; y2.setSlot slot (Slot.settle { v with quarters := setBit v.quarters q }) else y2)

/-- The key of a quarter region: tile row, column tile, quarter. -/
def quarterKey (tr j q : Nat) : Nat := (tr * 256 + j) * 4 + q

/-- Column tile `c` of tile row `tr` has been claimed. -/
def PickJob.claimed (j : PickJob) (tr c : Nat) : Bool := decide (tr + 1 < j.next) || (tr + 1 == j.next && decide (c < j.cols))

/-- Place the given quarters of a row (pairs of column tile and quarter) at a place, those of claimed tiles, counting rows by
region. -/
def Dev.placeRow (s : Dev) (l : Nat) (e : PickEnv) (t : TableRec) (u : Nat × Nat) (qs : List (Nat × Nat)) (g : Nat → Byte) : Dev :=
  qs.foldl (fun s p =>
    match (s.loom l).pick with
    | none => s
    | some j =>
      if !j.claimed u.1 p.1 then s else
      let key := quarterKey u.1 p.1 p.2
      let n := tget 0 j.placed key + 1
      let s1 := s.placeQuarter l e t u.1 u.2 p.1 p.2 g n
      let slot := ringSlot e.ddst (e.c.at_ s e.ddst j.smp u.1 p.1 0)
      let full := ((s1.loom l).slot slot).state != .filling
      let s2 := s1.setPick l { j with placed := tset 0 j.placed key (if n = 64 then 0 else n), claims := if n = 64 && full then j.claims.erase slot else j.claims }
      if n = 64 then s2.count l 14 (tileBytes t.f t.h / 4) else s2) s

def allQuarters (t : TableRec) : List (Nat × Nat) := (List.range t.colt).flatMap (fun j => (List.range 4).map (fun q => (j, q)))

/-- A null row: zero elements, scales of 1.0 (R155). -/
def nullByte (t : TableRec) (o : Nat) : Byte := if o < t.elemBytes then 0 else if t.h.bfmt = 1 then 0x7F else 0x38

def fetchByte (f : PickFetch) (o : Nat) : Byte := (tget [] f.got (o / 64)).getD (o % 64) 0

def PickFetch.has (f : PickFetch) (t : TableRec) (p : Nat × Nat) : Bool :=
  (quarterLines t p.1 p.2).all (fun n => f.got.any (fun e => e.1 == n))

def PickFetch.complete (f : PickFetch) : Bool := f.got.length == f.lines

/-- Position `pos` of a gather at place `u` with its index word (R155, R156). -/
def Dev.gatherPos (s : Dev) (l : Nat) (e : PickEnv) (t : TableRec) (u : Nat × Nat) (pos w : Nat) : Dev :=
  let r := s.indexWord l t.rows pos w
  match (r.2.loom l).pick, r.1 with
  | some j, none => r.2.setPick l { j with nulls := j.nulls ++ [u.2] }
  | some j, some i =>
    let old := if pickDedup e.w then j.win.find? (fun n => (tget {} j.fetches n).idx == i) else none
    (match old with
    | some n =>
      let f := tget {} j.fetches n
      (r.2.setPick l { j with fetches := tset {} j.fetches n { f with users := f.users ++ [u] } }).count l 18 1
    | none =>
      let n := j.nfetch
      let lines := (t.size + 63) / 64
      r.2.setPick l { j with
        nfetch := n + 1, win := if pickDedup e.w then j.win ++ [n] else j.win,
        fetches := tset {} j.fetches n { idx := i, va := t.rowVa i, lines := lines, users := [u] },
        todo := j.todo ++ (List.range lines).map (fun k => (n, k)) })
  | none, _ => r.2

/-- A gather with nothing left to do ends. -/
def Dev.gatherEnd (s : Dev) (l : Nat) (t : TableRec) : Dev :=
  match (s.loom l).pick with
  | some j => if j.rows ≤ j.next && (j.rows == 0 || decide (t.colt ≤ j.cols)) && j.todo.isEmpty && j.pend.isEmpty then s.endPick l else s
  | none => s

/-- The slot of a column tile of a gather, and whether the picker may claim it: not one that it is still filling (R108, R133). -/
def Dev.gatherSlot (s : Dev) (e : PickEnv) (tr c : Nat) : Nat := ringSlot e.ddst (e.c.at_ s e.ddst e.j.smp tr c 0)
def gatherClaim (x : LoomSt) (j : PickJob) (i : Nat) : RdCheck := if j.claims.contains i then .wait else wrSlot x 4 i

/-- Begin the next tile row of a gather, its first slot being EMPTY (R154, R155): its index words are read. -/
def Dev.gatherRow (s : Dev) (l : Nat) (e : PickEnv) (t : TableRec) : Dev :=
  let tr := e.j.next
  s.guardSlots l e.j.smp.op 4 (gatherClaim (s.loom l) e.j (s.gatherSlot e tr 0)) fun s =>
    let p0 := e.j.b + 64 * tr
    let n := min 64 (e.j.e - p0)
    (s.ringWords l e.c e.di e.idx.va e.j.b p0 n).forLoom s l e.j.smp.op fun bs s1 =>
      let j1 := { e.j with next := tr + 1, cols := 0, nulls := (List.range (64 - n)).map (· + n) }
      let s2 := s1.setPick l (if tr % 4 = 0 then { j1 with win := [], fetches := j1.fetches.filter (fun f => !f.2.complete) } else j1)
      (List.range n).foldl (fun s x => s.gatherPos l e t (tr, x) (p0 + x) (u32 bs (4 * x))) s2

/-- Claim the next column tile of the tile row in hand, and place what has arrived of it; none where there is none, or where it
must wait. -/
def Dev.gatherTile (s : Dev) (l : Nat) (e : PickEnv) (t : TableRec) : Option Dev :=
  match (s.loom l).pick with
  | none => none
  | some j =>
    let tr := j.next - 1
    let c := j.cols
    let x := s.loom l
    let slot := s.gatherSlot e tr c
    if j.next = 0 ∨ t.colt ≤ c then none
    else
      match gatherClaim x j slot with
      | .wait => none
      | .bad cause i => some (s.faultLoom l cause i 4 0 j.smp.op)
      | .ready =>
        let co := e.c.at_ s e.ddst j.smp tr c 0
        let last := e.ddst.lastF && lastFor x j.smp (pickTDST e.w) && tr + 1 == j.rows && c + 1 == t.colt
        let tag := mkTag { row := co.1, col := co.2.1, plane := co.2.2, extR := 63, extC := 63, fmt := e.ddst.fmt, scale := e.ddst.scale,
                           stall := e.c.stall, last := last, epoch := epochOf e.ddst j.smp 0 }
        let fs := if c + 1 = t.colt then j.fetches.filter (fun f => !f.2.complete || j.win.contains f.1) else j.fetches
        let s1 := (s.modLoom l (fun y => y.setSlot slot
          { state := .filling, tagWritten := true, setReaders := BitVec.ofNat 8 e.ddst.readers, tag := tag, claimant := 4 })).setPick l
          { j with cols := c + 1, claims := j.claims ++ [slot], fetches := fs }
        let mine := (List.range 4).map (fun q => (c, q))
        let s2 := j.nulls.foldl (fun s r => s.placeRow l e t (tr, r) mine (nullByte t)) s1
        some (j.fetches.foldl (fun s f => (f.2.users.filter (fun u => u.1 == tr)).foldl (fun s u =>
          s.placeRow l e t u (mine.filter (f.2.has t)) (fetchByte f.2)) s) s2)

/-- Claim column tiles of the tile row in hand as far as their slots are EMPTY. -/
def Dev.gatherTiles (l : Nat) (e : PickEnv) (t : TableRec) : Nat → Dev → Dev
  | 0, s => s
  | n + 1, s => match s.gatherTile l e t with
    | some s1 => Dev.gatherTiles l e t n s1
    | none => s

/-- PICK FN 0 (R155): issue; then the next tile row, its tiles as their slots are EMPTY, and line requests as far as 256 may be
outstanding. -/
def execPickGather (l : LoomId) (s : State) : Host.Outcome State Fault Refusal := s.onDev fun s =>
  .next (s.withPick l.val 0
    (Dev.issuePick l.val 0 fun c j => match j.src, c.st.desc (pickTDST j.smp.w) with
      | some t, some dd => dd.fmt == t.f.code && dd.scale == t.scale
      | _, _ => false)
    fun s e =>
      match e.j.src with
      | none => s
      | some t =>
        let s1 := if e.j.next < e.j.rows && (e.j.next == 0 || decide (t.colt ≤ e.j.cols)) then s.gatherRow l.val e t else s
        let s2 := Dev.gatherTiles l.val e t t.colt s1
        (match (s2.loom l.val).pick with
         | some j => s2.pump l.val j
         | none => s2).gatherEnd l.val t)

/-- PICK_LINE_ARRIVE (R157): outstanding request number `k` of a gather is answered; the quarters it completes are
placed at every position that the row serves. -/
def execPickLineArrive (l : LoomId) (k : Nat) (s : State) : Host.Outcome State Fault Refusal := s.onDev fun s =>
  match s.ctx l.val, (s.loom l.val).pick with
  | some c, some j =>
    match j.pend[k]?, pickEnv c j, j.src with
    | some (n, ln), some e, some t =>
      if pickFN e.w ≠ 0 then .next s else
        let f := tget {} j.fetches n
        .next ((s.tierRead c.stall c.src none (f.va + 64 * ln) 64).forLoom s l.val j.smp.op fun d s1 =>
          let f1 := { f with got := tset [] f.got ln d }
          let drop := f1.complete && !j.win.contains n && f1.users.all (fun u => j.claimed u.1 (t.colt - 1))
          let s2 := (s1.setPick l.val { j with
            pend := j.pend.eraseIdx k, fetches := if drop then tset {} j.fetches n {} else tset {} j.fetches n f1 }).count l.val 16 1
          let ready := (allQuarters t).filter (fun p => f1.has t p && !f.has t p)
          let s3 := f1.users.foldl (fun s u => s.placeRow l.val e t u ready (fetchByte f1)) s2
          (match (s3.loom l.val).pick with
           | some j => s3.pump l.val j
           | none => s3).gatherEnd l.val t)
    | _, _, _ => .next s
  | _, _ => .next s

/-! ### Rows as values -/

/-- The exact values of a table row from its bytes, with their scales (R60, R152, R162). -/
def rowVals (t : TableRec) (ftz : Bool) (bs : List Byte) : List XV :=
  (List.range t.cols).map (fun k =>
    let p := t.f.width * k
    let code := bits (u16 bs (p / 8)) (p % 8 + t.f.width - 1) (p % 8)
    let e := ftzRead t.f ftz (t.f.value (t.h.bfmt == 1 && t.f == .int8) code)
    let v := scaled e (if t.h.bfmt = 0 then .one else scaleVal t.h.bfmt (u8 bs (t.elemBytes + k / t.h.b)))
    .ok (if t.h.tpres then scaled v (tscaleVal t.h) else v))

/-- A row of values converted into the table's format with RNE: its bytes, and its elements (R63, R159). -/
def rowBytes (t : TableRec) (special ftz : Bool) (draw : Nat) (vs : List XV) : List Byte × List ElemOut :=
  let env : ConvEnv := { fmt := t.f, handle := t.h, extR := 0, extC := t.cols, rnd := fun _ _ => .rne, special := special, ftz := ftz, infAs := extMax, draw := draw }
  let ws := vs.map (divTscale t.h)
  let n := if t.h.bfmt = 0 then t.cols else t.h.b
  let blocks := (List.range (t.cols / n)).map (fun i =>
    let b := (ws.drop (i * n)).take n
    let sc := if t.h.bfmt = 0 then 0 else computeScale t.f t.h.bfmt env.amaxInf (b.map (·.v))
    let els := b.zipIdx.map (fun v => convElem env sc 0 (i * n + v.2) v.1)
    (els, if els.any (·.scaleNan) then (if t.h.bfmt = 1 then 255 else 127) else sc))
  let els := blocks.flatMap (·.1)
  let packed := (List.range (t.cols / 16)).flatMap (fun r =>
    natLe (runBytes t.f.width) (((els.drop (16 * r)).take 16).zipIdx.foldl (fun a o => a + o.1.code * 2 ^ (t.f.width * o.2)) 0))
  (packed ++ (if t.h.bfmt = 0 then [] else blocks.map (fun b => BitVec.ofNat 8 b.2)), els)

/-- Events of a converted row: counters 3, 4 and 5, and the status of the run (R130, R159). -/
def Dev.rowEvents (s : Dev) (l runSeq : Nat) (els : List ElemOut) : Dev :=
  let s1 := ((s.count l 3 (els.filter (fun o => o.ev.v.isSome)).length).count l 4 (els.filter (fun o => o.ev.o.isSome)).length).count l 5
    (els.filter (fun o => o.ev.u.isSome)).length
  if els.any (fun o => o.ev.v.isSome || o.ev.o.isSome || o.ev.u.isSome) then s1.markRun l runSeq else s1

/-- Line reduces of a row's contributions, 32 elements to a line (R164), each counted (R171). A contribution without DEDUP whose
ring has another format than the table is combined as it stands: R163 converts combined contributions, and does not say that a
single one is converted before R164 combines it (DESIGN CHOICE, log entry 91). -/
def Dev.reduceRow (s : Dev) (l : Nat) (c : Ctx) (t : TableRec) (red : RedOp) (row : Nat) (vs : List XV) : TRes Unit :=
  (List.range (t.cols / 32)).foldl (fun r i =>
    match r with
    | .ok _ s1 =>
      (match s1.lineReduce c.stall c.src c.special (t.rowVa row + 64 * i) red t.f ((vs.drop (32 * i)).take 32) with
       | .ok _ s2 => .ok () (s2.count l 17 1)
       | r => r)
    | r => r) (.ok () s)

/-- The exact values of row `x` of the tiles of a ring's tile row (R159, R162, R163). -/
def ringRow (s : Dev) (l : Nat) (e : PickEnv) (colt tr x : Nat) : List XV :=
  (List.range colt).flatMap (fun j =>
    let i := ringSlot e.dsrc (e.c.at_ s e.dsrc e.j.smp tr j 0)
    let y := s.loom l
    (List.range 64).map (fun k => elemExact (slotGet y i) (y.slot i).tag e.c.ftz x k))

def ringSlots (s : Dev) (e : PickEnv) (colt tr : Nat) : List Nat :=
  (List.range colt).map (fun j => ringSlot e.dsrc (e.c.at_ s e.dsrc e.j.smp tr j 0))

/-! ### Segment reduce (R158 to R162) -/

/-- A binary search over the offsets, unchecked: the largest s of [lo, hi] with off[s] ≤ b, or with `strict` off[s] < b, `n`
probes at most (R158). -/
def segSearch (k l : Nat) (src : Option Nat) (va b : Nat) (strict : Bool) : Nat → Nat → Nat → Dev → TRes Nat
  | 0, lo, _, s => .ok lo s
  | n + 1, lo, hi, s =>
    if hi ≤ lo then .ok lo s
    else
      let mid := (lo + hi + 1) / 2
      match s.tierRead k src none (va + 4 * mid) 4 with
      | .ok d s1 =>
        let s2 := s1.count l 16 1
        if (if strict then u32 d 0 < b else u32 d 0 ≤ b) then segSearch k l src va b strict n mid hi s2 else segSearch k l src va b strict n lo (mid - 1) s2
      | .bad v kd s1 => .bad v kd s1
      | .wait w => .wait w

/-- An offset of the table breaks R158, wherever it lies: the results of the PICK are then undefined, unless a member meets it.
Where the array cannot be read now, nothing is known to break it. -/
def Dev.offsetsBroken (s : Dev) (k : Nat) (src : Option Nat) (va n count : Nat) : Bool :=
  match s.tierRead k src none va (4 * n) with
  | .ok d _ => u32 d 0 != 0 || u32 d (4 * (n - 1)) != count || (List.range (n - 1)).any (fun i => decide (u32 d (4 * (i + 1)) < u32 d (4 * i)))
  | _ => false

/-- The accumulator at the start of a segment: +0, or the identity of a maximum or minimum (R159). -/
def segInit (red cols : Nat) : List XV :=
  List.replicate cols (.ok (if red = 1 then .inf true else if red = 2 then .inf false else .zero))

def accVal (e : BitVec 24 × Option (Nat × Nat)) : XV := ⟨extVal e.1, e.2⟩
def accOf (v : XV) : BitVec 24 × Option (Nat × Nat) := (extCode v.v, v.bad)

/-- One term taken into the accumulators (R159): a sum of d terms makes d − 1 roundings, the first term standing exactly (R162). -/
def segAdd (red : Nat) (first : Bool) (acc vs : List XV) : List XV :=
  (acc.zip vs).map (fun p => match red with
    | 1 => xmax p.1 p.2
    | 2 => xmin p.1 p.2
    | _ => if first then xaddExact p.1 p.2 else xadd p.1 p.2)

/-- Undefined results (R158): free values stand for the row's. -/
def undefRow (undef : Bool) (draw : Nat) (vs : List XV) : List XV :=
  if undef then (List.range vs.length).map (fun i => .ok (extVal (Config.freeExt draw i))) else vs

/-- The member holds part of the segment from `lo` to `hi`, and the segment reaches beyond its range (R160, R161). -/
def PickJob.split (j : PickJob) (lo hi : Nat) : Bool := decide (max lo j.b < min hi j.e) && (decide (lo < j.b) || decide (j.e < hi))

/-- The row of a segment is written plainly (R160): +0 where `empty`. -/
def Dev.segWrite (s : Dev) (l : Nat) (e : PickEnv) (t : TableRec) (seg : Nat) (empty : Bool) (vs : List XV) (undef : Bool) (next : PickJob) : Dev :=
  let (dr, s) := s.draw
  let (bs, els) := rowBytes t e.c.special e.c.ftz dr (undefRow undef dr (if empty then List.replicate t.cols (.ok .zero) else vs))
  ((s.rowEvents l next.smp.runSeq els).tierWrite e.c.stall e.c.src none false (t.rowVa seg) bs).forLoom s l next.smp.op fun _ s1 =>
    let s2 := (s1.count l 17 ((t.size + 63) / 64)).count l 21 1
    (if empty then s2.count l 22 1 else s2).setPick l next

/-- The row of a finished part is written: plainly by its owner, or by line reduce for a split segment (R160, R161). A member
that holds no position of a segment that reaches over its range writes nothing. -/
def Dev.segClose (s : Dev) (l : Nat) (e : PickEnv) (t : TableRec) (g : StreamRec) : Dev :=
  let j := e.j
  let red := pickRED e.w
  let next : PickJob := { j with open_ := false, seg := j.seg + 1, lo := j.hi }
  let d : Rat := ((j.hi - j.lo : Nat) : Rat)
  let vs := j.acc.map (fun a => if red = 3 then xmul a (.ok (extRound (.fin false (1 / d)))) else a)
  let undef := j.undef || s.offsetsBroken e.c.stall e.c.src g.va g.count e.idx.count
  if j.split j.lo j.hi then
    if (red = 1 ∨ red = 2) ∧ j.terms = 0 then s.setPick l next
    else
      let (dr, s) := s.draw
      let (_, els) := rowBytes t e.c.special e.c.ftz dr (undefRow undef dr vs)
      ((s.rowEvents l j.smp.runSeq els).reduceRow l e.c t (redOf red) j.seg (els.map (fun o => .ok (t.f.value false o.code)))).forLoom s l j.smp.op fun _ s1 =>
        (s1.count l 21 1).setPick l next
  else if j.lo < j.hi ∧ (j.lo < j.b ∨ j.e < j.hi) then s.setPick l next
  else s.segWrite l e t j.seg (j.terms == 0 && (red == 1 || red == 2 || j.lo == j.hi)) vs undef next

/-- The row that a term of a segment reduce names (R159): with DEDUP each distinct index of a window is fetched once, and served
again from there (R156). -/
def Dev.segFetch (s : Dev) (l : Nat) (e : PickEnv) (ts : TableRec) (j : PickJob) (row : Nat) : TRes (List Byte × PickJob) :=
  match (if pickDedup e.w then j.win.find? (fun n => (tget {} j.fetches n).idx == row) else none) with
  | some n => .ok (tget [] (tget {} j.fetches n).got 0, j) (s.count l 18 1)
  | none =>
    match s.tierRead e.c.stall e.c.src none (ts.rowVa row) ts.size with
    | .ok d s1 => .ok (d, if pickDedup e.w then { j with
        nfetch := j.nfetch + 1, win := j.win ++ [j.nfetch], fetches := tset {} j.fetches j.nfetch { idx := row, got := [(0, d)] } } else j)
        (s1.count l 16 ((ts.size + 63) / 64))
    | .bad v kd s1 => .bad v kd s1
    | .wait w => .wait w

/-- Take the terms from the job's position to the end of its tile row, its segment or its range (R159). -/
def Dev.segTerms (s : Dev) (l : Nat) (e : PickEnv) (t : TableRec) : Dev :=
  let j := e.j
  let red := pickRED e.w
  let stop := min (min j.hi j.e) (j.b + 64 * ((j.pos - j.b) / 64 + 1))
  let n := stop - j.pos
  let tr := (j.pos - j.b) / 64
  if e.dsrc.kind = 2 then
    match j.src with
    | none => s
    | some ts =>
      (s.ringWords l e.c e.di e.idx.va j.b j.pos n).forLoom s l j.smp.op fun bs s0 =>
        let r : TRes PickJob := (List.range n).foldl (fun r i =>
          match r with
          | .ok j s1 =>
            let j := if (j.pos - j.b) % 256 = 0 then { j with win := [], fetches := [] } else j
            (match s1.indexWord l ts.rows (j.pos) (u32 bs (4 * i)) with
             | (none, s2) => .ok { j with pos := j.pos + 1 } s2
             | (some row, s2) =>
               match s2.segFetch l e ts j row with
               | .ok (d, j) s3 => .ok { j with pos := j.pos + 1, terms := j.terms + 1, acc := segAdd red (j.terms == 0) j.acc (rowVals ts e.c.ftz d) } s3
               | .bad v kd s3 => .bad v kd s3
               | .wait w => .wait w)
          | r => r) (.ok j s0)
        r.forLoom s l j.smp.op fun j1 s1 => s1.setPick l j1
  else
    let slots := ringSlots s e t.colt tr
    s.guardSlots l j.smp.op 4 (rdSlots e.c.stall (s.loom l) slots) fun s =>
      let j1 := (List.range n).foldl (fun (j : PickJob) _ =>
        { j with pos := j.pos + 1, terms := j.terms + 1, acc := segAdd red (j.terms == 0) j.acc (ringRow s l e t.colt tr ((j.pos - j.b) % 64)) }) j
      let s1 := if stop = j.e ∨ stop = j.b + 64 * (tr + 1) then s.readTiles l slots else s
      s1.setPick l { j1 with next := if stop = j.e ∨ stop = j.b + 64 * (tr + 1) then tr + 1 else j.next }

/-- PICK FN 2 (R158 to R160): issue and the search for the run's first offset; then one segment opened, one piece of its
terms taken, or its row written; at the end the padding tile rows of a ring are consumed (R154, R159). R158's run begins at the
last segment that starts at b_m or before, and leaves the empty segments that stand at b_m before it to no member, while R160
gives them to the member whose range holds b_m: that member finds the first of them by a second search and writes them before its
run (DEDUCED, log entry 87). -/
def execPickSegmentReduce (l : LoomId) (s : State) : Host.Outcome State Fault Refusal := s.onDev fun s =>
  .next (s.withPick l.val 2
    (Dev.issuePick l.val 2 fun c j => match j.offs, j.dst, c.st.desc (pickTSRC j.smp.w) with
      | some _, some t, some ds => ds.kind != 2 || (match j.src with
        | some u => u.colt == t.colt
        | none => false)
      | _, _, _ => false)
    fun s e =>
      match e.j.offs, e.j.dst, e.c.st.desc (pickTSEG e.w) with
      | some g, some t, some dg =>
        let j := e.j
        let op := j.smp.op
        let sCount := g.count - 1
        let m := (s.loom l.val).member
        let mm := e.c.st.m
        let search (strict : Bool) (s : Dev) : TRes Nat := if m = 0 then .ok 0 s else segSearch e.c.stall l.val e.c.src g.va j.b strict 41 0 sCount s
        match j.phase with
        | .pin =>
          (search false s).forLoom s l.val op fun a s1 =>
            (if j.b < j.e ∨ m + 1 = mm then search true s1 else .ok a s1).forLoom s l.val op fun z s2 =>
              (s2.ringWords l.val e.c dg g.va a a 1).forLoom s l.val op fun d s3 =>
                let o := u32 d 0
                if (m = 0 ∧ o ≠ 0) ∨ (m + 1 = mm ∧ a = sCount ∧ o ≠ e.idx.count) then s.pickFault l.val op
                else
                  let u := s.offsetsBroken e.c.stall e.c.src g.va g.count e.idx.count
                  s3.setPick l.val { j with phase := .deliver, seg := if m = 0 then a else min (z + 1) a, segEnd := a, lo := o, undef := u }
        | .deliver =>
          if j.seg < j.segEnd then s.segWrite l.val e t j.seg true [] j.undef { j with seg := j.seg + 1 }
          else s.setPick l.val { j with phase := .append }
        | .append =>
          let done := if m + 1 = mm then decide (sCount ≤ j.seg) else decide (j.e ≤ max j.lo j.b)
          if j.open_ then
            if j.pos < min j.hi j.e then s.segTerms l.val e t else s.segClose l.val e t g
          else if done then
            if e.dsrc.kind ≠ 2 ∧ j.next < j.rows then
              let slots := ringSlots s e t.colt j.next
              s.guardSlots l.val op 4 (rdSlots e.c.stall (s.loom l.val) slots) fun s =>
                (s.readTiles l.val slots).setPick l.val { j with next := j.next + 1 }
            else s.endPick l.val
          else
            (s.ringWords l.val e.c dg g.va j.segEnd (j.seg + 1) 1).forLoom s l.val op fun d s1 =>
              let o := u32 d 0
              if o < j.lo ∨ (m + 1 = mm ∧ j.seg + 1 = sCount ∧ o ≠ e.idx.count) ∨ (j.split j.lo o = true ∧ t.plain = false) then s.pickFault l.val op
              else s1.setPick l.val { j with open_ := true, hi := o, terms := 0, acc := segInit (pickRED e.w) t.cols }
        | _ => s
      | _, _, _ => s)

/-! ### Scatter-add (R163 to R165) -/

/-- Write the combined contributions of a window, each converted once (R163). -/
def Dev.flushWindow (s : Dev) (l : Nat) (e : PickEnv) (t : TableRec) (win : List (Nat × List XV)) : TRes Unit :=
  win.foldl (fun r a =>
    match r with
    | .ok _ s1 =>
      let (dr, s2) := s1.draw
      let els := (rowBytes t e.c.special e.c.ftz dr a.2).2
      (s2.rowEvents l e.j.smp.runSeq els).reduceRow l e.c t (redOf (pickRED e.w)) a.1 (els.map (fun o => .ok (t.f.value false o.code)))
    | r => r) (.ok () s)

/-- PICK FN 1 (R163): issue; then one tile row of the ring at a time. -/
def execPickScatterAdd (l : LoomId) (s : State) : Host.Outcome State Fault Refusal := s.onDev fun s =>
  .next (s.withPick l.val 1
    (Dev.issuePick l.val 1 fun _ j => match j.dst with
      | some t => t.plain
      | none => false)
    fun s e =>
      match e.j.dst with
      | none => s
      | some t =>
        let j := e.j
        let tr := j.next
        if j.rows ≤ tr then s.endPick l.val
        else
          let slots := ringSlots s e t.colt tr
          let p0 := j.b + 64 * tr
          let n := min 64 (j.e - p0)
          let red := pickRED e.w
          s.guardSlots l.val j.smp.op 4 (rdSlots e.c.stall (s.loom l.val) slots) fun s =>
            (s.ringWords l.val e.c e.di e.idx.va j.b p0 n).forLoom s l.val j.smp.op fun bs s0 =>
              let r : TRes PickJob := (List.range n).foldl (fun r i =>
                match r with
                | .ok j s1 =>
                  (match s1.indexWord l.val t.rows (p0 + i) (u32 bs (4 * i)) with
                   | (none, s2) => .ok j s2
                   | (some row, s2) =>
                     let vs := ringRow s l.val e t.colt tr i
                     if pickDedup e.w then
                       (match j.winAcc.find? (fun a => a.1 == row) with
                        | some _ => .ok { j with winAcc := j.winAcc.map (fun a => if a.1 = row then (row, segAdd red false a.2 vs) else a) } s2
                        | none => .ok { j with winAcc := j.winAcc ++ [(row, vs)] } s2)
                     else
                       match s2.reduceRow l.val e.c t (redOf red) row vs with
                       | .ok _ s3 => .ok j s3
                       | .bad v kd s3 => .bad v kd s3
                       | .wait w => .wait w)
                | r => r) (.ok j s0)
              r.forLoom s l.val j.smp.op fun j1 s1 =>
                let flush := tr % 4 == 3 || tr + 1 == j.rows
                let w : TRes Unit := if flush then s1.flushWindow l.val e t j1.winAcc else .ok () s1
                w.forLoom s l.val j.smp.op fun _ s2 =>
                  let s3 := s2.readTiles l.val slots
                  if tr + 1 = j.rows then s3.endPick l.val
                  else s3.setPick l.val { j1 with next := tr + 1, winAcc := if flush then [] else j1.winAcc })

/-! ### De-duplication (R166) -/

/-- One block: the distinct indices in first-occurrence order, and each position's place among them; none stands for a null or
out-of-range index. R166 speaks of whole windows and half blocks only: of a window shorter than 256 positions the bytes past its
positions are 0xFF, and one with more than 192 distinct indices is split into its first 128 and its remaining positions (DESIGN
CHOICE, log entry 92). -/
def dedupBlock (w part : Nat) (ws : List (Option Nat)) : List Byte :=
  let d := (ws.filterMap id).eraseDups
  natLe 4 d.length ++ (natLe 8 w ++ (natLe 1 part ++ (List.replicate 51 0 ++
    ((List.range 192).flatMap (fun i => natLe 4 (d.getD i 0)) ++
     (List.range 256).map (fun i => match ws[i]? with
       | some (some v) => BitVec.ofNat 8 (d.idxOf v)
       | _ => 0xFF)))))

/-- ROWS of the table that bounds the indices of a de-duplication. R166 names out-of-range indices, and no rule names their table:
it is the one of TSRC where that field is not zero and names a raw region; without one no index is out of range (DESIGN CHOICE,
log entry 88). -/
def dedupTable (c : Ctx) (j : PickJob) : Bool := pickTSRC j.smp.w != 0 && (match c.st.desc (pickTSRC j.smp.w) with
  | some d => d.kind == 2
  | none => false)

def dedupRows (c : Ctx) (j : PickJob) : Nat := if dedupTable c j then (j.src.map TableRec.rows).getD 0 else 2 ^ 32

/-- PICK FN 3 (R166): issue; then one window at a time. -/
def execPickDeduplicate (l : LoomId) (s : State) : Host.Outcome State Fault Refusal := s.onDev fun s =>
  .next (s.withPick l.val 3
    (Dev.issuePick l.val 3 fun c j => !dedupTable c j || j.src.isSome)
    fun s e =>
      let j := e.j
      let p0 := j.b + 256 * j.next
      let n := min 256 (j.e - p0)
      if n = 0 then s.endPick l.val
      else
        (s.ringWords l.val e.c e.di e.idx.va j.b p0 n).forLoom s l.val j.smp.op fun bs s1 =>
          let r : List (Option Nat) × Dev := (List.range n).foldl (fun r i =>
            let q := r.2.indexWord l.val (dedupRows e.c j) (p0 + i) (u32 bs (4 * i))
            (r.1 ++ [q.1], q.2)) ([], s1)
          let ws := r.1
          let u := ((ws.filterMap id).eraseDups).length
          let blocks := if u ≤ 192 then [dedupBlock j.next 0 ws] else [dedupBlock j.next 1 (ws.take 128), dedupBlock j.next 2 (ws.drop 128)]
          let wr := (8192 * e.ddst.depth - 64) / 1088
          let s3 := blocks.zipIdx.foldl (fun s b =>
            (s.modLoom l.val (fun x => benchWrite x (8192 * e.ddst.base + 64 + 1088 * ((j.block + b.2) % wr)) b.1)).count l.val 14 1088) r.2
          let next := { j with next := j.next + 1, block := j.block + blocks.length }
          if j.e ≤ p0 + 256 then s3.endPick l.val else s3.setPick l.val next)

/-- PICK_OOB_CLEAR (R153, R171): writing 1 to LOM_PICK_STATUS.OOB re-arms the latch. -/
def execPickOobClear (fn : FnId) (l : LoomId) (s : State) : Host.Outcome State Fault Refusal := s.onDev fun s =>
  s.host (if s.fnReaches fn.val l.val then s.modLoom l.val (fun x => { x with pickOob := false }) else s)

end Sys2Proof.Machine
end

