-- ==== Sys2Proof/Machine/Att.lean ====
section
/-!
DEFINITION. Attention (R216 to R225), the page walk (R228 to R235), the gnomon (R241, R242) and page epochs (R236, R237).
-/
namespace Sys2Proof.Machine

/-! ### Values and rows -/

/-- A tag with TPRES clear: its elements read without the tensor-wide scale, which is applied at the end (R97). -/
def noTensor (t : Tag) : Tag := t &&& ~~~(BitVec.ofNat 128 (2 ^ 74))

/-- Multiply by a tile's tensor-wide scale, if it has one (R61). -/
def byTensor (d : Desc) (v : XV) : XV :=
  if d.handle.tpres then (match tscaleVal d.handle with
    | .fin s q => xmul v (.ok (.fin s q))
    | _ => if v.v.isNan then v else .ok .nan)
  else v

/-- DT of an ATT's query descriptor (R217). -/
def attDt (dq : Desc) : Nat := dq.sr

/-- Rounded to BF16; an infinity stays one, whatever the overflow mode (R219, R222). -/
def bfKeep (special ftz : Bool) (v : FV) : W16 :=
  BitVec.ofNat 16 (convert .bf16 false false (special || (match v with
    | .inf _ => true
    | _ => false)) ftz .rne v).code

/-- Rounded to BF16 as any conversion (R69, R70). -/
def bfRound (special : Bool) (v : FV) : W16 := BitVec.ofNat 16 (convert .bf16 false false special false .rne v).code

def bfVal (c : W16) : FV := Fmt.value .bf16 false c.toNat

/-- One row of a block: the new maximum, α and the converted probabilities p̂ (R218, R219, R222). -/
def attRow (p8 special ftz : Bool) (draw idx : Nat) (m : W16) (zs : List XV) : W16 × XV × List XV :=
  let mv := bfVal m
  let top := (zs.foldl xmax (.ok (.inf true))).v
  let mb := (xmax (.ok mv) (.ok (bfVal (bfKeep special ftz top)))).v
  let code : W16 := BitVec.ofNat 16 (convert .bf16 false false true false .rne mb).code
  let p (v : XV) : XV :=
    let f : Fmt := if p8 then .e4m3 else .bf16
    .ok (f.value false (convert f false false false ftz .rne v.v).code)
  match mb with
  | .inf true => (code, xOne, zs.map (fun _ => .ok .zero))
  | .inf false => (code, if mv = .inf false then xOne else .ok .zero, zs.map (fun z => if z.v = .inf false then xOne else .ok .zero))
  | .nan => (code, .ok .nan, zs.map (fun _ => .ok .nan))
  | _ =>
    (code, if mv = mb then xOne else xexp draw idx (xsub (.ok mv) (.ok mb)),
      zs.zipIdx.map (fun z => p (xexp draw (idx + 1 + z.2) (xsub { z.1 with bad := none } (.ok mb)))))

/-! ### The operands of a block (R217, R219 to R221) -/

/-- What an ATT in progress works with. -/
structure AttEnv where
  c : Ctx
  j : AttJob
  w : Nat
  dq : Desc
  dk : Desc
  dv : Desc
  dout : Desc

def attEnv (c : Ctx) (j : AttJob) : Option AttEnv :=
  let w := j.smp.w
  match c.st.desc (attTQ w), c.st.desc (attTK w), c.st.desc (attTV w), c.st.desc (attTO w) with
  | some q, some k, some v, some o => some { c := c, j := j, w := w, dq := q, dk := k, dv := v, dout := o }
  | _, _, _, _ => none

def AttEnv.dt (e : AttEnv) : Nat := attDt e.dq
def AttEnv.paged (e : AttEnv) : Bool := attTPG e.w != 0

/-- Slots of the query tiles. -/
def AttEnv.qSlots (e : AttEnv) (s : Dev) : List Nat :=
  (List.range e.dt).map (fun kb => ringSlot e.dq (e.c.at_ s e.dq e.j.smp 0 kb 0))

def AttEnv.kSlots (e : AttEnv) (s : Dev) (k : Nat) : List Nat :=
  (List.range e.dt).map (fun kb => ringSlot e.dk (e.c.at_ s e.dk e.j.smp k kb 0))

def AttEnv.vSlots (e : AttEnv) (s : Dev) (k : Nat) : List Nat :=
  (List.range e.dt).map (fun t => ringSlot e.dv (e.c.at_ s e.dv e.j.smp t k 0))

/-- The position of query row `x` (R220, R233). -/
def AttEnv.qPos (e : AttEnv) (s : Dev) (wk : Option WalkInfo) (x : Nat) : Nat :=
  match wk with
  | some i => i.len + (64 * ((e.c.at_ s e.dq e.j.smp 0 0 0).2.1 / e.dt) + x) / max i.qdiv 1
  | none => 64 * tagRow ((s.loom e.c.l).slot ((e.qSlots s).headD 0)).tag + x

/-- Query rows: those within the extents of the query tile. -/
def AttEnv.rows (e : AttEnv) (s : Dev) : Nat := tagExtR ((s.loom e.c.l).slot ((e.qSlots s).headD 0)).tag + 1

/-- The first accumulator entry of the running output (R217). -/
def AttEnv.sl (e : AttEnv) : Nat := 64 * (4 - e.dt)

/-- The widths of the two passes: whether a column takes two beats (R90, R217, R218). -/
def AttEnv.wideQ (e : AttEnv) : Bool := e.dq.format.cls == 3 || e.dk.format.cls == 3
def AttEnv.wideV (e : AttEnv) : Bool := e.dv.format.cls == 3

/-- Key position `kp` is masked for query position `qp` (R220). -/
def masked (mask win kp qp : Nat) : Bool :=
  match mask with
  | 0 => false
  | 1 => decide (qp < kp)
  | _ => decide (qp < kp) || decide (kp / 256 + win ≤ qp / 256)

/-- The key streams an ATT reads (R221). -/
def attStreams (w : Nat) : Nat := if attMask w = 2 then 1 else max 1 (attWin w)

/-- An element of an operand tile of a pass: its tensor-wide scale is applied to the final sum, unless it is invalid (R61, R97). -/
def attElem (x : LoomSt) (ftz : Bool) (i a k : Nat) : XV :=
  let t := (x.slot i).tag
  elemExact (slotGet x i) (if (tscaleVal (Handle.ofNat (tagScale t))).isNan then t else noTensor t) ftz a k

/-- An accumulator takes a column's comb sums: of one beat, or at the 16-bit rate of two beats of 32 positions, one after the
other, each with its own rounding (R90, R92, R217). -/
def attAcc (wide : Bool) (draw idx : Nat) (a : XV) (ps : List XV) : XV :=
  if wide then xadd (xadd a (freeSum draw (2 * idx) (ps.take 32))) (freeSum draw (2 * idx + 1) (ps.drop 32))
  else xadd a (freeSum draw (2 * idx) ps)

/-- The logits or scores of query rows against the rows of a tile of their dimension tile `kb`, taken into `a`. -/
def attDot (s : Dev) (e : AttEnv) (wide : Bool) (draw kb slot r j : Nat) (a : XV) : XV :=
  let x := s.loom e.c.l
  attAcc wide draw (64 * r + j) a ((List.range 64).map (fun d =>
    (xmulExact noK (attElem x e.c.ftz ((e.qSlots s).getD kb 0) r d) (attElem x e.c.ftz slot j d)).round))

/-- QKSCALE as the loom reads it (R219). -/
def AttEnv.scale (e : AttEnv) : XV := .ok (ftzRead .bf16 e.c.ftz (Fmt.value .bf16 false (attScale e.w)))

def Dev.setAtt (s : Dev) (l : Nat) (j : AttJob) : Dev := s.modLoom l (fun y => { y with att := some j })

/-! ### The logits pass (R216, R219) -/

/-- The next key group: the slots of its key and value tiles, and its keys' positions by the slot of its first key tile; none where
a paged run has not delivered it (R221, R233). -/
def AttEnv.nextGroup (e : AttEnv) (s : Dev) (wk : Option WalkInfo) : Option (List Nat × KeyGroup) :=
  let k := e.j.group
  match wk with
  | none =>
    let ks := e.kSlots s k
    let t := ((s.loom e.c.l).slot (ks.headD 0)).tag
    some (ks, { k := k, vs := e.vSlots s k, pos := (List.range (tagExtR t + 1)).map (fun j => 64 * tagRow t + j) })
  | some i => (i.groups[k]?).map (fun g => (g.ks, { k := k, vs := g.vs, pos := (List.range g.toks).map (fun j => g.first + j) }))

/-- No key group is left to read after those of the block in hand. -/
def AttEnv.noMore (e : AttEnv) (wk : Option WalkInfo) : Bool :=
  match wk with
  | none => decide (attStreams e.w ≤ e.j.streams)
  | some i => i.ended && decide (i.groups.length ≤ e.j.group)

/-- One key tile of the block: its products with the query tile of its dimension go into the logits' accumulators. With the group's
last tile the group is read, and so is a key stream where one of its tiles carries LAST (R221). -/
def Dev.attKey (s : Dev) (e : AttEnv) (wk : Option WalkInfo) : Dev :=
  let l := e.c.l
  let j := e.j
  match e.nextGroup s wk with
  | none => s
  | some (ks, g) =>
    let i := ks.getD j.kt 0
    s.guardSlots l j.smp.op 0 (rdSlot e.c.stall (s.loom l) i) fun s =>
      let gs := if j.kt = 0 then j.gs ++ [g] else j.gs
      let gi := gs.length - 1
      let n := ((gs.getLast?).map (fun h => h.pos.length)).getD 0
      let (dr, s1) := s.draw
      let y := (List.range (e.rows s)).foldl (fun y r => (List.range n).foldl (fun y c =>
        accSet y r (64 * gi + c) (attDot s e e.wideQ dr j.kt i r c (if j.kt = 0 then .ok .zero else accGet y r (64 * gi + c)))) y) (s1.loom l)
      let last := j.sawLast || tagLast ((s.loom l).slot i).tag
      let full := j.kt + 1 == e.dt
      ((s1.setLoom l y).readTiles l [i]).setAtt l { j with
        gs := gs, kt := if full then 0 else j.kt + 1, group := if full then j.group + 1 else j.group,
        sawLast := last && !full, streams := if full && last then j.streams + 1 else j.streams }

/-- The end of a block's logits pass: unless every key is masked for every row, the fuller forms each row's new maximum, its α and
its probabilities, and the running sum (R219, R222). -/
def Dev.attClose (s : Dev) (e : AttEnv) (wk : Option WalkInfo) : Dev :=
  let l := e.c.l
  let j := e.j
  let rows := e.rows s
  let keys := j.gs.zipIdx.flatMap (fun g => g.1.pos.zipIdx.map (fun p => (p.1, 64 * g.2 + p.2)))
  let hide (r kp : Nat) : Bool := masked (attMask e.w) (attWin e.w) kp (e.qPos s wk r)
  let closed : AttJob := { j with closed := true, vt := 0, last := e.noMore wk }
  if (List.range rows).all (fun r => keys.all (fun k => hide r k.1)) then
    (if keys.isEmpty then s else s.count l 25 1).setAtt l { closed with skip := true }
  else
    let (dr, s1) := s.draw
    let outs := (List.range rows).map (fun r =>
      let zs := keys.map (fun k => if hide r k.1 then (.ok (.inf true) : XV) else
        { xmul e.scale (byTensor e.dk (byTensor e.dq (accGet (s.loom l) r k.2))) with bad := none })
      attRow (e.dv.format.width != 16) e.c.special e.c.ftz dr (r * 256) (j.m.getD r 0xFF80) zs)
    let ls := outs.zipIdx.map (fun o =>
      let old := accVal (j.l.getD o.2 (0, none))
      accOf (xadd (if o.1.2.1.v = .one then old else xmul o.1.2.1 old) (freeSum dr (2 ^ 20 + o.2) o.1.2.2)))
    s1.setAtt l { closed with
      skip := false, m := outs.map (·.1), l := ls, alpha := outs.map (fun o => accOf o.2.1), ps := outs.map (fun o => o.2.2.map (fun p => extCode p.v)) }

/-! ### The value pass (R216, R217, R219) -/

/-- One value tile of the block: the probabilities' products with its elements go into the running output, which the first beat
multiplies by α with one rounding. A block that is skipped only passes the tile (R219). -/
def Dev.attValue (s : Dev) (e : AttEnv) : Dev :=
  let l := e.c.l
  let j := e.j
  let gi := j.vt / e.dt
  let t := j.vt % e.dt
  match j.gs[gi]? with
  | none => s
  | some g =>
    let i := g.vs.getD t 0
    s.guardSlots l j.smp.op 0 (rdSlot e.c.stall (s.loom l) i) fun s =>
      let next (s : Dev) : Dev := (s.readTiles l [i]).setAtt l { j with vt := j.vt + 1 }
      if j.skip then next s
      else
        let (dr, s1) := s.draw
        let x := s.loom l
        let off := ((j.gs.take gi).map (fun h => h.pos.length)).sum
        let y := (List.range (e.rows s)).foldl (fun y r =>
          let alpha := accVal (j.alpha.getD r (0, none))
          let ps := ((j.ps.getD r []).drop off).take g.pos.length
          (List.range 64).foldl (fun y n =>
            let a := accGet y r (e.sl + 64 * t + n)
            let a0 := if gi ≠ 0 ∨ alpha.v = .one then a else xmulExact noK alpha a
            accSet y r (e.sl + 64 * t + n) (attAcc e.wideV dr (64 * r + n) a0 (ps.zipIdx.map (fun p =>
              (xmulExact (64 * g.k + p.2) (.ok (extVal p.1)) (attElem x e.c.ftz i n p.2)).round)))) y) (s1.loom l)
        next (s1.setLoom l y)

/-- The end of a block: it is counted with its rescaled rows, its beats, those of the columns it holds, and its warp tiles, the
query tiles and the probabilities' (R123, R216, R223, R244). -/
def Dev.attBlockEnd (s : Dev) (e : AttEnv) : Dev :=
  let l := e.c.l
  let j := e.j
  let n := j.gs.length
  let s1 := if j.skip then s else
    (((s.count l 24 1).count l 26 (j.alpha.filter (fun a => fvLt (extVal a.1) .one)).length).count l 0
      (64 * n * e.dt * (if e.wideQ then 2 else 1) + 64 * e.dt * n * (if e.wideV then 2 else 1))).count l 1 (e.dt + n)
  s1.setAtt l { j with gs := [], kt := 0, sawLast := false, closed := false, skip := false, alpha := [], ps := [], vt := 0, done := j.last }

/-- The next step of a block: a key tile, the end of its logits pass, a value tile, its end; an ATT waits for the next key group
of a walk that has not ended. -/
def Dev.attStep (s : Dev) (e : AttEnv) (wk : Option WalkInfo) : Dev :=
  let j := e.j
  if j.closed then (if j.vt < j.gs.length * e.dt then s.attValue e else s.attBlockEnd e)
  else if j.kt = 0 && (e.noMore wk || j.gs.length == 4 - e.dt) then s.attClose e wk
  else s.attKey e wk

/-! ### Pages (R228 to R235) -/

/-- A miss: the page is counted once, and the first latched (R235). -/
def Dev.attMiss (s : Dev) (l : Nat) (i : WalkInfo) (page first cause : Nat) (app : Bool) : Dev :=
  let s1 := s.modLoom l (fun x => if x.attMiss then x else
    { x with attMiss := true, attMissSeq := BitVec.ofNat 24 i.sigma, attMissPlane := BitVec.ofNat 12 i.plane,
             attMissPos := BitVec.ofNat 21 first, attMissCause := BitVec.ofNat 2 cause, attMissAppend := app })
  if i.missing.contains page then s1 else s1.count l 29 1

/-- The walk record of R230. -/
structure WalkRec where
  poolVa : Nat
  pages : Nat
  dom : Nat
  qdiv : Nat
  dt : Nat
  type : Nat
  nseq : Nat

def walkRec (b : List Byte) : WalkRec :=
  { poolVa := u64 b 0 % 2 ^ 52, pages := u32 b 8, dom := u8 b 12 % 16, qdiv := u8 b 13, dt := u8 b 14, type := u16 b 16, nseq := u16 b 18 }

/-- The first byte of pool page `g` (R229). -/
def WalkRec.pageVa (r : WalkRec) (g : Nat) : Nat := r.poolVa + g * (4096 * ((528 * 64 * r.dt + 4095) / 4096))

/-- The VA of the summary of a page (R228). -/
def WalkInfo.summaryVa (i : WalkInfo) (dt j : Nat) : Nat := i.seqVa + 64 + (i.plane * i.npmax + j) * 128 * dt

/-- The VA of a page's entry in the bank of the pinned epoch (R228, R232). -/
def WalkInfo.entryVa (i : WalkInfo) (dt j : Nat) : Nat :=
  i.seqVa + 64 + i.nplane * i.npmax * 128 * dt + (i.epoch.toNat % 2) * (64 * ((i.nplane * i.npmax * 4 + 63) / 64)) +
    4 * (i.plane * i.npmax + j)

def WalkInfo.n (i : WalkInfo) : Nat := i.len + i.new_
def WalkInfo.pages (i : WalkInfo) : Nat := (i.n + 255) / 256

/-- The summary of a page: the mean of each key element over its 256 tokens, in BF16 (R241). -/
def summaryOf (special ftz : Bool) (draw d : Nat) (keys scales : List Byte) : List Byte :=
  (List.range d).flatMap (fun n =>
    let vs := (List.range 256).map (fun t => XV.ok (extRound (scaled (ftzRead .e4m3 ftz (Fmt.value .e4m3 false (u8 keys (t * d + n))))
      (scaleVal 2 (u8 scales (t * (d / 32) + n / 32))))))
    natLe 2 (BitVec.ofNat 16 (convert .bf16 false false special ftz .rne (xmul (freeSum draw n vs) (xRat (1 / 256))).v).code).toNat)

/-- Write the summaries of the pages whose last token was appended (R232 step 9, R241). -/
def Dev.writeSummaries (s : Dev) (e : AttEnv) (i : WalkInfo) : List (Nat × List Byte) → TRes Unit
  | [] => .ok () s
  | p :: t =>
    match s.tierWrite e.c.stall e.c.src none false (i.summaryVa e.dt p.1) p.2 with
    | .ok _ s1 => s1.writeSummaries e i t
    | .bad v k u => .bad v k u
    | .wait w => .wait w

/-! ### Output (R219, R225, R232 step 9) -/

/-- What an ATT's output needs to know: its FIN and function, whether it pairs tiles as GLU, its output tiles, and whether a page was
missing. -/
structure AttOut where
  fin : Option Nat
  fn : Nat
  f : Nat
  glu : Bool
  n : Nat
  miss : Bool

def attOut (s : Dev) (e : AttEnv) (wk : Option WalkInfo) : AttOut :=
  let fin := finOf (s.loom e.c.l) e.j.smp
  { fin := fin, f := fin.getD 0, fn := (fin.map fulFN).getD 0, glu := isGlu fin, n := if isGlu fin then 1 else e.dt,
    miss := match wk with
      | some i => !i.missing.isEmpty
      | none => false }

def AttEnv.coord (e : AttEnv) (s : Dev) (t : Nat) : Nat × Nat × Nat := e.c.at_ s e.dout e.j.smp 0 t 0

/-- The tile that an ATT's FIN reads for output tile `t`. -/
def attTy (s : Dev) (e : AttEnv) (o : AttOut) (t : Nat) : Option Nat :=
  if o.glu then none else o.fin.bind (fun f => (finTY e.c s f e.j.smp (e.coord s t) t).map (·.2))

/-- The finished values of output tile `t` (R219, R222, R225, R235). -/
def attVals (s : Dev) (e : AttEnv) (miss : Bool) (draw t : Nat) : List (List XV) :=
  let x := s.loom e.c.l
  let lv (r : Nat) : XV := accVal (e.j.l.getD r (0, none))
  matBuild (fun r k =>
    if e.rows s ≤ r then .ok .zero
    else if miss then ⟨.nan, some (latchedMark, noK)⟩
    else
      let a := accGet x r (e.sl + 64 * t + k)
      if attSplit e.w then byTensor e.dv a
      else if (lv r).v.isZero then .ok .zero
      else byTensor e.dv (xmul a (xrecip draw r (lv r))))

/-- Output tile `t` of an ATT, finished by its FIN and converted (R134, R138, R143). -/
def attTile (s : Dev) (e : AttEnv) (o : AttOut) (draw t : Nat) : OutTile :=
  let x := s.loom e.c.l
  let p := e.j.smp
  let w := e.w
  let imm : XV := .ok (ftzRead .bf16 e.c.ftz (Fmt.value .bf16 false (fulImm o.f)))
  let co := e.coord s t
  let ty (_ : Nat) : List (List XV) := if o.glu then attVals s e o.miss draw 1 else ((attTy s e o t).map (slotVals x e.c.ftz)).getD []
  let keep (_ a k : Nat) : Bool := dropKeep e.c p (fulImm o.f) (attTO w) e.dout co a k
  let v := attVals s e o.miss draw t
  let vals := if o.miss then v else (fullerFn o.fn (fulDir o.f) imm (draw + t) ty keep [v]).headD []
  let ext := fulExt o.fn (fulDir o.f) (edgeExt p e.dout.rowMap e.dout.lastRows true) (edgeExt p e.dout.colMap e.dout.lastCols (t + 1 == o.n))
  mkOut e.c p (attTO w) e.dout co ext.1 ext.2 (e.dout.lastF && t + 1 == o.n && lastFor x p (attTO w))
    (epochOf e.dout p (tagEpoch (x.slot ((e.qSlots s).headD 0)).tag)) (if attSC w = 1 then .computed else .none) (attRnd w)
    (if o.fn = 0x13 then 3 else 4) (draw * 256 + t) extMax vals

/-- The (m, l) tile of query tile `t` (R225): an infinite m is written as it is, whatever the overflow mode, and raises nothing
(R222). -/
def attMl (s : Dev) (e : AttEnv) (miss : Bool) (draw t : Nat) : OutTile :=
  let x := s.loom e.c.l
  let p := e.j.smp
  let n := attTO e.w + 1
  let dm := (e.c.st.desc n).getD e.dout
  let rows := e.rows s
  let m (r : Nat) : W16 := e.j.m.getD r 0xFF80
  let open_ (r : Nat) : Bool := decide (r < rows) && !miss && (match bfVal (m r) with
    | .inf _ => true
    | _ => false)
  let vals := matBuild (fun r k =>
    if rows ≤ r ∨ 1 < k then .ok .zero
    else if miss then .ok .nan
    else if k = 1 then accVal (e.j.l.getD r (0, none))
    else if open_ r then .ok .zero else .ok (bfVal (m r)))
  let o := mkOut e.c p n dm (e.c.at_ s dm p 0 t 0) (edgeExt p dm.rowMap dm.lastRows true) 1 (dm.lastF && t + 1 == e.dt && lastFor x p n)
    (epochOf dm p (tagEpoch (x.slot ((e.qSlots s).headD 0)).tag)) .none false 4 (draw * 256 + 8 + t) extMax vals
  { o with data := o.data.zipIdx.map (fun b =>
      let r := b.2 / runBytes 16
      if b.2 < 2048 ∧ b.2 % runBytes 16 < 2 ∧ r ≤ o.extR ∧ open_ r = true then BitVec.ofNat 8 ((m r).toNat / 256 ^ (b.2 % 2)) else b.1) }

/-- The output of an ATT is formed, once the tiles that its FIN reads stand ready: the query tiles are released, and the output
tiles and the (m, l) tiles wait for their slots (R108, R133). -/
def Dev.attForm (s : Dev) (e : AttEnv) (wk : Option WalkInfo) : Dev :=
  let l := e.c.l
  let o := attOut s e wk
  let tys := (List.range o.n).filterMap (attTy s e o)
  s.guardSlots l e.j.smp.op 3 (rdSlots e.c.stall (s.loom l) tys) fun s =>
    let (dr, s1) := s.draw
    let tiles := (List.range o.n).map (attTile s e o dr)
    let mls := if attSplit e.w then (List.range e.dt).map (attMl s e o.miss dr) else []
    let empty := ((List.range (e.rows s)).filter (fun r => (accVal (e.j.l.getD r (0, none))).v.isZero)).length
    let s2 := ((tiles ++ mls).foldl (fun t q => t.raiseOut e.c e.j.smp q) (s1.readTiles l (e.qSlots s ++ tys))).count l 30 empty
    let s3 := if o.fn = 0x13 then tiles.foldl (fun t q => t.count l 36 (dropCount e.c e.j.smp (fulImm o.f) (attTO e.w) e.dout q.coord q.extR q.extC)) s2 else s2
    s3.setAtt l { e.j with out := true, outs := (tiles ++ mls).map (·.pend e.c.stall) }

/-- The output tiles are written as their slots are EMPTY; then the summaries, and the ATT ends. -/
def Dev.attFinish (s : Dev) (e : AttEnv) (wk : Option WalkInfo) : Dev :=
  let l := e.c.l
  let r := Dev.flush e.c 2 (fun _ => true) e.j.smp e.j.outs s
  let s1 := r.1.setAtt l { e.j with outs := r.2 }
  let fin (u : Dev) : Dev := u.modLoom l (fun y => { y with att := none, width := 0, walks := if wk.isSome then y.walks.drop 1 else y.walks })
  if !r.2.isEmpty || !(s1.loom l).live then s1
  else match wk with
    | some i => (s1.writeSummaries e i i.summaries).forLoom s1 l e.j.smp.op fun _ u => fin u
    | none => fin s1

/-! ### The page list (R233, R242) -/

/-- Pages of the list before the gnomon: 0 to NP − 1 under SPLIT and MASK 10, with the pages written always listed. -/
def basicList (split : Bool) (mask win lowest m mm : Nat) (i : WalkInfo) : List Nat :=
  let np := i.pages
  (List.range np).filter (fun j =>
    (!split || (decide (m * np / mm ≤ j) && decide (j < (m + 1) * np / mm))) &&
    (mask != 2 || decide (lowest / 256 < j + win) || i.appended.contains j))

/-- The best candidate: highest score, ties to the higher page (R242). -/
def bestOf (l : List (Nat × FV)) : Option (Nat × FV) :=
  l.foldl (fun b c => match b with
    | none => some c
    | some d => if fvLt c.2 d.2 || (c.2.isNan && !d.2.isNan) then some d else some c) none

/-- The `n` best candidates. -/
def takeBest : Nat → List (Nat × FV) → List Nat
  | 0, _ => []
  | n + 1, l => match bestOf l with
    | none => []
    | some c => c.1 :: takeBest n (l.filter (fun d => d.1 != c.1))

def Dev.setWalk (s : Dev) (l n : Nat) (f : WalkInfo → WalkInfo) : Dev := s.modLoom l (fun x => { x with walks := lmod x.walks n f })

/-- Pages that the list always holds under the gnomon, and the candidates (R242). -/
def WalkInfo.always (i : WalkInfo) : List Nat := (List.range i.pages).filter (fun j => j + 1 == i.pages || i.appended.contains j)
def WalkInfo.cands (i : WalkInfo) : List Nat := (List.range i.pages).filter (fun j => !i.always.contains j)

/-- Slots of a tile row of summary tiles in the TSEG ring of the walk in progress: 64 candidates, one a row, in DT column tiles; the
spec gives the tiles no layout (DESIGN CHOICE, log entry 89). -/
def sumCoord (c : Ctx) (s : Dev) (d : Desc) (p : Sample) (g kb : Nat) : Nat × Nat × Nat :=
  ((d.rowBase + g) % 2 ^ 24, (d.colBase + kb) % 2 ^ 16, (c.at_ s d p 0 0 0).2.2)

/-- The next step towards a walk's page list (R232 step 6): without the gnomon it is formed at once; with it one tile row of
summaries is scored at a time, and the best candidates then fill the list up to WIN pages (R242). -/
def Dev.formList (s : Dev) (e : AttEnv) (i : WalkInfo) : Dev :=
  let l := e.c.l
  let x := s.loom l
  let np := i.pages
  if !attGnom e.w then
    s.setWalk l 0 (fun i => { i with list := some (basicList (attSplit e.w) (attMask e.w) (attWin e.w) (e.qPos s (some i) 0) x.member e.c.st.m i) })
  else if i.cands.length ≤ i.scores.length then
    let chosen := i.always ++ takeBest (attWin e.w - i.always.length) i.scores
    s.setWalk l 0 (fun i => { i with list := some ((List.range np).filter (fun j => chosen.contains j)) })
  else
    let g := i.scores.length / 64
    match (x.pick.map (·.smp)).bind (fun p => (e.c.st.desc (pickTSEG p.w)).map (fun d => (p, d))) with
    | none => s
    | some (p, d) =>
      let slots := (List.range e.dt).map (fun kb => ringSlot d (sumCoord e.c s d p g kb))
      if i.sums ≤ g then s
      else s.guardSlots l e.j.smp.op 0 (rdSlots e.c.stall x slots) fun s =>
        let (dr, s1) := s.draw
        let pages := (i.cands.drop (64 * g)).take 64
        let sc := pages.zipIdx.map (fun q =>
          let best := (List.range (e.rows s)).foldl (fun a r =>
            let dot := slots.zipIdx.foldl (fun a t => attDot s e true (dr * 4 + t.2) t.2 t.1 r q.2 a) (.ok .zero : XV)
            xmax a (xmul e.scale (byTensor e.dq dot))) (.ok (.inf true) : XV)
          (q.1, best.v))
        (((s1.readTiles l slots).count l 31 pages.length).count l 0 (2 * e.dt * pages.length)).setWalk l 0 (fun i => { i with scores := i.scores ++ sc })

/-! ### ATT -/

/-- The next step of an ATT that the array has taken: in paged mode the page list; then its blocks; then its output. -/
def Dev.attGo (s : Dev) (e : AttEnv) : Dev :=
  let go (wk : Option WalkInfo) : Dev :=
    if e.j.out then s.attFinish e wk else if e.j.done then s.attForm e wk else s.attStep e wk
  if e.paged then
    match (s.loom e.c.l).walks.head? with
    | some i => if !i.ready then s else if i.list.isNone then s.formList e i else go (some i)
    | none => s
  else go none

/-- The array takes an ATT once its query tiles stand ready, each in a slot of its own. -/
def Dev.attTake (s : Dev) (l : Nat) : Dev :=
  s.takeArr l 0x50 fun c p _ =>
    let j : AttJob := { smp := p, m := List.replicate 64 0xFF80, l := List.replicate 64 (0, none) }
    match attEnv c j with
    | none => s
    | some e =>
      if !decide (e.qSlots s).Nodup then s
      else s.guardSlots l p.op 1 (rdSlots c.stall (s.loom l) (e.qSlots s)) fun s =>
        (s.modLoom l (fun y => { y with
          att := some j, width := BitVec.ofNat 2 (max e.dq.format.cls e.dk.format.cls),
          acc := tdrop (fun k => decide (e.sl ≤ k % 256)) y.acc })).arrTaken l

/-- ATT (R216 to R225, R232): issue; the array takes it; then one step at a time. -/
def execAtt (l : LoomId) (s : State) : Host.Outcome State Fault Refusal := s.onDev fun s =>
  .next (match (s.loom l.val).att with
  | some _ =>
    let s1 := s.issueArr l.val 0x50
    (match s1.ctx l.val, (s1.loom l.val).att with
     | some c, some j => (match attEnv c j with
       | some e => if (s1.loom l.val).live then s1.attGo e else s1
       | none => s1)
     | _, _ => s1)
  | none => s.attTake l.val)

/-! ### The page walk (R230 to R235) -/

/-- Fields of the walk in progress; its record as it stood at issue (R230, R232 step 1). -/
structure WalkEnv where
  c : Ctx
  j : PickJob
  w : Nat
  dd : Desc
  dv : Desc
  r : WalkRec

def walkEnv (c : Ctx) (j : PickJob) : Option WalkEnv :=
  let w := j.smp.w
  match c.st.desc (pickTDST w), c.st.desc (pickTDST w + 1) with
  | some dd, some dv => some { c := c, j := j, w := w, dd := dd, dv := dv, r := walkRec (j.recs.getD 0 []) }
  | _, _ => none

/-- The job of a page walk at issue: the walk record and sequence record σ (R230, R232 step 1). -/
def walkJob (s : Dev) (x : LoomSt) (c : Ctx) (p : Sample) : PickJob :=
  let sg := match c.st.desc (pickTDST p.w) with
    | some d => (c.at_ s d p 0 0 0).1
    | none => 0
  let b := match c.st.desc (pickTIDX p.w) with
    | some d => benchBytes x (8192 * d.base + 64 + 8 * sg) 8
    | none => []
  { smp := p, recs := pickRecs x c p.w ++ [b] }

/-- The number of a page walk among those of its run, if it is issued now (R231). -/
def LoomSt.walkNo (x : LoomSt) : Nat := if x.walkRun.1 = x.runSeq then x.walkRun.2 else 0

/-- DT of the ATT that a walk issued now pairs with: the n-th of each in a run pair (R231). -/
def pairedDt (c : Ctx) (x : LoomSt) : Nat :=
  match ((execOrder pagedAtt 0 c.st.draft [] [])[x.walkNo]?).bind (fun a => c.st.desc (attTQ a.2)) with
  | some q => q.sr
  | none => 0

/-- Issue a PICK FN 4, or CAUSE 5 (R235). -/
def Dev.issueWalk (l : Nat) (s : Dev) : Dev :=
  s.withWord l 0x60 fun c p w =>
    let x := s.loom l
    let j := walkJob s x c p
    if pickFN w ≠ 4 ∨ x.pickNext.isSome then s
    else
      match walkEnv c j with
      | none => s
      | some e =>
        if e.r.type ≠ 4 ∨ e.r.nseq ≤ (c.at_ s e.dd p 0 0 0).1 ∨ e.r.dt ≠ pairedDt c x then s.pickFault l p.op
        else (s.modLoom l (fun y => { y with walkRun := (x.runSeq, x.walkNo + 1) })).putPick l j

/-- Pin the current epoch and read the header (R232 steps 2 and 3), or CAUSE 5 (R235). -/
def Dev.walkPin (s : Dev) (e : WalkEnv) : Dev :=
  let l := e.c.l
  let op := e.j.smp.op
  let co := e.c.at_ s e.dd e.j.smp 0 0 0
  let seqVa := u64 (e.j.recs.getD 4 []) 0 % 2 ^ 52
  let dom := tget {} (s.stall e.c.stall).epochs e.r.dom
  let s1 := (s.modStall e.c.stall (fun y => { y with epochs := tset {} y.epochs e.r.dom { dom with pinCur := dom.pinCur + 1 } })).modLoom l
    (fun y => { y with attEpoch := dom.epoch, attPinned := true, attPinDom := e.r.dom })
  (s1.tierRead e.c.stall e.c.src none seqVa 64).forLoom s l op fun h s2 =>
    let i : WalkInfo := { epoch := dom.epoch, sigma := co.1, plane := co.2.2, seqVa := seqVa, len := u32 h 0, new_ := u32 h 4,
                          npmax := u16 h 8, nplane := u16 h 10, qdiv := e.r.qdiv }
    if u16 h 16 ≠ 5 ∨ i.nplane ≤ i.plane ∨ 256 * i.npmax < i.n then s2.pickFault l op
    else (s2.count l 16 1).modLoom l (fun y => { y with walks := y.walks ++ [i], pick := some { e.j with phase := .append } })

def Dev.lastWalk (s : Dev) (l : Nat) : Nat := (s.loom l).walks.length - 1

/-- Append one token to a page (R229, R234): key, key scales, value, value scales. -/
def Dev.appendToken (s : Dev) (e : WalkEnv) (page tok : Nat) (key ksc val vsc : List Byte) : TRes Unit :=
  let d := 64 * e.r.dt
  let va := e.r.pageVa page
  let parts := [(va + tok * d, key), (va + 256 * d + tok * (d / 32), ksc), (va + 264 * d + tok * d, val), (va + 520 * d + tok * (d / 32), vsc)]
  parts.foldl (fun r p =>
    match r with
    | .ok _ s1 =>
      (match s1.tierWrite e.c.stall e.c.src none false p.1 p.2 with
       | .ok _ s2 => .ok () (s2.count e.c.l 17 (piecesOf p.1 p.2.length).length)
       | r => r)
    | r => r) (.ok () s)

/-- A row of a new tile pair's tiles: element codes and scale codes along the head dimension. -/
def newRow (x : LoomSt) (slots : List Nat) (row : Nat) : List Byte × List Byte :=
  let h := Handle.ofNat 0x22
  (slots.flatMap (fun i => (List.range 64).map (fun k => BitVec.ofNat 8 (elemCode (slotGet x i) 8 row k))),
   slots.flatMap (fun i => (List.range 2).map (fun b => BitVec.ofNat 8 (slotGet x i (scaleOff h 8 row (32 * b))))))

/-- Append the tokens of new tile group `g` (R232 step 4, R235): the pages missing, and the state after it. -/
def Dev.appendGroup (s : Dev) (e : WalkEnv) (i : WalkInfo) (g : Nat) (ks vs : List Nat) : TRes (List Nat) :=
  let l := e.c.l
  let x := s.loom l
  (List.range (min 64 (i.new_ - 64 * g))).foldl (fun r t =>
    match r with
    | .ok miss s1 =>
      let pos := i.len + 64 * g + t
      let page := pos / 256
      (match s1.tierRead e.c.stall e.c.src none (i.entryVa e.r.dt page) 4 with
       | .ok eb s2 =>
         let a := u32 eb 0
         let s2 := if (g = 0 ∧ t = 0) ∨ pos % 256 = 0 then s2.count l 16 1 else s2
         if a = 0xFFFFFFFF ∨ e.r.pages ≤ a then
           .ok (sinsert page miss) (s2.attMiss l { i with missing := miss } page (256 * page) (if a = 0xFFFFFFFF then 1 else 2) true)
         else
           let k := newRow x ks t
           let v := newRow x vs t
           (match s2.appendToken e a (pos % 256) k.1 k.2 v.1 v.2 with
            | .ok _ s3 => .ok miss (s3.count l 28 1)
            | .bad a b u => .bad a b u
            | .wait w => .wait w)
       | .bad a b u => .bad a b u
       | .wait w => .wait w)
    | r => r) (.ok i.missing s)

/-- The summary of a page from its entry and its keys as they now stand (R239, R241). -/
def Dev.pageSummary (s : Dev) (e : WalkEnv) (i : WalkInfo) (j : Nat) : TRes (List Byte) :=
  let d := 64 * e.r.dt
  match s.tierRead e.c.stall e.c.src none (i.entryVa e.r.dt j) 4 with
  | .ok eb s1 =>
    (match s1.tierRead e.c.stall e.c.src none (e.r.pageVa (u32 eb 0)) (256 * d) with
     | .ok keys s2 =>
       (match s2.tierRead e.c.stall e.c.src none (e.r.pageVa (u32 eb 0) + 256 * d) (8 * d) with
        | .ok sc s3 => let (dr, s4) := s3.draw; .ok (summaryOf e.c.special e.c.ftz dr d keys sc) s4
        | .bad v k u => .bad v k u
        | .wait w => .wait w)
     | .bad v k u => .bad v k u
     | .wait w => .wait w)
  | .bad v k u => .bad v k u
  | .wait w => .wait w

/-- The pages of step 4, and those of them whose token 255 it wrote (R233, R241). -/
def WalkInfo.written (i : WalkInfo) : List Nat := (List.range i.pages).filter (fun j => decide (i.len / 256 ≤ j))
def WalkInfo.filled (i : WalkInfo) : List Nat :=
  i.written.filter (fun j => decide (i.len ≤ 256 * j + 255) && decide (256 * j + 255 < i.n) && !i.missing.contains j)

/-- The next group of new tokens is appended (R232 step 4), or, after the last or where TSRC is zero, the summaries are taken of
the pages that are now full, and the walk's values go to the ATT (step 5). -/
def Dev.walkAppend (s : Dev) (e : WalkEnv) (i : WalkInfo) : Dev :=
  let l := e.c.l
  let op := e.j.smp.op
  let n := s.lastWalk l
  let g := e.j.next
  let pass (s : Dev) (app : List Nat) (sums : List (Nat × List Byte)) : Dev :=
    (s.setWalk l n (fun i => { i with ready := true, appended := app, summaries := sums })).modLoom l
      (fun y => { y with pick := some { e.j with phase := .deliver, next := 0 } })
  if pickTSRC e.w = 0 ∨ i.new_ = 0 then pass s [] []
  else if i.new_ ≤ 64 * g then
    let r : TRes (List (Nat × List Byte)) := i.filled.foldl (fun r j =>
      match r with
      | .ok acc s1 => (match s1.pageSummary e i j with
        | .ok b s2 => .ok (acc ++ [(j, b)]) s2
        | .bad a b u => .bad a b u
        | .wait w => .wait w)
      | r => r) (.ok [] s)
    r.forLoom s l op fun sums s1 => pass s1 i.written sums
  else
    match e.c.st.desc (pickTSRC e.w), e.c.st.desc (pickTSRC e.w + 1) with
    | some dk, some dv =>
      let ks := (List.range e.r.dt).map (fun kb => ringSlot dk (e.c.at_ s dk e.j.smp g kb 0))
      let vs := (List.range e.r.dt).map (fun kb => ringSlot dv (e.c.at_ s dv e.j.smp g kb 0))
      s.guardSlots l op 4 (rdSlots e.c.stall (s.loom l) (ks ++ vs)) fun s =>
        (s.appendGroup e i g ks vs).forLoom s l op fun miss s1 =>
          ((s1.readTiles l (ks ++ vs)).setWalk l n (fun i => { i with missing := miss })).modLoom l (fun y => { y with pick := some { e.j with next := g + 1 } })
    | _, _ => s

/-- A key group's tiles from its page's bytes (R229, R234): keys as stored, values transposed. -/
def groupTiles (n : Nat) (key ksc val vsc : List Byte) (d kb : Nat) : List Byte × List Byte :=
  let hk := Handle.ofNat 0x22
  let hv := Handle.ofNat 0x26
  (packTile 8 (fun x k => if x < n then u8 key (x * d + 64 * kb + k) else 0)
     ((List.range 64).flatMap (fun x => (List.range 2).map (fun b => (scaleOff hk 8 x (32 * b), if x < n then u8 ksc (x * (d / 32) + 2 * kb + b) else 0)))),
   packTile 8 (fun x k => if k < n then u8 val (k * d + 64 * kb + x) else 0)
     ((List.range 64).flatMap (fun k => (List.range 2).map (fun b => (scaleOff hv 8 (32 * b) k, if k < n then u8 vsc (k * (d / 32) + 2 * kb + b) else 0)))))

/-- Unpin the walk's epoch (R232 step 8); the walk ends. -/
def Dev.walkUnpin (s : Dev) (e : WalkEnv) (i : WalkInfo) : Dev :=
  let l := e.c.l
  let n := s.lastWalk l
  let s1 := s.modStall e.c.stall (fun y => { y with epochs := tmod {} y.epochs e.r.dom (fun d =>
    if d.epoch = i.epoch then { d with pinCur := d.pinCur - 1 } else { d with pinPrev := d.pinPrev - 1 }) })
  (s1.setWalk l n (fun i => { i with ended := true })).modLoom l (fun y => { y with pick := none, attPinned := false })

/-- A tile that a walk delivers. -/
def walkTile (e : WalkEnv) (i : WalkInfo) (t : Nat) (d : Desc) (co : Nat × Nat × Nat) (er ec : Nat) (last : Bool) (data : List Byte) : PendTile :=
  { t := t, coord := co, tile := {
      tag := mkTag { row := co.1, col := co.2.1, plane := co.2.2, extR := er, extC := ec, fmt := d.fmt, scale := d.scale,
                     stall := e.c.stall, last := last, epoch := i.epoch.toNat % 65536 },
      data := data } }

/-- Key tile `kb` of the walk's key group `k` lies at ROW_BASE + k and COL_BASE + kb, value tile `t` at ROW t and COL k (R233). -/
def keyAt (e : WalkEnv) (i : WalkInfo) (k kb : Nat) : Nat × Nat × Nat := ((e.dd.rowBase + k) % 2 ^ 24, (e.dd.colBase + kb) % 2 ^ 16, i.plane)
def valueAt (e : WalkEnv) (s : Dev) (k t : Nat) : Nat × Nat × Nat := (t % 2 ^ 24, k % 2 ^ 16, (e.c.at_ s e.dv e.j.smp 0 0 0).2.2)

/-- Deliver the next key group of the list (R232 step 7, R233 to R235). `e.j.next` counts groups of the list's pages, four
to a page. -/
def Dev.walkDeliver (s : Dev) (e : WalkEnv) (i : WalkInfo) (list : List Nat) : Dev :=
  let l := e.c.l
  let op := e.j.smp.op
  let n := s.lastWalk l
  let q := e.j.next
  match list[q / 4]? with
  | none => s.walkUnpin e i
  | some page =>
    let first := 256 * page + 64 * (q % 4)
    let toks := min 64 (i.n - first)
    let goto (s : Dev) (q : Nat) (outs : List PendTile) : Dev := s.modLoom l (fun y => { y with pick := some { e.j with next := q, outs := outs } })
    if toks = 0 then goto s (4 * (q / 4 + 1)) []
    else
      (s.tierRead e.c.stall e.c.src none (i.entryVa e.r.dt page) 4).forLoom s l op fun eb s1 =>
        let g := u32 eb 0
        let s1 := if q % 4 = 0 then s1.count l 16 1 else s1
        if g = 0xFFFFFFFF ∨ e.r.pages ≤ g then
          goto ((s1.attMiss l i page (256 * page) (if g = 0xFFFFFFFF then 1 else 2) false).setWalk l n (fun i => { i with missing := sinsert page i.missing }))
            (4 * (q / 4 + 1)) []
        else
          let k := i.groups.length
          let d := 64 * e.r.dt
          let va := e.r.pageVa g
          let t0 := 64 * (q % 4)
          (s1.tierRead e.c.stall e.c.src none (va + t0 * d) (toks * d)).forLoom s l op fun key s2 =>
          (s2.tierRead e.c.stall e.c.src none (va + 256 * d + t0 * (d / 32)) (toks * (d / 32))).forLoom s l op fun ksc s3 =>
          (s3.tierRead e.c.stall e.c.src none (va + 264 * d + t0 * d) (toks * d)).forLoom s l op fun val s4 =>
          (s4.tierRead e.c.stall e.c.src none (va + 520 * d + t0 * (d / 32)) (toks * (d / 32))).forLoom s l op fun vsc s5 =>
            let x := s.loom l
            let full := q % 4 == 3 || decide (i.n ≤ first + 64)
            let done := decide (list.length ≤ q / 4 + 1) && full
            let outs := (List.range e.r.dt).flatMap (fun b =>
              let t := groupTiles toks key ksc val vsc d b
              let lastB := done && b + 1 == e.r.dt
              [walkTile e i (pickTDST e.w) e.dd (keyAt e i k b) (toks - 1) 63 (lastB && e.dd.lastF && lastFor x e.j.smp (pickTDST e.w)) t.1,
               walkTile e i (pickTDST e.w + 1) e.dv (valueAt e s k b) 63 (toks - 1) (lastB && e.dv.lastF && lastFor x e.j.smp (pickTDST e.w + 1)) t.2])
            let wg : WalkGroup := { first := first, toks := toks, ks := (List.range e.r.dt).map (fun b => ringSlot e.dd (keyAt e i k b)),
                                    vs := (List.range e.r.dt).map (fun b => ringSlot e.dv (valueAt e s k b)) }
            let lines := (piecesOf (va + t0 * d) (toks * d)).length + (piecesOf (va + 256 * d + t0 * (d / 32)) (toks * (d / 32))).length +
              (piecesOf (va + 264 * d + t0 * d) (toks * d)).length + (piecesOf (va + 520 * d + t0 * (d / 32)) (toks * (d / 32))).length
            let s6 := (s5.count l 16 lines).setWalk l n (fun i => { i with groups := i.groups ++ [wg] })
            goto (if full then s6.count l 27 1 else s6) (q + 1) outs

/-- Deliver the next tile row of candidates' summaries through TSEG (R232 step 6, R242). -/
def Dev.walkSummaries (s : Dev) (e : WalkEnv) (i : WalkInfo) : Dev :=
  let l := e.c.l
  let pages := (i.cands.drop (64 * i.sums)).take 64
  match e.c.st.desc (pickTSEG e.w) with
  | none => s
  | some d =>
    if pickTSEG e.w = 0 ∨ pages = [] then s
    else
      let r : TRes (List (List Byte)) := pages.foldl (fun r j =>
        match r with
        | .ok acc s1 => (match s1.tierRead e.c.stall e.c.src none (i.summaryVa e.r.dt j) (128 * e.r.dt) with
          | .ok b s2 => .ok (acc ++ [b]) s2
          | .bad a b u => .bad a b u
          | .wait w => .wait w)
        | r => r) (.ok [] s)
      r.forLoom s l e.j.smp.op fun rows s1 =>
        let outs := (List.range e.r.dt).map (fun kb =>
          walkTile e i (pickTSEG e.w) d (sumCoord e.c s d e.j.smp i.sums kb) (pages.length - 1) 63 false
            (packTile 16 (fun x k => if x < pages.length then u16 (rows.getD x []) (2 * (64 * kb + k)) else 0) []))
        ((s1.count l 16 (2 * e.r.dt * pages.length)).setWalk l (s.lastWalk l) (fun i => { i with sums := i.sums + 1 })).modLoom l
          (fun y => { y with pick := some { e.j with outs := outs } })

/-- PICK FN 4 (R231 to R235): issue; then the pin and the header; the append; the summaries under the gnomon; and one key group
after another, each tile as its slot is EMPTY, until the walk unpins its epoch. -/
def execPickPageWalk (l : LoomId) (s : State) : Host.Outcome State Fault Refusal := s.onDev fun s =>
  .next (s.onPick l.val 4 (Dev.issueWalk l.val) fun s c j =>
    match walkEnv c j with
    | none => s
    | some e =>
      if !j.outs.isEmpty then
        let r := Dev.flush c 4 (fun _ => false) j.smp j.outs s
        r.1.modLoom l.val (fun y => { y with pick := some { j with outs := r.2 } })
      else
        match j.phase, (s.loom l.val).walks.getLast? with
        | .pin, _ => s.walkPin e
        | .append, some i => s.walkAppend e i
        | .deliver, some i => (match i.list with
          | some lst => s.walkDeliver e i lst
          | none => s.walkSummaries e i)
        | _, _ => s)

/-! ### Epochs and the miss latch (R235, R237) -/

/-- PGE_PUBLISH (R237): a write of VALUE to SCH_PGE_PUBLISH of a domain, by the physical function or the stall's own, after
the function's earlier BAR4 writes have landed. -/
def execPgePublish (fn : FnId) (st : StallId) (dom : Fin 16) (v : W32) (s : State) : Host.Outcome State Fault Refusal := s.onDev fun s =>
  if fn.val = 0 ∨ fn.val = st.val + 1 then
    s.hostCmd fn.val (if (s.stallRec st.val).isNone then s else s.modStall st.val (fun x =>
      let d := tget {} x.epochs dom.val
      let d1 : EpochDom := if v = d.epoch + 1 ∧ d.pinPrev = 0 then { d with epoch := v, pinPrev := d.pinCur, pinCur := 0 } else { d with refused := true }
      { x with epochs := tset {} x.epochs dom.val d1 }))
  else .next s

/-- ATT_MISS_CLEAR (R235, R244): writing 1 to LOM_ATT_STATUS.MISS clears the latch and re-arms it. -/
def execAttMissClear (fn : FnId) (l : LoomId) (s : State) : Host.Outcome State Fault Refusal := s.onDev fun s =>
  s.host (if s.fnReaches fn.val l.val then s.modLoom l.val (fun x => { x with attMiss := false }) else s)

end Sys2Proof.Machine
end

