-- ==== Sys2Proof/Machine/Upd.lean ====
section
/-!
DEFINITION. Parameter update (R272 to R299): UPD and the shard steps in its three modes.
-/
namespace Sys2Proof.Machine

/-! ### The ledger (R275 to R278) -/

structure LedgerRec where
  va : Nat
  entries : Nat
  nt : Nat
  lbase : List Nat

/-- The ledger record in descriptor 15's region; none where R299 refuses it. -/
def ledgerRec (x : LoomSt) (d : Desc) : Option LedgerRec :=
  let b := benchBytes x (8192 * d.base) 64
  let r : LedgerRec := { va := u64 b 0, entries := u32 b 8, nt := u16 b 12, lbase := (List.range 7).map (fun t => u32 b (20 + 4 * t)) }
  if r.va < 2 ^ 52 ∧ r.va % 64 = 0 ∧ 1 ≤ r.entries ∧ 1 ≤ r.nt ∧ r.nt ≤ 256 ∧ u16 b 14 = 0 ∧ u16 b 16 = 7 ∧ u16 b 18 = 0 ∧ allZero b 48 16 = true
  then some r else none

/-- The ledger header is well formed (R276). -/
def ledgerHeadOk (b : List Byte) : Bool := u16 b 16 == 8 && allZero b 2 14 && allZero b 18 46

/-- The tile number that a UPD's TW coordinates give (R274). -/
def shardT0 (d : Desc) (co : Nat × Nat × Nat) : Nat := co.2.2 * d.sp + co.1 * d.sr + co.2.1

/-- Coordinates of tile number `n` under TW's strides (R274). -/
def tileCoord (d : Desc) (n : Nat) : Nat × Nat × Nat := ((n % max d.sp 1) / max d.sr 1, n % max d.sr 1, n / max d.sp 1)

def bf16 (c : Nat) : FV := Fmt.value .bf16 false c

/-- The loom faults with CAUSE 5 at a UPD (R289, R290, R299). -/
def Dev.updFault (s : Dev) (l op : Nat) : Dev := s.faultLoom l 5 0 0 0 op

/-- UPD (R142, R275, R276, R289, R299): the word is issued; the ledger header is read at the run's first UPD, and the
shard's entry with one line read; the shard begins. -/
def execUpd (l : LoomId) (s : State) : Host.Outcome State Fault Refusal := s.onDev fun s =>
  .next (s.withWord l.val 0x40 fun c p w =>
    withDesc c 15 (fun d15 => withDesc c (updTW w) (fun dw =>
      let x := s.loom l.val
      if x.upd.isSome then s
      else
        match ledgerRec x d15 with
        | none => s.updFault l.val p.op
        | some r =>
          let held : Option W16 := match x.updRun with
            | some (q, v) => if q = p.runSeq then some v else none
            | none => none
          let head : TRes (List Byte) := match held with
            | some v => .ok (natLe 2 v.toNat ++ List.replicate 14 0 ++ natLe 2 8 ++ List.replicate 46 0) s
            | none => s.tierRead c.stall c.src none r.va 64
          head.forLoom s l.val p.op fun h s1 =>
            let t0 := shardT0 dw (c.at_ s dw p 0 0 0)
            let e := r.lbase.getD (updTW w) 0 + t0 / r.nt
            if !ledgerHeadOk h || t0 % r.nt != 0 || decide (r.entries ≤ e) then s1.updFault l.val p.op
            else
              (s1.tierRead c.stall c.src none (r.va + 64 + 64 * e) 64).forLoom s l.val p.op fun b s2 =>
                let mode := u8 b 20
                if 2 < mode ∨ (mode = 0 ∧ (u32 b 0 + 1) % 2 ^ 32 ≠ p.version.toNat) then s2.updFault l.val p.op
                else
                  let lrs : W16 := BitVec.ofNat 16 (u16 h 0)
                  advance (s2.modLoom l.val (fun y => { y with
                    updRun := some (p.runSeq, lrs), updEntry := BitVec.ofNat 32 e,
                    upd := some { smp := p, mode := mode, va := r.va + 64 + 64 * e, entryNo := e, entry := b, t0 := t0, nt := r.nt, lrs := lrs,
                                  fdraw := x.runDraw, pass := if mode = 2 then 3 else 1, n := extCode .zero } })) l.val) s) s)

/-! ### Run factors (R280, R281) -/

def coef (c : Ctx) (w i : Nat) : Nat :=
  match c.plan.coefs.find? (fun e => e.1 == c.st.num && e.2.1 == updCset w) with
  | some e => e.2.2.getD i 0
  | none => 0

def coefV (c : Ctx) (w i : Nat) : XV := .ok (bf16 (coef c w i))

/-- A run factor as held: a BF16 value rounded to nearest. -/
def held (special : Bool) (v : XV) : XV := .ok (bfVal (bfRound special v.v))

structure Factors where
  lr : XV
  lam : XV
  eps : XV
  r1 : XV
  r2 : XV

/-- (1 − c) to the power n in the extended sum, by repeated squaring over the 33 bits of n. -/
def xpow (b : XV) (n : Nat) : XV :=
  ((List.range 33).foldl (fun (a : XV × XV) i => (if bit n i then xmul a.1 a.2 else a.1, xmul a.2 a.2)) (xOne, b)).1

def factors (c : Ctx) (w : Nat) (step lrs draw : Nat) : Factors :=
  let u := updExp w
  let p2 (z : Int) : XV := .ok (.fin false (pow2 z))
  let ls : XV := if lrs = 0 then xOne else .ok (bf16 lrs)
  let base := xmul (coefV c w 0) ls
  let corr (i k : Nat) : XV :=
    if coef c w 9 ≠ 0 ∧ updAlg w = 0 then held c.special (xrecip draw k (xsub xOne (xpow (xsub xOne (coefV c w i)) (step + 1)))) else xOne
  { lr := held c.special (if updAlg w = 0 then base else xmul base (p2 (-u))),
    lam := held c.special (xmul base (coefV c w 6)),
    eps := held c.special (xmul (coefV c w 5) (p2 u)),
    r1 := corr 1 (2 ^ 24), r2 := corr 2 (2 ^ 24 + 1) }

/-! ### Tiles of a shard -/

structure UpdEnv where
  c : Ctx
  j : UpdJob
  w : Nat
  dw : Desc

/-- Tile `i` of the shard: its coordinates and its slot in a descriptor. -/
def UpdEnv.co (e : UpdEnv) (i : Nat) : Nat × Nat × Nat := tileCoord e.dw (e.j.t0 + i)
def UpdEnv.desc (e : UpdEnv) (t : Nat) : Desc := (e.c.st.desc t).getD e.dw
def UpdEnv.slot (e : UpdEnv) (t i : Nat) : Nat := ringSlot (e.desc t) (e.co i)

def UpdEnv.usesM1 (e : UpdEnv) : Bool := decide (updAlg e.w ≤ 1)
def UpdEnv.usesM2 (e : UpdEnv) : Bool := updAlg e.w == 0
def UpdEnv.usesE (e : UpdEnv) : Bool := updEma e.w
def UpdEnv.keeps (e : UpdEnv) : Bool := updKeep e.w

/-- Dev descriptors read beside the gradient, with their output partners written. -/
def UpdEnv.states (e : UpdEnv) : List Nat :=
  updTW e.w :: ((if e.usesM1 then [updTM1 e.w] else []) ++ ((if e.usesM2 then [updTM2 e.w] else []) ++
    ((if e.usesE then [updTE e.w] else []) ++ (if e.keeps then [updTR e.w] else []))))

def UpdEnv.gsel (e : UpdEnv) (x : LoomSt) (i : Nat) : List (List XV) :=
  matMap (fun _ _ v => ⟨extRound (match v.v with
    | .fin s m => .fin s (m * pow2 (updExp e.w))
    | u => u), none⟩) (slotVals x e.c.ftz (e.slot (updTG e.w) i))

def UpdEnv.lastAt (e : UpdEnv) (x : LoomSt) (t i : Nat) : Bool :=
  (e.desc t).lastF && i + 1 == e.j.nt && lastFor x e.j.smp t

/-- The extents of tile `i` written through a descriptor: edges are those of the shard's largest row and column (R134). -/
def UpdEnv.ext (e : UpdEnv) (t i : Nat) : Nat × Nat :=
  let d := e.desc t
  let cs := (List.range e.j.nt).map e.co
  (edgeExt e.j.smp d.rowMap d.lastRows (cs.all (fun c => decide (c.1 ≤ (e.co i).1))),
   edgeExt e.j.smp d.colMap d.lastCols (cs.all (fun c => decide (c.2.1 ≤ (e.co i).2.1))))

/-- The slot of tile `i`'s master, the operation's first operand tile (R134). -/
def UpdEnv.masterAt (e : UpdEnv) (i : Nat) : Nat := e.slot (updTW e.w) i

/-- Tile `i` of the shard with given bytes, as it waits to be written through a descriptor (R134). -/
def UpdEnv.pend (e : UpdEnv) (x : LoomSt) (t i : Nat) (data : List Byte) : PendTile :=
  let d := e.desc t
  let co := e.co i
  { t := t, coord := co, tile := {
      tag := mkTag { row := co.1, col := co.2.1, plane := co.2.2, extR := (e.ext t i).1, extC := (e.ext t i).2, fmt := d.fmt, scale := d.scale,
                     stall := e.c.stall, last := e.lastAt x t i, epoch := epochOf d e.j.smp (tagEpoch (x.slot (e.masterAt i)).tag) },
      data := data } }

/-- A tile of a shard written with the element bits of slot `src` (R285, R290). -/
def UpdEnv.copy (e : UpdEnv) (x : LoomSt) (t i src : Nat) : PendTile := e.pend x t i (slotBytes x src)

/-- The residual written +0 with scale code 0x7F (R253). -/
def UpdEnv.cleared (e : UpdEnv) (x : LoomSt) (t i : Nat) : PendTile :=
  let d := e.desc t
  e.pend x t i (packTile d.format.width (fun _ _ => 0) ((blocksOf d.handle d.format.width).map (fun b => (b.1, 0x7F))))

/-- A converted tile of a shard (R282). -/
def UpdEnv.out (e : UpdEnv) (c : Ctx) (x : LoomSt) (t i : Nat) (sc : ScaleSrc) (sr : Bool) (draw : Nat) (vals : List (List XV)) : OutTile :=
  mkOut c e.j.smp t (e.desc t) (e.co i) (e.ext t i).1 (e.ext t i).2 (e.lastAt x t i)
    (epochOf (e.desc t) e.j.smp (tagEpoch (x.slot (e.masterAt i)).tag)) sc sr 2 draw extMax vals

/-- The working copy of tile `i`: its conversion depends on the master's element bits, the extents and the TQ handle alone, in
whatever modes the station runs (R291); an element beyond the format saturates (R292). -/
def UpdEnv.working (e : UpdEnv) (x : LoomSt) (i draw : Nat) (vals : List (List XV)) : OutTile :=
  e.out { e.c with special := false, ftz := false } x (updTQ e.w) i .computed false draw vals

def outVals (o : OutTile) : List (List XV) := matBuild (storedVal o)

def Dev.setUpd (s : Dev) (l : Nat) (j : UpdJob) : Dev := s.modLoom l (fun x => { x with upd := some j })

/-- Bytes 0 to 15 of a shard's entry at its end (R277). -/
def UpdEnv.entryBytes (e : UpdEnv) (published flags skips : Nat) (measured : Bool) : List Byte :=
  let b := e.j.entry
  let nsq := if measured then (bfRound e.c.special (extVal e.j.n)).toNat else u16 b 8
  let nf := if measured then min e.j.nf 65535 else u16 b 10
  natLe 4 published ++ (natLe 4 e.j.smp.step.toNat ++ (natLe 2 nsq ++ (natLe 2 nf ++ (natLe 1 flags ++ (natLe 1 0 ++ natLe 2 skips)))))

/-- The shard's finished tiles are written as their slots are EMPTY (R108, R133). `conv`: the descriptors of converted ones. -/
def Dev.updFlush (s : Dev) (e : UpdEnv) (conv : Nat → Bool) : Dev :=
  let r := Dev.flush e.c 3 conv e.j.smp e.j.outs s
  r.1.setUpd e.c.l { e.j with outs := r.2 }

/-- Every tile write of the shard has been acknowledged: no tile of the run is on its way through a channel ring (R278, R289). -/
def UpdEnv.acked (e : UpdEnv) (x : LoomSt) : Bool := !x.outq.any (fun q => q.2.any (fun i => i.run == e.j.smp.runSeq))

/-- The shard ends once its tile writes are acknowledged: its entry's bytes are written with one write (R278). -/
def Dev.shardEnd (s : Dev) (e : UpdEnv) (published flags skips : Nat) (measured : Bool) : Dev :=
  if !e.acked (s.loom e.c.l) then s else
  (s.tierWrite e.c.stall e.c.src none false e.j.va (e.entryBytes published flags skips measured)).forLoom s e.c.l e.j.smp.op fun _ s1 =>
    s1.modLoom e.c.l (fun x => { x with upd := none, updFlags := BitVec.ofNat 8 flags })

/-- Pass 1 on one gradient tile (R282): N and the non-finite count. -/
def pass1Tile (e : UpdEnv) (x : LoomSt) (draw : Nat) : UpdJob × Nat :=
  let g := e.gsel x e.j.i
  let els := g.flatMap id
  let bad := (els.filter (fun v => match v.v with
    | .fin _ _ => false
    | _ => true)).length
  let t := freeSum draw 0 (els.map (fun v => xmul v v))
  ({ e.j with i := e.j.i + 1, n := extCode (xadd (.ok (extVal e.j.n)) t).v, nf := e.j.nf + bad }, bad)

/-- Gradient elements of a tile with a magnitude of 2^63 or more (R263). -/
def gbig (e : UpdEnv) (x : LoomSt) : Nat :=
  ((e.gsel x e.j.i).flatMap id |>.filter (fun v => match v.v with
    | .nan => false
    | .inf _ => true
    | .fin _ m => decide (pow2 63 ≤ m))).length

/-- Second-moment elements written as subnormal or zero where the exact result is not zero (R263). -/
def msub (o : OutTile) (vOld g : List (List XV)) (c2 : XV) : Nat :=
  (((List.range (o.extR + 1)).flatMap (fun a => (List.range (o.extC + 1)).map (fun k => (a, k)))).filter (fun q =>
    let gv := matGet g q.1 q.2
    let v := matGet vOld q.1 q.2
    let exact := xaddExact v (xmulExact noK c2 (xaddExact (xmulExact noK gv gv) v.neg))
    match exact.v, (storedVal o q.1 q.2).v with
    | .fin _ m, .fin _ n => m != 0 && decide (n < pow2 (-126))
    | _, _ => false)).length

def finiteV (v : FV) : Bool := match v with
  | .fin _ _ => true
  | _ => false

/-- The flags after pass 1 (R277, R282): SKIPPED with its causes. -/
def gateFlags (e : UpdEnv) : Nat :=
  let n := extVal e.j.n
  let gate : FV := if u16 e.j.entry 16 = 0 then .inf false else bf16 (u16 e.j.entry 16)
  let c : FV := if u16 e.j.entry 18 = 0 then .one else bf16 (u16 e.j.entry 18)
  let nonfin := e.j.nf != 0 || !finiteV n
  let above := updGate e.w && fvLt gate n
  let clip := !finiteV c || !fvLt .zero c
  b2n (nonfin || above || clip) + 2 * b2n nonfin + 4 * b2n above + 8 * b2n clip

/-! What pass 2 writes for the next tile (R282): the moments, the master, the running average, the working copy. -/

/-- The run's factors, formed of one draw for the whole run (R281). -/
def UpdEnv.factors (e : UpdEnv) : Factors := Sys2Proof.Machine.factors e.c e.w e.j.smp.step.toNat e.j.lrs.toNat e.j.fdraw
def UpdEnv.vals (e : UpdEnv) (x : LoomSt) (t : Nat) : List (List XV) := slotVals x e.c.ftz (e.slot t e.j.i)
def UpdEnv.master (e : UpdEnv) : Nat := e.masterAt e.j.i

/-- The gradient times the clip factor, exactly. -/
def UpdEnv.grad (e : UpdEnv) (x : LoomSt) : List (List XV) :=
  let clip : XV := if u16 e.j.entry 18 = 0 then xOne else .ok (bf16 (u16 e.j.entry 18))
  matMap (fun _ _ v => xmulExact noK clip v) (e.gsel x e.j.i)

def UpdEnv.outM (e : UpdEnv) (x : LoomSt) (dr : Nat) : OutTile :=
  let g := e.grad x
  let mOld := e.vals x (updTM1 e.w)
  let c1 := coefV e.c e.w 1
  e.out e.c x (updTM1 e.w + 8) e.j.i .none false (dr * 256 + 1) (matBuild (fun a k =>
    let gv := (matGet g a k).round
    let m := matGet mOld a k
    if updAlg e.w = 0 then xadd m (xmul c1 (xsub gv m)) else xadd (xmul c1 m) gv))

def UpdEnv.outV (e : UpdEnv) (x : LoomSt) (dr : Nat) : OutTile :=
  let g := e.grad x
  let vOld := e.vals x (updTM2 e.w)
  let c2 := coefV e.c e.w 2
  e.out e.c x (updTM2 e.w + 8) e.j.i .none false (dr * 256 + 2) (matBuild (fun a k =>
    let gv := (matGet g a k).round
    let v := matGet vOld a k
    xadd v (xmul c2 (xsub (xmul gv gv) v))))

def UpdEnv.outW (e : UpdEnv) (x : LoomSt) (dr : Nat) : OutTile :=
  let f := e.factors
  let g := e.grad x
  let om := e.outM x dr
  let ov := e.outV x dr
  let wv := e.vals x (updTW e.w)
  let delta (a k : Nat) : XV :=
    match updAlg e.w with
    | 0 => xmul (xmul f.lr (xmul (storedVal om a k) f.r1))
        (xrecip dr (64 * a + k) (xadd (xsqrt (xmul (storedVal ov a k) f.r2)) f.eps))
    | 1 => xmul f.lr (storedVal om a k)
    | _ => xmul f.lr (matGet g a k)
  e.out e.c x (updTW e.w + 8) e.j.i .none true (dr * 256 + 3) (matBuild (fun a k =>
    let v := matGet wv a k
    xaddExact (xaddExact v (xmulExact noK f.lam v).neg) (delta a k).neg))

/-- The running average: e + C7 × (w′ − e) is presented to SR as the exact sum of e and the rounded product (R75, R282, R293). -/
def UpdEnv.outE (e : UpdEnv) (x : LoomSt) (dr : Nat) : OutTile :=
  let wOut := outVals (e.outW x dr)
  let c7 := coefV e.c e.w 7
  let eOld := e.vals x (updTE e.w)
  e.out e.c x (updTE e.w + 8) e.j.i .none (e.j.smp.step != 0) (dr * 256 + 4) (if e.j.smp.step = 0 then wOut
    else matBuild (fun a k => let o := matGet eOld a k; xaddExact o (xmul c7 (xsub (matGet wOut a k) o))))

def UpdEnv.outQ (e : UpdEnv) (x : LoomSt) (dr : Nat) : OutTile :=
  e.working x e.j.i (dr * 256 + 5) (outVals (e.outW x dr))

/-- The tiles that pass 2 writes, in order. -/
def UpdEnv.tiles (e : UpdEnv) (x : LoomSt) (dr : Nat) : List OutTile :=
  e.outW x dr :: ((if e.usesM1 then [e.outM x dr] else []) ++ ((if e.usesM2 then [e.outV x dr] else []) ++
    ((if e.usesE then [e.outE x dr] else []) ++ [e.outQ x dr])))

/-- The slots that the next tile of pass 2 or of a skip reads. -/
def UpdEnv.reads (e : UpdEnv) : List Nat := e.slot (updTG e.w) e.j.i :: e.states.map (fun t => e.slot t e.j.i)

/-- Pass 2 on tile `i` (R282): its tiles are formed, and wait for their slots. -/
def Dev.updTile (s : Dev) (e : UpdEnv) : Dev :=
  let l := e.c.l
  let x := s.loom l
  let i := e.j.i
  let w := e.w
  let (dr, s) := s.draw
  let os := e.tiles x dr
  let s1 := os.foldl (fun t o => t.raiseOut e.c e.j.smp o) s
  let s2 := if e.usesM2 then s1.count l 37 (msub (e.outV x dr) (e.vals x (updTM2 w)) (e.grad x) (coefV e.c w 2)) else s1
  ((s2.readTiles l e.reads).count l 39 1).setUpd l { e.j with
    i := i + 1, outs := os.map (·.pend e.c.stall) ++ (if e.keeps then [e.copy x (updTR w + 8) i (e.slot (updTR w) i)] else []) }

/-- A skipped tile (R285): every state copied, the residual cleared and its elements counted (R253, R270). TQ keeps the working
bits that the unchanged master gives, its conversion being a function of the master alone (R291). -/
def Dev.skipTile (s : Dev) (e : UpdEnv) : Dev :=
  let l := e.c.l
  let x := s.loom l
  let i := e.j.i
  let w := e.w
  let sw := e.masterAt i
  let (dr, s) := s.draw
  let q := e.working x i (dr * 256 + 5) (slotVals x false sw)
  let tr := if e.keeps then updTR w + 8 else updTR w
  let outs := e.copy x (updTW w + 8) i sw ::
    ((if e.usesM1 then [e.copy x (updTM1 w + 8) i (e.slot (updTM1 w) i)] else []) ++
    ((if e.usesM2 then [e.copy x (updTM2 w + 8) i (e.slot (updTM2 w) i)] else []) ++
    ((if e.usesE then [e.copy x (updTE w + 8) i (if e.j.smp.step = 0 then sw else e.slot (updTE w) i)] else []) ++
    [q.pend e.c.stall, e.cleared x tr i])))
  (((s.raiseOut e.c e.j.smp q).readTiles l e.reads).count l 32 (((e.ext tr i).1 + 1) * ((e.ext tr i).2 + 1))).setUpd l { e.j with i := i + 1, outs := outs }

/-- A live loom's UPD in progress in a mode. -/
def Dev.withUpd (s : Dev) (l mode : Nat) (k : UpdEnv → Dev) : Dev :=
  match s.ctx l, (s.loom l).upd with
  | some c, some j =>
    if j.mode ≠ mode || !(s.loom l).live then s
    else
      match c.st.desc (updTW j.smp.w) with
      | some dw => k { c := c, j := j, w := j.smp.w, dw := dw }
      | none => s
  | _, _ => s

/-- UPD_APPLY (R282 to R285, R289): the next tile of pass 1; the decision; the next tile of pass 2 or of the skip; the
publication. -/
def execUpdApply (l : LoomId) (s : State) : Host.Outcome State Fault Refusal := s.onDev fun s =>
  .next (s.withUpd l.val 0 fun e =>
    let x := s.loom l.val
    let op := e.j.smp.op
    if !e.j.outs.isEmpty then s.updFlush e (fun t => if e.j.pass = 3 then t == updTQ e.w else t != updTR e.w + 8)
    else if e.j.pass = 1 then
      if e.j.i < e.j.nt then
        s.guardSlots l.val op 3 (rdSlots e.c.stall x [e.slot (updTG e.w) e.j.i]) fun s =>
          let (dr, s) := s.draw
          let r := pass1Tile e x dr
          ((s.setUpd l.val r.1).count l.val 41 r.2).count l.val 38 (gbig e x)
      else
        let fl := gateFlags e
        s.setUpd l.val { e.j with i := 0, flags := fl, pass := if fl = 0 then 2 else 3 }
    else if e.j.i < e.j.nt then
      let skip := e.j.pass == 3
      s.guardSlots l.val op 3 (rdSlots e.c.stall x e.reads) fun s =>
        if skip then s.skipTile e else s.updTile e
    else
      let skip := e.j.pass == 3
      let skips := if skip then min (u16 e.j.entry 14 + 1) 65535 else u16 e.j.entry 14
      let s1 := s.shardEnd e e.j.smp.version.toNat e.j.flags skips true
      if skip && (s1.loom l.val).upd.isNone then s1.count l.val 40 1 else s1)

/-- UPD_MEASURE (R286): pass 1 alone, its gradient tiles consumed; NORMSQ, NONFIN, STEP and FLAGS[1] are written. -/
def execUpdMeasure (l : LoomId) (s : State) : Host.Outcome State Fault Refusal := s.onDev fun s =>
  .next (s.withUpd l.val 1 fun e =>
    let x := s.loom l.val
    if e.j.i < e.j.nt then
      let i := e.slot (updTG e.w) e.j.i
      s.guardSlots l.val e.j.smp.op 3 (rdSlots e.c.stall x [i]) fun s =>
        let (dr, s) := s.draw
        let r := pass1Tile e x dr
        (((s.setUpd l.val r.1).count l.val 41 r.2).count l.val 38 (gbig e x)).readTiles l.val [i]
    else
      let nonfin := e.j.nf != 0 || !finiteV (extVal e.j.n)
      let old := u8 e.j.entry 12
      s.shardEnd e (u32 e.j.entry 0) (old % 2 + 2 * b2n nonfin + 4 * (old / 4)) (u16 e.j.entry 14) true)

/-- UPD_FETCH (R290, R291): the master tile of the next slot is taken, released as older, or faults the loom as newer; with
the last one the shard is published. -/
def execUpdFetch (l : LoomId) (s : State) : Host.Outcome State Fault Refusal := s.onDev fun s =>
  .next (s.withUpd l.val 2 fun e =>
    let x := s.loom l.val
    let op := e.j.smp.op
    if !e.j.outs.isEmpty then s.updFlush e (fun t => t == updTQ e.w)
    else if e.j.i < e.j.nt then
      let sw := e.masterAt e.j.i
      s.guardSlots l.val op 3 (rdSlots e.c.stall x [sw]) fun s =>
        let d := (e.j.smp.version.toNat % 65536 + 65536 - tagEpoch (x.slot sw).tag) % 65536
        if 32768 ≤ d then s.updFault l.val op
        else if d ≠ 0 then (s.modLoom l.val (fun y => readDone y sw)).count l.val 43 1
        else
          let (dr, s) := s.draw
          let q := e.working x e.j.i (dr * 256 + 5) (slotVals x false sw)
          (((s.raiseOut e.c e.j.smp q).readTiles l.val [sw]).count l.val 42 1).setUpd l.val
            { e.j with i := e.j.i + 1, outs := [e.copy x (updTW e.w + 8) e.j.i sw, q.pend e.c.stall] }
    else s.shardEnd e e.j.smp.version.toNat (u8 e.j.entry 12) (u16 e.j.entry 14) false)

end Sys2Proof.Machine
end

