-- ==== Sys2Proof/Machine/Xfer.lean ====
section
/-!
DEFINITION. Collectives (R348 to R351, R358) and the apex (R226, R352, R354).
-/
namespace Sys2Proof.Machine

/-! ### The apex -/

/-- APX (R145, R352): the word is issued; its output tile takes the next partial number of its run. -/
def execApx (l : LoomId) (s : State) : Host.Outcome State Fault Refusal := s.onDev fun s =>
  .next (s.withWord l.val 0x70 fun _ p w =>
    let x := s.loom l.val
    if x.apx.isSome then s
    else
      let e := tget (0, 0) x.apxRun (apxTIN w)
      let j := if e.1 = p.runSeq + 1 then e.2 else 0
      advance (s.modLoom l.val (fun y => { y with
        apx := some { smp := p, j := j }, apxRun := tset (0, 0) y.apxRun (apxTIN w) (p.runSeq + 1, j + 1) })) l.val)

/-- One row of R226 over the partials in arrival order: the partial (m, l) and O values. -/
def apxRow (draw idx : Nat) (ps : List (XV × XV × List XV)) : List XV :=
  let r := ps.zipIdx.foldl (fun (a : XV × XV × List XV) p =>
    let (m, l, o) := p.1
    let mn := xmax a.1 m
    let al : XV := if a.1.v = .inf true then .ok .zero else xexp draw (idx + 4 * p.2) (xsub a.1 mn)
    let be : XV := if m.v = .inf true then .ok .zero else xexp draw (idx + 4 * p.2 + 1) (xsub m mn)
    (mn, xadd (xmul al a.2.1) (xmul be l), (a.2.2.zip o).map (fun q => xadd (xmul al q.1) (xmul be q.2))))
    ((.ok (.inf true), .ok .zero, List.replicate 64 (.ok .zero)) : XV × XV × List XV)
  if r.2.1.v.isZero then List.replicate 64 (.ok .zero)
  else r.2.2.map (fun v => xmul v (xrecip draw (idx + 3) r.2.1))

/-- The slots of an output tile's P partials, one of each sender's credits (R354), and of their (m, l) tiles. -/
def apxIns (di : Desc) (j : ApxJob) : List Nat :=
  let n := apxP j.smp.w
  let credits := di.depth / n
  (List.range n).map (fun i => di.base + i * credits + j.j % max credits 1)

def apxMls (di dm : Desc) (j : ApxJob) : List Nat := if apxKind j.smp.w then (apxIns di j).map (fun i => dm.base + (i - di.base)) else []

/-- What the apex makes of the partials: their pairwise sum (R352), or R226 in the order in which they became FULL. -/
def apxVals (c : Ctx) (x : LoomSt) (di dm : Desc) (j : ApxJob) (dr : Nat) : List (List XV) :=
  let ins := apxIns di j
  if apxKind j.smp.w then
    let order := x.apxOrder.filter (fun i => ins.contains i)
    let all := order ++ ins.filter (fun i => !order.contains i)
    let ps := all.map (fun i => (slotVals x c.ftz i, slotVals x c.ftz (dm.base + (i - di.base))))
    (List.range 64).map (fun r => apxRow dr (r * 4096) (ps.map (fun q => (matGet q.2 r 0, matGet q.2 r 1, q.1.getD r []))))
  else
    let ps := ins.map (slotVals x c.ftz)
    matBuild (fun a k => treeSum (treeDepth ins.length) (ps.map (fun m => matGet m a k)))

def apxOut (c : Ctx) (s : Dev) (di dm dz : Desc) (j : ApxJob) (dr : Nat) : OutTile :=
  let x := s.loom c.l
  let p := j.smp
  let w := p.w
  mkOut c p (apxTOUT w) dz (c.at_ s dz p 0 0 0) (edgeExt p dz.rowMap dz.lastRows true) (edgeExt p dz.colMap dz.lastCols true)
    (dz.lastF && lastFor x p (apxTOUT w)) (epochOf dz p (tagEpoch (x.slot ((apxIns di j).headD 0)).tag)) (if apxSC w = 1 then .computed else .none)
    (apxRnd w) 4 (dr * 256) extMax (apxVals c x di dm j dr)

/-- The selvedge of an apex's result: V, O, U and X of the partials stand in it too (R79). -/
def apxTag (o : OutTile) (stall : Nat) (ts : List Tag) : Tag :=
  let any (b : Nat) : Bool := ts.any (fun t => bit t.toNat b)
  mkTag {
    row := o.coord.1, col := o.coord.2.1, plane := o.coord.2.2, extR := o.extR, extC := o.extC, fmt := o.d.fmt, scale := o.d.scale,
    v := evsV o.evs || any 92, o := evsO o.evs || any 93, u := evsU o.evs || any 94, x := evsX o.evs || any 95,
    stall := stall, last := o.last, epoch := o.epoch }

/-- The coordinates in a slot's tag. -/
def tagCoord (t : Tag) : Nat × Nat × Nat := (tagRow t, tagCol t, tagPlane t)

/-- APX_COMBINE (R354): once all P partials of the output tile are FULL they are combined, converted, written, and released;
before that, one wait episode is counted. -/
def execApxCombine (l : LoomId) (s : State) : Host.Outcome State Fault Refusal := s.onDev fun s =>
  .next (match s.ctx l.val, (s.loom l.val).apx with
  | some c, some j =>
    let x := s.loom l.val
    let p := j.smp
    match c.st.desc (apxTIN p.w), c.st.desc (apxTOUT p.w) with
    | some di, some dz =>
      let ins := apxIns di j
      let dm := (c.st.desc (apxTML p.w)).getD di
      let mls := apxMls di dm j
      if !x.live then s
      else
        match rdSlots c.stall x (ins ++ mls) with
        | .bad cause i => s.faultLoom l.val cause i 3 0 p.op
        | .wait => if j.waits then s else (s.modLoom l.val (fun y => { y with apx := some { j with waits := true } })).count l.val 59 1
        | .ready =>
          if !ins.all (fun i => tagCoord (x.slot i).tag == tagCoord (x.slot (ins.headD 0)).tag) then s.faultLoom l.val 5 0 0 0 p.op
          else
            s.guardSlots l.val p.op 3 (wrSlots x 3 [ringSlot dz (c.at_ s dz p 0 0 0)]) fun s =>
              let (dr, s) := s.draw
              let o := apxOut c s di dm dz j dr
              let tag := apxTag o c.stall ((ins ++ mls).map (fun i => (x.slot i).tag))
              let s1 := (((((s.readTiles l.val (ins ++ mls)).raiseOut c p o).count l.val 2 1).putTile c 3 p.runSeq dz o.coord { tag := tag, data := o.data })).count
                l.val 58 ins.length
              s1.modLoom l.val (fun y => { y with apx := none, apxOrder := y.apxOrder.filter (fun i => !(ins ++ mls).contains i) })
    | _, _ => s
  | _, _ => s)

/-! ### An XFER's operands (R348) -/

structure XferEnv where
  c : Ctx
  p : Sample
  w : Nat
  g : Group
  rank : Nat
  /-- The descriptor from which N is taken. -/
  dn : Desc
  n : Nat

def XferEnv.a (e : XferEnv) : Nat := e.g.members.length
def XferEnv.coll (e : XferEnv) : Nat := xferColl e.w
def XferEnv.m (e : XferEnv) (s : Dev) : Nat := (s.loom e.c.l).member
def XferEnv.dx (e : XferEnv) : Option Desc := if e.coll = 1 then none else if e.coll = 5 ∧ xferTX e.w = 0 then none else e.c.st.desc (xferTX e.w)
def XferEnv.dz (e : XferEnv) : Option Desc := if e.coll = 0 then none else if e.coll = 5 ∧ xferTZ e.w = 0 then none else e.c.st.desc (xferTZ e.w)

/-- The coordinates of tile `k`. -/
def XferEnv.co (e : XferEnv) (s : Dev) (k : Nat) : Nat × Nat × Nat :=
  let b := e.c.at_ s e.dn e.p 0 0 0
  ((b.1 + k / max e.dn.sr 1) % 2 ^ 24, (b.2.1 + k % max e.dn.sr 1) % 2 ^ 16, b.2.2)

/-- Tiles of this member. -/
def XferEnv.ks (e : XferEnv) (s : Dev) : List Nat := (List.range e.n).filter (fun k => k % max e.c.st.m 1 == e.m s)

/-- Tile `k` takes the minus ring. -/
def XferEnv.minus (e : XferEnv) (k : Nat) : Bool := xferDir e.w == 2 || (xferDir e.w == 0 && decide ((e.n + 1) / 2 ≤ k))

def XferEnv.next (e : XferEnv) (i : Nat) (minus : Bool) : Nat := if minus then (i + e.a - 1) % max e.a 1 else (i + 1) % max e.a 1

/-- The chunk of tile `k`. -/
def XferEnv.chunk (e : XferEnv) (k : Nat) : Nat := ((List.range e.a).filter (fun c => decide (c * e.n / max e.a 1 ≤ k))).length - 1

def XferEnv.txSlot (e : XferEnv) (s : Dev) (k : Nat) : Nat := match e.dx with
  | some d => ringSlot d (e.co s k)
  | none => 0

/-- The direction of the first hop to a rank: SDIR of the flow (R337). -/
def XferEnv.hopMinus (e : XferEnv) (s : Dev) (dst : Nat) : Bool :=
  let a := s.axesNow
  let src := a.coordsOf a.deviceId
  let r := (e.g.routes.getD dst (some (false, 0))).getD (false, 0)
  match a.hop r.1 r.2 src src (a.coordsOf (e.g.members.getD dst (0, 0)).1) with
  | some h => h.2.1
  | none => false

/-- The job that issuing an XFER starts (R348, R349). -/
def XferEnv.start (e : XferEnv) (s : Dev) : XferJob :=
  let i := e.rank
  let ks := e.ks s
  let send (k : Nat) (dst : Nat) (co : Nat × Nat × Nat) : XferOut := { k := k, minus := e.hopMinus s dst, dst := dst, coord := co, tx := some (e.txSlot s k) }
  let ring (k : Nat) : XferOut := send k (e.next i (e.minus k)) (e.co s k)
  let base : XferJob := { smp := e.p, rank := i, ranks := e.a, n := e.n }
  let one := e.a ≤ 1
  match e.coll with
  | 0 => { base with
      outs := ks.flatMap (fun k => (if xferDir e.w = 2 then [] else [send k (e.next i false) (e.co s k)]) ++
        (if xferDir e.w = 1 then [] else [send k (e.next i true) (e.co s k)])),
      rel := ks.map (e.txSlot s) }
  | 1 => { base with toWrite := ks.map (e.co s) ++ (if xferDir e.w = 0 then ks.map (e.co s) else []) }
  | 2 => { base with
      outs := if one then [] else (ks.filter (fun k => e.chunk k == e.next i (!e.minus k))).map ring,
      own := if one then ks else [], toWrite := ks.map (e.co s), rel := ks.map (e.txSlot s) }
  | 3 => { base with
      outs := if one then [] else (ks.filter (fun k => e.chunk k == e.next i (!e.minus k))).map ring,
      own := if one then ks else [], toWrite := (ks.filter (fun k => e.chunk k == i)).map (e.co s), rel := ks.map (e.txSlot s) }
  | 4 =>
      let mine := ks.filter (fun k => e.chunk k == i)
      { base with outs := if one then [] else mine.map ring, own := mine, toWrite := ks.map (e.co s), rel := mine.map (e.txSlot s) }
  | 5 => if i = 0 then
        { base with outs := if one then [] else ks.map ring, own := if xferTZ e.w = 0 then [] else ks,
                    toWrite := if xferTZ e.w = 0 then [] else ks.map (e.co s), rel := ks.map (e.txSlot s) }
      else { base with toWrite := ks.map (e.co s) }
  | _ =>
      let c := e.n / max e.a 1
      let dst (k : Nat) : Nat := k / max c 1
      let there (k : Nat) : Nat × Nat × Nat := e.co s (i * c + k % max c 1)
      { base with
        outs := (ks.filter (fun k => dst k != i)).map (fun k => send k (dst k) (there k)),
        own := ks.filter (fun k => dst k == i),
        toWrite := (List.range e.a).flatMap (fun j => ((List.range c).filter (fun t => (i * c + t) % max e.c.st.m 1 == e.m s)).map (fun t => e.co s (j * c + t))),
        rel := ks.map (e.txSlot s) }

/-- That job, with the largest row and column among the tiles that it writes (R134). -/
def XferEnv.job (e : XferEnv) (s : Dev) : XferJob :=
  let j := e.start s
  { j with edge := j.toWrite.foldl (fun a c => (max a.1 c.1, max a.2 c.2.1)) (0, 0) }

/-- The environment of an XFER word on a loom; none where its group is not in force. -/
def Dev.xferEnv (s : Dev) (c : Ctx) (p : Sample) : Option XferEnv :=
  let w := p.w
  match tget none (s.stall c.stall).groups (xferGroup w) with
  | none => none
  | some g =>
    let rank := g.members.idxOf (s.axesNow.deviceId, c.stall)
    let t := if xferColl w = 1 ∨ xferColl w = 4 ∨ (xferColl w = 5 ∧ rank ≠ 0) then xferTZ w else xferTX w
    (c.st.desc t).map (fun d => { c := c, p := p, w := w, g := g, rank := rank, dn := d, n := d.depth })

/-! ### Abort (R358) -/

/-- Slots granted to other modules, and tiles the port holds for a group, go: the slots return to EMPTY. -/
def Dev.dropXferIn (s : Dev) (l group : Nat) (tz : Option Desc) : Dev :=
  (s.modLinks (fun y => { y with grants := y.grants.filter (fun r => !(r.2.1 == l && r.1.group == group)) })).modLoom l (fun x =>
    let ring (i : Nat) : Bool := match tz with
      | some d => decide (d.base ≤ i) && decide (i < d.base + d.depth)
      | none => false
    { x with
      slots := x.slots.filter (fun e => !(e.2.grantee == some remoteGrant && ring e.1)),
      xferIn := x.xferIn.filter (fun e => e.group != group) })

/-- Parts of images that have come for a member of a group are discarded. -/
def Dev.dropAsm (s : Dev) (group member : Nat) : Dev :=
  s.modLinks (fun y => { y with asm := tdrop (fun key => key / 4096 % 4096 == group && key / 2 % 2048 == member) y.asm })

/-- The XFER in progress on a loom is aborted: it stops, and counts the abort; the run will report status 1. -/
def Dev.abortXfer (s : Dev) (l : Nat) : Dev :=
  match (s.loom l).xfer, s.ctx l with
  | some j, some c =>
    if j.aborted then s
    else
      let w := j.smp.w
      let tz := if (opWrites w).isEmpty then none else c.st.desc (xferTZ w)
      let s1 := ((s.dropXferIn l (xferGroup w) tz).modLoom l (fun x => { x with
        xfer := some { j with outs := [], own := [], aborted := true }, excRuns := sinsert j.smp.runSeq x.excRuns })).count l 57 1
      s1.dropAsm (xferGroup w) (s.loom l).member
  | _, _ => s

/-- The extents of a tile that an XFER writes through TZ: edges are those of the largest row and column it writes (R134). -/
def xferExt (p : Sample) (d : Desc) (edge : Nat × Nat) (co : Nat × Nat × Nat) : Nat × Nat :=
  (edgeExt p d.rowMap d.lastRows (co.1 == edge.1), edgeExt p d.colMap d.lastCols (co.2.1 == edge.2))

/-- Write one NaN tile for coordinates that an aborted XFER has not written. -/
def Dev.writeNan (s : Dev) (c : Ctx) (p : Sample) (d : Desc) (edge : Nat × Nat) (co : Nat × Nat × Nat) (last : Bool) : Dev :=
  let (dr, s) := s.draw
  let e := xferExt p d edge co
  let o := mkOut c p (xferTZ p.w) d co e.1 e.2 last (epochOf d p 0) .computed false 4 (dr * 256) extMax (matBuild (fun _ _ => .ok .nan))
  let tag := mkTag {
    row := co.1, col := co.2.1, plane := co.2.2, extR := e.1, extC := e.2, fmt := d.fmt, scale := d.scale,
    v := true, stall := c.stall, last := last, epoch := o.epoch }
  (s.putTile c 5 p.runSeq d co { tag := tag, data := o.data }).count c.l 56 1

/-- An aborted XFER releases the TX tiles that stand FULL and writes NaN to the slots that are EMPTY; then it completes. -/
def Dev.abortStep (s : Dev) (c : Ctx) (j : XferJob) : Dev :=
  let l := c.l
  let x := s.loom l
  let rel := j.rel.filter (fun i => readable x i)
  let s1 := s.readTiles l rel
  let j1 := { j with rel := j.rel.filter (fun i => !rel.contains i) }
  let r : Dev × List (Nat × Nat × Nat) := match c.st.desc (xferTZ j.smp.w) with
    | none => (s1, [])
    | some d => j.toWrite.foldl (fun (a : Dev × List (Nat × Nat × Nat)) co =>
        if ((a.1.loom l).slot (ringSlot d co)).state = .empty then
          (a.1.writeNan c j.smp d j.edge co (d.lastF && lastFor x j.smp (xferTZ j.smp.w) && j.toWrite.getLast? == some co), a.2)
        else (a.1, a.2 ++ [co])) (s1, [])
  if r.2.isEmpty && j1.rel.isEmpty then r.1.modLoom l (fun x => { x with xfer := none })
  else r.1.modLoom l (fun x => { x with xfer := some { j1 with toWrite := r.2 } })

/-! ### The steps of an XFER (R349) -/

/-- The tag of a tile written through TZ: selvedge under R117 and R134, V, O, U and X carried over. -/
def xferTag (c : Ctx) (p : Sample) (d : Desc) (edge : Nat × Nat) (co : Nat × Nat × Nat) (t : Tag) (last : Bool) : Tag :=
  let e := xferExt p d edge co
  mkTag { row := co.1, col := co.2.1, plane := co.2.2, extR := e.1, extC := e.2, fmt := d.fmt, scale := d.scale,
          v := bit t.toNat 92, o := bit t.toNat 93, u := bit t.toNat 94, x := bit t.toNat 95,
          stall := c.stall, last := last, epoch := epochOf d p (tagEpoch t) }

/-- Write a tile through TZ at coordinates; it is counted, and no longer to be written. -/
def Dev.xferWrite (s : Dev) (c : Ctx) (j : XferJob) (d : Desc) (co : Nat × Nat × Nat) (t : Tile) (k : XferJob → XferJob) : Dev :=
  let j1 := k { j with toWrite := j.toWrite.erase co }
  let last := d.lastF && j1.toWrite.isEmpty && lastFor (s.loom c.l) j.smp (xferTZ j.smp.w)
  ((s.putTile c 5 j.smp.runSeq d co { tag := xferTag c j.smp d j.edge co t.tag last, data := t.data }).count c.l 56 1).modLoom c.l (fun x => { x with xfer := some j1 })

/-- The incoming partial added to the member's own tile (R350). -/
def Dev.xferCombine (s : Dev) (e : XferEnv) (co : Nat × Nat × Nat) (inc : Tile) (own : Nat) (draw : Nat) : Tile × EvList :=
  let x := s.loom e.c.l
  let d := e.dx.getD e.dn
  let a := tileVals (dataGet inc.data) inc.tag e.c.ftz
  let b := slotVals x e.c.ftz own
  let o := mkOut e.c e.p (xferTZ e.w) d co (tagExtR inc.tag) (tagExtC inc.tag) false 0 .none false 4 draw extMax
    (matBuild (fun r k => xadd (matGet a r k) (matGet b r k)))
  let t := inc.tag.toNat
  ({ tag := mkTag { row := co.1, col := co.2.1, plane := co.2.2, extR := tagExtR inc.tag, extC := tagExtC inc.tag, fmt := d.fmt, scale := d.scale,
                    v := bit t 92 || evsV o.evs, o := bit t 93 || evsO o.evs, u := bit t 94 || evsU o.evs, x := bit t 95 || evsX o.evs,
                    stall := e.c.stall, epoch := tagEpoch inc.tag }, data := o.data }, o.evs)

/-- Free the landing slot of a tile that only passes through. -/
def Dev.freeLanding (s : Dev) (l slot : Nat) : Dev := s.modLoom l (fun x => x.setSlot slot {})

/-- The next arrived tile of the XFER is taken, if it can be; none where it must wait for the member's own tile. -/
def Dev.xferArrive (s : Dev) (e : XferEnv) (j : XferJob) (i : XferIn) : Option Dev :=
  let l := e.c.l
  let co := (tagRow i.tile.tag, tagCol i.tile.tag, tagPlane i.tile.tag)
  let s0 := s.modLoom l (fun x => { x with xferIn := x.xferIn.erase i })
  let k? := (e.ks s).find? (fun k => e.co s k == co)
  let forward (t : Tile) (k : Nat) (tx : Option Nat) (j : XferJob) : XferJob :=
    let dst := e.next e.rank (e.minus k)
    { j with outs := j.outs ++ [{ k := k, minus := e.hopMinus s dst, dst := dst, coord := co, tile := some t, tx := tx }] }
  match e.dz with
  | none => some (s0.freeLanding l i.slot)
  | some d =>
    let write (t : Tile) (f : XferJob → XferJob) (s : Dev) : Dev := (s.freeLanding l i.slot).xferWrite e.c j d co t f
    match e.coll, k? with
    | 1, _ =>
      if xferDir e.w ≠ 0 ∧ e.g.members.getD (e.next e.rank (xferDir e.w != 2)) (0, 0) ≠ i.src then none
      else if j.toWrite.isEmpty then some (s0.freeLanding l i.slot)
      else some (write i.tile (fun q => if j.toWrite.contains co then q else { q with toWrite := q.toWrite.dropLast }) s0)
    | 6, _ => if j.toWrite.contains co then some (write i.tile id s0) else some (s0.freeLanding l i.slot)
    | 4, some k => some (write i.tile (fun j => if e.next e.rank (e.minus k) = e.chunk k then j else forward i.tile k none j) s0)
    | 5, some k => some (write i.tile (fun j => if e.next e.rank (e.minus k) = 0 then j else forward i.tile k none j) s0)
    | 2, some k =>
      let c := e.chunk k
      let start := e.next c (e.minus k)
      if e.rank ≠ start ∧ !j.seen.contains k then
        let own := e.txSlot s k
        if !readable (s.loom l) own then none
        else
          let (dr, s1) := s0.draw
          let (t, evs) := s.xferCombine e co i.tile own (dr * 256)
          let s2 := s1.recordEvents l co.1 co.2.1 co.2.2 j.smp.op j.smp.runSeq evs
          if e.rank = c then
            some ((write t (fun j => forward t k none { j with seen := k :: j.seen, rel := j.rel.erase own }) s2).readTiles l [own])
          else some ((s2.freeLanding l i.slot).modLoom l (fun x => { x with xfer := some (forward t k (some own) { j with seen := k :: j.seen }) }))
      else some (write i.tile (fun j => if e.next e.rank (e.minus k) = c then j else forward i.tile k none j) s0)
    | 3, some k =>
      let own := e.txSlot s k
      if !readable (s.loom l) own then none
      else
        let (dr, s1) := s0.draw
        let (t, evs) := s.xferCombine e co i.tile own (dr * 256)
        let s2 := s1.recordEvents l co.1 co.2.1 co.2.2 j.smp.op j.smp.runSeq evs
        if e.rank = e.chunk k then some ((write t (fun j => { j with rel := j.rel.erase own }) s2).readTiles l [own])
        else some ((s2.freeLanding l i.slot).modLoom l (fun x => { x with xfer := some (forward t k (some own) j) }))
    | _, _ => some (s0.freeLanding l i.slot)

/-- The tile of a send: the port's, or the TX slot's, under the coordinates it is sent to. -/
def XferEnv.tileOf (e : XferEnv) (s : Dev) (o : XferOut) : Tile :=
  let x := s.loom e.c.l
  let t : Tile := match o.tile with
    | some t => t
    | none => { tag := (x.slot (o.tx.getD 0)).tag, data := slotBytes x (o.tx.getD 0) }
  { t with tag := mkTag { row := o.coord.1, col := o.coord.2.1, plane := o.coord.2.2, extR := tagExtR t.tag, extC := tagExtC t.tag,
                          fmt := tagFmt t.tag, scale := tagScale t.tag, v := bit t.tag.toNat 92, o := bit t.tag.toNat 93,
                          u := bit t.tag.toNat 94, x := bit t.tag.toNat 95, stall := tagStall t.tag, last := tagLast t.tag, epoch := tagEpoch t.tag } }

/-- Cut an image into payloads of 504 bytes (R342). -/
def payloads (b : List Byte) : List (List Byte) := (List.range ((b.length + 503) / 504)).map (fun i => slice b (504 * i) 504)

/-- Send a granted tile: its image's frames enter the flow (R342, R343, R357). -/
def Dev.xferTransmit (s : Dev) (e : XferEnv) (j : XferJob) (o : XferOut) : Dev :=
  let t := e.tileOf s o
  let ps := payloads (imageBytes t.tag t.data)
  let r := (e.g.routes.getD o.dst (some (false, 0))).getD (false, 0)
  let dst := e.g.members.getD o.dst (0, 0)
  let s1 := ps.zipIdx.foldl (fun s q => s.sendFrame
    { ctl := false, last := q.2 + 1 == ps.length, minus := o.minus, vc := 2 * b2n r.1, epoch := e.g.epoch.toNat % 256, dstDev := dst.1,
      dstStall := dst.2, srcDev := s.axesNow.deviceId, srcStall := e.c.stall, flip := r.2, group := xferGroup e.w, member := e.m s, payload := q.1 }
    (e.c.l / 144)) s
  (s1.modLoom e.c.l (fun x => { x with xfer := some { j with outs := j.outs.map (fun q => if q = o then { o with st := .sent } else q) } })).count e.c.l 55 1

/-- Ask for a slot for a tile (R347). -/
def Dev.xferRequest (s : Dev) (e : XferEnv) (j : XferJob) (o : XferOut) : Dev :=
  (s.modLoom e.c.l (fun x => { x with xfer := some { j with outs := j.outs.map (fun q => if q = o then { o with st := .requested } else q) } })).sendCtl
    e.c.stall (xferGroup e.w) (e.m s) o.minus 1 o.coord (e.g.members.getD o.dst (0, 0)) (e.c.l / 144)

/-- One step of an XFER in progress: an arrived tile, a tile of its own to write, a granted send, a request, or its end. -/
def Dev.xferStep (s : Dev) (e : XferEnv) (j : XferJob) : Dev :=
  let l := e.c.l
  let x := s.loom l
  let ready (o : XferOut) : Bool := match o.tile, o.tx with
    | none, some i => readable x i
    | _, _ => true
  let asked (minus : Bool) : Nat := (j.outs.filter (fun o => o.minus == minus && o.st == .requested)).length
  let arrived := (x.xferIn.filter (fun i => i.group == xferGroup e.w)).findSome? (fun i => s.xferArrive e j i)
  let here (k : Nat) : Nat × Nat × Nat := if e.coll = 6 then e.co s (e.rank * (e.n / max e.a 1) + k % max (e.n / max e.a 1) 1) else e.co s k
  let own : Option (Desc × Nat) := match e.dz with
    | some d => (j.own.find? (fun k : Nat => readable x (e.txSlot s k) && (x.slot (ringSlot d (here k))).state == SlotState.empty)).map (fun k => (d, k))
    | none => none
  match arrived with
  | some t => t
  | none =>
    match own with
    | some (d, k) =>
      let i := e.txSlot s k
      let keep := j.outs.any (fun o => o.tx == some i)
      let s1 := s.xferWrite e.c j d (here k) { tag := (x.slot i).tag, data := slotBytes x i } (fun j =>
        { j with own := j.own.erase k, rel := if keep then j.rel else j.rel.erase i })
      if keep then s1 else s1.readTiles l [i]
    | none =>
      match j.outs.find? (fun o : XferOut => o.st == SendSt.granted) with
      | some o => s.xferTransmit e j o
      | none =>
        match j.outs.find? (fun o : XferOut => o.st == SendSt.fresh && ready o && decide (asked o.minus < 32)) with
        | some o =>
          (match o.tile, o.tx with
           | none, some i => s.guardSlots l j.smp.op 5 (rdSlot e.c.stall x i) fun s => s.xferRequest e j o
           | _, _ => s.xferRequest e j o)
        | none => if j.outs.isEmpty && j.toWrite.isEmpty && j.own.isEmpty then s.modLoom l (fun x => { x with xfer := none }) else s

/-- An XFER word of collective `coll` (R146, R349, R358): it is issued, or goes on by one step. -/
def xferWord (coll l : Nat) (s : Dev) : Dev :=
  match s.ctx l, (s.loom l).xfer with
  | some c, some j =>
    if xferColl j.smp.w ≠ coll || !(s.loom l).live then s
    else if j.aborted then s.abortStep c j
    else
      match s.xferEnv c j.smp with
      | some e => s.xferStep e j
      | none => s.abortXfer l
  | _, _ => s.withWord l 0x80 fun c p w =>
      if xferColl w ≠ coll then s
      else
        match s.xferEnv c p with
        | none => s.faultLoom l 5 0 0 0 p.op
        | some e =>
          if coll = 5 && (if e.rank = 0 then xferTX w == 0 else xferTZ w == 0) then s.faultLoom l 5 0 0 0 p.op
          else
            let j := e.job s
            let s1 := advance (s.modLoom l (fun x => { x with xfer := some j })) l
            let needs := if coll = 1 then [] else if e.a ≤ 1 then [] else if coll = 6 then List.range e.a else [e.next e.rank false, e.next e.rank true]
            let cut := needs.any (fun r => (e.g.routes.getD r (some (false, 0))).isNone &&
              (coll == 6 || j.outs.any (fun o => o.dst == r) || (xferDir w != (if r = e.next e.rank false then 2 else 1))))
            if (e.g.axis ≠ 255 ∧ e.g.axis ≠ xferAxis w) ∨ cut = true then s1.abortXfer l else s1

def execXferSend (l : LoomId) (s : State) : Host.Outcome State Fault Refusal := s.onDev fun s => .next (xferWord 0 l s)
def execXferRecv (l : LoomId) (s : State) : Host.Outcome State Fault Refusal := s.onDev fun s => .next (xferWord 1 l s)
def execXferAllReduce (l : LoomId) (s : State) : Host.Outcome State Fault Refusal := s.onDev fun s => .next (xferWord 2 l s)
def execXferReduceScatter (l : LoomId) (s : State) : Host.Outcome State Fault Refusal := s.onDev fun s => .next (xferWord 3 l s)
def execXferAllGather (l : LoomId) (s : State) : Host.Outcome State Fault Refusal := s.onDev fun s => .next (xferWord 4 l s)
def execXferBroadcast (l : LoomId) (s : State) : Host.Outcome State Fault Refusal := s.onDev fun s => .next (xferWord 5 l s)
def execXferAllToAll (l : LoomId) (s : State) : Host.Outcome State Fault Refusal := s.onDev fun s => .next (xferWord 6 l s)

end Sys2Proof.Machine
end

