-- ==== Sys2Proof/Machine/Links.lean ====
section
/-!
DEFINITION. Link commands (R336 to R347), regulators and link arbiters (R317, R345), roster rewrites (R356 to R359).
-/
namespace Sys2Proof.Machine

/-! ### Frames as bytes (R337) -/

/-- Header and payload, 528 bytes, of a frame with its link fields. -/
def frameBytes (type : Nat) (f : Frame) (lseq lack : Nat) (nak : Bool) (crvc cred : Nat) : List Byte :=
  [natLe 1 (type + 16 * b2n f.last + 32 * b2n f.minus + 64 * (f.vc % 4)), natLe 1 f.epoch, natLe 2 lseq, natLe 2 (lack + 4096 * b2n nak),
   natLe 2 (f.payload.length + 1024 * crvc + 4096 * cred), natLe 2 f.dstDev, natLe 1 f.dstStall, natLe 1 0, natLe 2 f.srcDev,
   natLe 1 f.srcStall, natLe 1 f.flip, natLe 2 f.group, natLe 2 f.member, natLe 4 f.fseq, f.payload,
   List.replicate (504 - f.payload.length) 0].flatten

/-- The 576 bytes on the wire: those 528, the CRC-64 and the check bytes (R337, R338). -/
def wireBytes (b : List Byte) : List Byte :=
  let c := b ++ natLe 8 (Config.crc64 b).toNat
  c ++ (padTo 40 (Config.rsCheck c)).take 40

/-- The frame that 528 bytes spell. -/
def parseFrame (b : List Byte) : Frame :=
  { ctl := bits (u8 b 0) 3 0 == 2, last := bit (u8 b 0) 4, minus := bit (u8 b 0) 5, vc := bits (u8 b 0) 7 6, epoch := u8 b 1,
    dstDev := u16 b 8, dstStall := u8 b 10 % 128, srcDev := u16 b 12, srcStall := u8 b 14 % 128, flip := u8 b 15 % 64,
    group := u16 b 16 % 4096, member := u16 b 18 % 2048, fseq := u32 b 20, payload := slice b 24 (min (u16 b 6 % 1024) 504) }

/-- An IDLE frame's empty content. -/
def idleFrame : Frame :=
  { ctl := false, minus := false, vc := 0, epoch := 0, dstDev := 0, dstStall := 0, srcDev := 0, srcStall := 0, flip := 0, group := 0,
    member := 0, payload := [] }

/-! ### Sending (R339, R345) -/

/-- Put a frame on the wire with the current LACK, NAK and returned credits; type 0 is IDLE. -/
def Dev.emitFrame (s : Dev) (i type : Nat) (f : Frame) (lseq : Nat) : Dev :=
  let x := s.link i
  let cr := (List.range 4).find? (fun v => decide (8 ≤ tget 0 x.owed v))
  let vc := cr.getD 0
  let n := match cr with
    | some v => min 15 (tget 0 x.owed v / 8)
    | none => 0
  let s1 := s.modLink i (fun x => { x with owed := tmod 0 x.owed vc (· - 8 * n), nak := false, naked := x.naked || x.nak })
  let s2 := s1.emit (.frame i (wireBytes (frameBytes type f lseq ((x.rxSeq + 4095) % 4096) x.nak vc n)))
  if type = 0 then s2 else (s2.count (portKey (i % 12)) 0 1).count (portKey (i % 12)) 2 f.payload.length

/-- Send a frame for the first time: against a credit, under the next LSEQ, kept in the replay buffer. -/
def Dev.sendNew (s : Dev) (i : Nat) (f : Frame) : Dev :=
  let q := (s.link i).txSeq
  let s1 := s.modLink i (fun x => { x with
    txSeq := (q + 1) % 4096, replay := x.replay ++ [(q, f)], cursor := x.replay.length + 1, used := tmod 0 x.used f.vc (· + 1) })
  let s2 := if f.srcDev = s.axesNow.deviceId then s1.addUsage (i / 12) f.srcStall 3 1 else s1
  s2.emitFrame i (if f.ctl then 2 else 1) f q

def LinkOne.credit (x : LinkOne) (f : Frame) : Bool := decide (tget 0 x.used f.vc < 64)

/-- Take a forwarded frame off its queue; its buffer on the link that it came from is free again. -/
def Dev.takeFwd (s : Dev) (i vc : Nat) (e : Frame × Nat) : Dev :=
  let s1 := s.modLink i (fun x => { x with fwd := tmod [] x.fwd vc (fun q => q.erase e) })
  if e.2 < 96 then s1.modLink e.2 (fun x => { x with owed := tmod 0 x.owed e.1.vc (· + 1) }) else s1

/-- The forwarded DATA frame that is next round-robin from channel `from_`. -/
def LinkOne.nextFwd (x : LinkOne) (from_ : Nat) : Option (Nat × Frame × Nat) :=
  ((List.range 4).map (fun d => (from_ + d) % 4)).findSome? (fun vc => match tget [] x.fwd vc with
    | e :: _ => if x.credit e.1 then some (vc, e) else none
    | [] => none)

/-- One frame time of a link's arbiter (R345): a replay, then CONTROL frames, then the rounds of forwarded and local DATA
frames; IDLE where nothing can be sent. -/
def Dev.linkSend (s : Dev) (i : Nat) : Dev :=
  let x := s.link i
  if x.state ≠ .up then s
  else
    match x.replay[x.cursor]? with
    | some (q, f) => (s.modLink i (fun x => { x with cursor := x.cursor + 1 })).emitFrame i (if f.ctl then 2 else 1) f q
    | none =>
      let idle := s.emitFrame i 0 idleFrame 0
      if 512 ≤ x.replay.length then idle
      else
        match x.ctl.find? x.credit with
        | some f => (s.modLink i (fun x => { x with ctl := x.ctl.erase f })).sendNew i f
        | none =>
          match (List.range 4).findSome? (fun vc => ((tget [] x.fwd vc).find? (fun e => e.1.ctl && x.credit e.1)).map (fun e => (vc, e))) with
          | some (vc, e) => (s.takeFwd i vc e).sendNew i e.1
          | none =>
            let u : RegUnit := .link (Fin.ofNat 96 i)
            let r := s.reg (500 + i)
            let ks := match s.hub.devPlan with
              | some d => d.stalls.map (fun (z : StallRec) => z.stall)
              | none => []
            let wsum := max 1 ((ks.map (s.weightAt u)).sum)
            let ready : RegSt := { r with waiting := x.loc.filterMap (fun e => match e.2 with
              | f :: _ => if x.credit f then some (e.1, 1) else none
              | [] => none) }
            let loc := nextStall ready (s.weightAt u)
            let goFwd (served : Nat) (vc : Nat) (e : Frame × Nat) : Dev :=
              ((s.takeFwd i vc e).modLink i (fun x => { x with fwdServed := served, fwdVc := (vc + 1) % 4 })).sendNew i e.1
            let goLoc (k : Nat) (fresh : Bool) : Dev := match tget [] x.loc k with
              | f :: rest => ((s.modLink i (fun x => { x with loc := tset [] x.loc k rest, fwdServed := wsum })).modReg (500 + i) (fun r => { r with
                  pos := k, served := if fresh || r.pos != k then 1 else r.served + 1 })).sendNew i f
              | [] => s
            match (if x.fwdServed < wsum then x.nextFwd x.fwdVc else none), loc, x.nextFwd x.fwdVc with
            | some (vc, e), _, _ => goFwd (x.fwdServed + 1) vc e
            | none, some (k, false), _ => goLoc k false
            | none, _, some (vc, e) => (goFwd 1 vc e).modReg (500 + i) (fun r => { r with pos := 0, served := 0 })
            | none, some (k, true), none => goLoc k true
            | none, none, none => idle

/-- REGULATOR_SERVE (R317): one unit goes to the stall whose turn it is, or to device traffic when no stall waits; the
Store regulator also gives device traffic one unit after every 65,536 stall units. A link's unit is a frame (R345). -/
def execRegulatorServe (u : RegUnit) (s : State) : Host.Outcome State Fault Refusal := s.onDev fun s =>
  let i := regKey u
  let r := s.reg i
  let dev := decide (0 < tget 0 r.waiting 96)
  let isStore := match u with
    | .store _ => true
    | _ => false
  let serveDev (t : Dev) : Dev := t.modReg i (fun r => { r with waiting := tmod 0 r.waiting 96 (· - 1), sinceDevice := 0 })
  match u with
  | .link j => .next (s.linkSend j.val)
  | _ =>
    if isStore && dev && decide (65536 ≤ r.sinceDevice) then .next (serveDev s)
    else
      match nextStall r (s.weightAt u) with
      | none => if dev then .next (serveDev s) else .next s
      | some (k, fresh) =>
        let s1 := s.modReg i (fun r => { r with
          waiting := tmod 0 r.waiting k (· - 1), pos := k, served := (if fresh || r.pos != k then 1 else r.served + 1),
          sinceDevice := if isStore then min (r.sinceDevice + 1) 65536 else 0 })
        match usageOf u with
        | some (die, x) => .next (s1.addUsage die k x 1)
        | none => .next s1

/-- LINK_ARBITRATE (R345): one frame time of link `i`. -/
def execLinkArbitrate (i : LinkId) (s : State) : Host.Outcome State Fault Refusal := s.onDev fun s => .next (s.linkSend i.val)

/-! ### Link states (R336, R340, R341) -/

/-- Queue a frame again after its link went DOWN: on the flow's new link (R341). -/
def Dev.requeue (s : Dev) (p : Nat) (f : Frame) (from_ : Option Nat) : Dev :=
  let i := s.flowLink (flowKey f) p f.die
  (s.modLinks (fun y => { y with flows := tset 0 y.flows (flowKey f) (i + 1) })).modLink i (fun x => queueOn x f from_)

/-- Empty a link of its frames, the replay buffer first in LSEQ order, and queue each on its flow's link. -/
def Dev.spread (s : Dev) (i : Nat) : Dev :=
  let x := s.link i
  let p := i % 12
  let me := s.axesNow.deviceId
  let old := x.replay.map (fun e => (e.2, if e.2.srcDev = me then none else some 96)) ++ (x.ctl.map (fun f => (f, none)) ++
    ((x.fwd.flatMap (fun e => e.2)).map (fun e => (e.1, some e.2)) ++ (x.loc.flatMap (fun e => e.2)).map (fun f => (f, none))))
  let s1 := s.modLink i (fun x => { x with replay := [], cursor := 0, replays := 0, ctl := [], fwd := [], loc := [], used := [], owed := [] })
  old.foldl (fun t e => t.requeue p e.1 e.2) s1

/-- A link goes DOWN (R340), and its flows move (R341). -/
def Dev.linkDown (s : Dev) (i cause : Nat) : Dev :=
  (((s.modLink i (fun x => { x with state := .down, cause := BitVec.ofNat 2 cause })).count (portKey (i % 12)) 9 1).spread i).logEvent
    (0x200 + i / 12) 0x0030 255 1 [i, cause]

/-- LANE_LOCK_LOSS (R340). -/
def execLaneLockLoss (i : LinkId) (s : State) : Host.Outcome State Fault Refusal := s.onDev fun s =>
  .next (if (s.link i.val).state = .up then s.linkDown i.val 3 else s)

/-- LINK_TRAINING_TIMEOUT (R336): a link that has trained for 200 ms of the management core's timer goes DOWN. -/
def execLinkTrainingTimeout (i : LinkId) (ms : Nat) (s : State) : Host.Outcome State Fault Refusal := s.onDev fun s =>
  .next (if (s.link i.val).state = .training ∧ 200 ≤ ms ∧ s.coreUp 3 then s.linkDown i.val 1 else s)

/-- LINK_RETRAIN (R340): after 1,000 ms of the management core's timer it retrains each DOWN link of a named port. -/
def execLinkRetrain (ms : Nat) (s : State) : Host.Outcome State Fault Refusal := s.onDev fun s =>
  if 1000 ≤ ms ∧ s.coreUp 3 then
    .next ((List.range 96).foldl (fun t i =>
      if (t.link i).state = .down ∧ (t.axesNow.portUse (i % 12)).isSome then t.modLink i (fun x => { x with state := .training }) else t) s)
  else .next s

/-- LINK_UP (R336, R340): a trained link enters UP with fresh sequence numbers and credits; frames that wait on a DOWN link of
its port move to it. -/
def execLinkUp (i : LinkId) (s : State) : Host.Outcome State Fault Refusal := s.onDev fun s =>
  if (s.link i.val).state = .training then
    let s1 := s.modLink i.val (fun x => { x with state := .up, txSeq := 0, rxSeq := 0, nak := false, naked := false, used := [], owed := [], replays := 0 })
    let s2 := (portLinks (i.val % 12)).foldl (fun t j => if (t.link j).state = .up then t else t.spread j) s1
    .next (if (s.link i.val).cause = 0 then s2 else s2.logEvent (0x200 + i.val / 12) 0x0030 255 1 [i.val, 0])
  else .next s

/-! ### Receiving (R339) -/

/-- Take a frame's LACK, NAK and returned credits (R339, R340). -/
def Dev.takeAck (s : Dev) (i : Nat) (b : List Byte) : Dev :=
  let x := s.link i
  let lack := u16 b 4 % 4096
  let kept := x.replay.filter (fun e => decide (2048 ≤ (lack + 4096 - e.1) % 4096))
  let gone := x.replay.length - kept.length
  let crvc := bits (u16 b 6) 11 10
  let s1 := s.modLink i (fun x => { x with
    replay := kept, cursor := x.cursor - gone, replays := if 0 < gone then 0 else x.replays,
    used := tmod 0 x.used crvc (· - 8 * bits (u16 b 6) 15 12) })
  if bit (u16 b 4) 12 ∧ kept ≠ [] then
    let n := (s1.link i).replays + 1
    let s2 := (s1.modLink i (fun x => { x with cursor := 0, replays := n })).count (portKey (i % 12)) 8 1
    if 16 ≤ n then s2.linkDown i 2 else s2
  else s1

/-- The next frame of any kind has arrived on a link: sends told to WAIT whose flow leaves on it ask again (R347). -/
def Dev.retryWaits (s : Dev) (i : Nat) : Dev :=
  s.looms.foldl (fun t e => match e.2.xfer, t.ctx e.1 with
    | some j, some c =>
      let key (minus : Bool) : Nat := flowKey { idleFrame with srcDev := t.axesNow.deviceId, srcStall := c.stall, group := xferGroup j.smp.w,
                                                               member := e.2.member, minus := minus }
      if j.outs.any (fun o => o.st == SendSt.waits) then
        t.modLoom e.1 (fun x => { x with xfer := some { j with outs := j.outs.map (fun o =>
          if o.st = .waits ∧ tget 0 t.links.flows (key o.minus) = i + 1 then { o with st := .fresh } else o) } })
      else t
    | _, _ => t) s

/-- A sequenced frame (R339): delivered or forwarded in LSEQ order, else discarded with NAK. -/
def Dev.takeFrame (s : Dev) (i : Nat) (b : List Byte) : Dev :=
  let x := s.link i
  let lseq := u16 b 2 % 4096
  let f := parseFrame b
  let p := portKey (i % 12)
  if lseq = x.rxSeq then
    let s1 := (s.modLink i (fun x => { x with rxSeq := (x.rxSeq + 1) % 4096, naked := false })).count p 1 1
    let s2 := s1.count p 3 f.payload.length
    let free (t : Dev) : Dev := t.modLink i (fun x => { x with owed := tmod 0 x.owed f.vc (· + 1) })
    if f.dstDev = s.axesNow.deviceId then free (s2.deliverFrame f i)
    else match s2.routeFrame f (i / 12) (some i) with
      | some s3 => s3.count p 4 1
      | none => free s2
  else if (lseq + 4096 - x.rxSeq) % 4096 < 2048 then s.modLink i (fun x => { x with nak := x.nak || !x.naked })
  else s

/-- LINK_FRAME_RX (R338, R339): a frame of 528 bytes, header and payload, as the decoder gives it. -/
def execLinkFrameRx (i : LinkId) (rx : FrameRx) (bytes : List Byte) (s : State) : Host.Outcome State Fault Refusal := s.onDev fun s =>
  let p := portKey (i.val % 12)
  let bad (t : Dev) : Dev := t.modLink i.val (fun x => { x with nak := true })
  if (s.link i.val).state ≠ .up then .next s
  else match rx with
    | .uncorrectable => .next (bad (s.count p 6 1))
    | .crcFail n => .next (bad ((s.count p 5 n).count p 7 1))
    | .good n =>
      let s1 := ((s.count p 5 n).takeAck i.val bytes).retryWaits i.val
      let type := bits (u8 bytes 0) 3 0
      .next (if (s1.link i.val).state = .up ∧ (type = 1 ∨ type = 2) then s1.takeFrame i.val bytes else s1)

/-! ### Control messages (R346, R347) -/

/-- Take the oldest delivered message of an OP. -/
def Dev.takeMsg (s : Dev) (op : Nat) (k : CtlMsg → Dev → Dev) : Host.Outcome Dev Fault Refusal :=
  match s.links.inbox.find? (fun m => m.op == op) with
  | none => .next s
  | some m => .next (k m (s.modLinks (fun y => { y with inbox := y.inbox.erase m })))

/-- The loom, its XFER and the send that a reply concerns. -/
def Dev.replyTo (s : Dev) (m : CtlMsg) : Option (Nat × XferJob × XferOut) :=
  match s.groupLoom m.dstStall m.group m.member, tget none (s.stall m.dstStall).groups m.group with
  | some (l, _), some g =>
    match (s.loom l).xfer with
    | some j =>
      if xferGroup j.smp.w = m.group then
        (j.outs.find? (fun o => (o.st == SendSt.requested || o.st == SendSt.waits) && o.minus == m.minus && o.coord == (m.row, m.col, m.plane) &&
          g.members.getD o.dst (0, 0) == (m.srcDev, m.srcStall))).map (fun o => (l, j, o))
      else none
    | none => none
  | _, _ => none

/-- A reply gives the send it concerns a new state. -/
def Dev.replied (s : Dev) (m : CtlMsg) (st : SendSt) : Dev :=
  match s.replyTo m with
  | some (l, j, o) => s.modLoom l (fun x => { x with xfer := some { j with outs := j.outs.map (fun q => if q = o then { o with st := st } else q) } })
  | none => s

/-- A reply ends the XFER that asked (R358). -/
def Dev.replyAborts (s : Dev) (m : CtlMsg) : Dev := match s.replyTo m with
  | some (l, _, _) => s.abortXfer l
  | none => s

/-- REQ (R347). -/
def execReq (s : State) : Host.Outcome State Fault Refusal := s.onDev fun s => s.takeMsg 1 (fun m t => t.answerReq m)
/-- GRANT (R347). -/
def execGrant (s : State) : Host.Outcome State Fault Refusal := s.onDev fun s => s.takeMsg 2 (fun m t => t.replied m .granted)
/-- WAIT (R347). -/
def execWait (s : State) : Host.Outcome State Fault Refusal := s.onDev fun s => s.takeMsg 3 (fun m t => t.replied m .waits)
/-- STALE (R347, R358). -/
def execStale (s : State) : Host.Outcome State Fault Refusal := s.onDev fun s => s.takeMsg 4 (fun m t => t.replyAborts m)
/-- ABSENT (R347, R358). -/
def execAbsent (s : State) : Host.Outcome State Fault Refusal := s.onDev fun s => s.takeMsg 5 (fun m t => t.replyAborts m)

/-! ### Roster rewrites (R356) -/

/-- The staged record's length, and the avoid list behind it; none where the list is malformed. -/
def avoidList (stage : Tab Byte) (n : Nat) : Option (List Nat) :=
  let v := leNat (tgetRange 0 stage n 4)
  let len := 4 + 2 * v
  if 1024 < v ∨ !(tgetRange 0 stage (n + len) ((8 - len % 8) % 8)).all (· == 0) then none
  else some ((List.range v).map (fun i => leNat (tgetRange 0 stage (n + 4 + 2 * i) 2)))

/-- The refusal code of a staged rewrite of group `g` (R356), or the roster and its avoid list. -/
def Dev.judgeRoster (s : Dev) (k g : Nat) : Nat ⊕ (Roster × List Nat) :=
  let x := s.stall k
  let n := 8 * leNat (tgetRange 0 x.stage 2 2)
  let b := tgetRange 0 x.stage 0 n
  let r := parseRoster b
  if x.blk.state.busy then .inl 1
  else if !(decide (16 ≤ n) && u16 b 0 == 0x701 && recordOk false { sect := 7, idx := 0, type := 0x701, bytes := b } && decide (r.group ≤ 4095) &&
      rosterOk s.axesNow (s.axesNow.deviceId, k) r) then .inl 2
  else match avoidList x.stage n with
    | none => .inl 2
    | some av => match tget none x.groups g with
      | some old =>
        if r.group ≠ g then .inl 3
        else
          let d := (BitVec.ofNat 32 r.epoch - old.epoch).toNat
          if d = 0 ∨ 2 ^ 31 ≤ d then .inl 4 else .inr (r, av)
      | none => .inl 3

/-- The looms of a stall whose XFER in progress names a group. -/
def Dev.groupXfers (s : Dev) (k g : Nat) : List Nat :=
  (s.stallLooms k).filter (fun l => match (s.loom l).xfer with
    | some j => xferGroup j.smp.w == g
    | none => false)

/-- The epoch of a group as LNK_RST_STATUS shows it. -/
def StallSt.groupEpoch (x : StallSt) (g : Nat) : W32 := match tget none x.groups g with
  | some y => y.epoch
  | none => 0

/-- Tiles that have come, in part or whole, for a group's members before they take them are discarded, and the slots granted for
them return to EMPTY. -/
def Dev.dropArrivals (s : Dev) (k g : Nat) : Dev := match s.groupLoom k g 0 with
  | some (_, t) => t.looms.foldl (fun u l => (u.dropXferIn l g (u.groupTz l t g)).dropAsm g (u.loom l).member) s
  | none => s

/-- Steps 2 to 4 of R356, by the scheduler core. -/
def Dev.checkRoster (s : Dev) (k : Nat) : Dev :=
  let g := (s.stall k).rstGroup.toNat
  match s.judgeRoster k g with
  | .inl code => s.modStall k (fun x => { x with rstState := .refused, rstCode := BitVec.ofNat 8 code, rstEpoch := x.groupEpoch g, rstWaits := false })
  | .inr (r, av) =>
    let y : Group := s.routed k { axis := r.axis, epoch := BitVec.ofNat 32 r.epoch, members := r.members, avoid := av }
    let s1 := s.modStall k (fun x => { x with groups := tset none x.groups g (some y), rstEpoch := y.epoch, rstWaits := false })
    ((s.groupXfers k g).foldl (fun t l => t.abortXfer l) s1).dropArrivals k g

/-- ROSTER_REWRITE (R356 step 1): OP 01 to LNK_RST_CMD, by the physical function or the stall's own. -/
def execRosterRewrite (fn : FnId) (st : StallId) (group : BitVec 12) (s : State) : Host.Outcome State Fault Refusal := s.onDev fun s =>
  let k := st.val
  let x := s.stall k
  s.hostCmd fn.val (
    if (fn.val = 0 ∨ fn.val = k + 1) ∧ x.rstState ≠ .busy ∧ x.plan.isSome ∧ (x.blk.state = .loaded ∨ x.blk.state.busy) then
      let s1 := s.modStall k (fun x => { x with rstState := .busy, rstCode := 0, rstGroup := group, rstEpoch := x.groupEpoch group.toNat,
                                                rstIssuer := fn.val, rstWaits := true })
      if s.coreUp 2 then s1.checkRoster k else s1
    else s)

/-- ROSTER_REWRITE_DONE (R356 steps 2 and 5). -/
def execRosterRewriteDone (st : StallId) (s : State) : Host.Outcome State Fault Refusal := s.onDev fun s =>
  let k := st.val
  let x := s.stall k
  if x.rstState ≠ .busy ∨ !s.coreUp 2 then .next s
  else if x.rstWaits then .next (s.checkRoster k)
  else if (s.groupXfers k x.rstGroup.toNat).all (fun l => match (s.loom l).xfer with
      | some j => !j.aborted
      | none => true) then
    .next ((s.modStall k (fun x => { x with rstState := .done })).msix x.rstIssuer 4)
  else .next s

end Sys2Proof.Machine
end

