-- ==== Sys2Proof/Machine/Quire.lean ====
section
/-!
DEFINITION. Stall faults (R363 to R366) and the parity quire (R380 to R385).
-/
namespace Sys2Proof.Machine

/-! ### Stall faults -/

/-- The stall has a record in the device plan. -/
def Dev.stallExists (s : Dev) (k : Nat) : Bool := (s.stallRec k).isSome

/-- Clusters of a stall. -/
def Dev.clustersOf (s : Dev) (k : Nat) : List Nat := match s.stallRec k with
  | some r => (List.range 96).filter (fun c => r.clusters.getLsbD c)
  | none => []

/-- Whether a cause of R363 holds for stall `k`. -/
def Dev.causeHolds (s : Dev) (k : Nat) : StallCause → Bool
  | .loom l => s.loomStall l.val == some k && (s.loom l.val).fault.faulted
  | .regulation => (s.clustersOf k).any (fun c => s.power.lost.contains c || s.dead c)
  | .coreHeld => (s.clustersOf k).any (fun c => s.fw.held.contains (16 + c))
  | .moduleFault => s.hub.moduleFault

def causeCode : StallCause → Nat × Nat
  | .loom l => (1, l.val)
  | .regulation => (2, 0)
  | .coreHeld => (3, 0)
  | .moduleFault => (4, 0)

/-- STALL_FAULT (R363, R364 steps 1 and 2): the cause is latched and every loom of the stall freezes. A cause that other
commands have latched already changes nothing here: they counted it when it arose. The module fault that no other command
raises is the loss of a base die or of a ring stretch (R25): it faults every stall (R376). -/
def execStallFault (st : StallId) (c : StallCause) (s : State) : Host.Outcome State Fault Refusal := s.onDev fun s =>
  let k := st.val
  .next (if c = .moduleFault ∧ !s.hub.moduleFault then s.moduleFault else if s.stallExists k && s.causeHolds k c && !(s.stall k).faulted then s.faultStall k (causeCode c).1 (causeCode c).2 else s)

/-- FAULT_NOTIFY (R364 step 5): the runs in progress end with status 2, the fault vectors are raised, the fault is logged. -/
def execFaultNotify (st : StallId) (s : State) : Host.Outcome State Fault Refusal := s.onDev fun s =>
  let k := st.val
  let x := s.stall k
  if x.faulted && !x.notified && s.coreUp 2 then
    let ts := match x.plan with
      | some p => p.stations
      | none => []
    let s1 := ts.foldl (fun t st => ((t.stall k).station st.num).runs.foldl (fun t r => t.closeRun k st r) t) s
    let s2 := s1.modStall k (fun x => { x with notified := true })
    .next (((s2.msix (k + 1) 3).msix 0 2).logEvent 2 0x0010 k 2 [x.cause.toNat, x.faultLoom.toNat])
  else .next s

/-! ### Arithmetic of GF(2^8) (R380) -/

/-- One step of multiplication by x, modulo x^8 + x^4 + x^3 + x^2 + 1. -/
def gfDouble (a : Nat) : Nat := if 128 ≤ a then (2 * a) ^^^ 0x11D else 2 * a

def gfMulN : Nat → Nat → Nat → Nat
  | 0, _, _ => 0
  | n + 1, a, b => (if b % 2 = 1 then a else 0) ^^^ gfMulN n (gfDouble a) (b / 2)

def gfMul (a b : Nat) : Nat := gfMulN 8 a b

def gfPow (a : Nat) : Nat → Nat
  | 0 => 1
  | n + 1 => gfMul a (gfPow a n)

/-- The inverse: a^254. -/
def gfInv (a : Nat) : Nat := gfPow a 254

/-- c_{j,i} of R380. -/
def gfCoef (p j i : Nat) : Nat := gfInv (j ^^^ (p + i))

/-- Row of rank `x` in the code: a unit row for data, coefficients for parity. -/
def gfRow (k p x : Nat) : List Nat :=
  if x < k then (List.range k).map (fun i => b2n (i == x)) else (List.range k).map (fun i => gfCoef p (x - k) i)

def gfScale (c : Nat) (r : List Nat) : List Nat := r.map (gfMul c)
def gfAdd (a b : List Nat) : List Nat := a.zipWith (· ^^^ ·) b

/-- Eliminate column `c` of an augmented system. -/
def gfElim (c : Nat) (m : List (List Nat)) : Option (List (List Nat)) :=
  match (List.range m.length).find? (fun i => decide (c ≤ i) && (m.getD i []).getD c 0 != 0) with
  | none => none
  | some i =>
    let m1 := (m.set i (m.getD c [])).set c (m.getD i [])
    let piv := gfScale (gfInv ((m1.getD c []).getD c 0)) (m1.getD c [])
    some (m1.zipIdx.map (fun e => if e.2 = c then piv else gfAdd e.1 (gfScale (e.1.getD c 0) piv)))

/-- The weights with which the rows of ranks `sv` add up to the row of rank `x`. -/
def gfWeights (k p x : Nat) (sv : List Nat) : Option (List Nat) :=
  let rows := (List.range k).map (fun c => sv.map (fun r => (gfRow k p r).getD c 0) ++ [(gfRow k p x).getD c 0])
  ((List.range k).foldl (fun (m : Option (List (List Nat))) c => m.bind (gfElim c)) (some rows)).map (fun m => m.map (fun r => r.getD k 0))

/-- Weighted sum of byte strings of one length. -/
def gfMix (n : Nat) (ws : List Nat) (ds : List (List Byte)) : List Byte :=
  ((ws.zip ds).foldl (fun (acc : List Nat) e => gfAdd acc (e.2.map (fun b => gfMul e.1 b.toNat))) (List.replicate n 0)).map (BitVec.ofNat 8)

/-! ### The quire record (R381) -/

structure QEnt where
  src : Nat
  copy : Nat
  par : Nat
  len : Nat
deriving DecidableEq, Repr

structure QRec where
  group : Nat
  k : Nat
  p : Nat
  stg : Nat
  /-- This member's rank. -/
  rank : Nat
  ents : List QEnt
deriving DecidableEq, Repr

def QRec.isData (q : QRec) : Bool := decide (q.rank < q.k)

/-- Bytes of the stall's memory as its engine reads them. -/
def Dev.qread (s : Dev) (k va n : Nat) : TRes (List Byte) := s.tierRead k none none va n

/-- Write several byte strings, all or none. -/
def Dev.qwrites (s : Dev) (k : Nat) : List (Nat × List Byte) → TRes Unit
  | [] => .ok () s
  | (va, d) :: t => match s.tierWrite k none none true va d with
    | .ok _ s1 => s1.qwrites k t
    | .bad va kind s1 => .bad va kind s1
    | .wait c => .wait c

/-- The rank of this stall in a group of the plan. -/
def Dev.quireRank (s : Dev) (k g : Nat) : Option (Nat × Nat) := match tget none (s.stall k).groups g with
  | some y => if y.members.contains (s.axesNow.deviceId, k) then some (y.members.idxOf (s.axesNow.deviceId, k), y.members.length) else none
  | none => none

/-- A region that an entry's copy or parity may use. -/
def Dev.quireHolds (s : Dev) (k r len : Nat) : Bool := match s.regionOf k r with
  | some x => x.cellar && x.write && decide (len ≤ x.len)
  | none => false

/-- The quire record where it keeps R380 and R381. -/
def Dev.parseQuire (s : Dev) (k : Nat) (h e : List Byte) : Option QRec :=
  let g := u16 h 0
  let kk := u8 h 2
  let p := u8 h 3
  let n := u16 h 4
  let ents := (List.range n).map (fun i => ({ src := u16 e (32 * i), copy := u16 e (32 * i + 2), par := u16 e (32 * i + 4), len := u64 e (32 * i + 8) } : QEnt))
  let rank := if g = 0xFFFF then (if p = 0 then some (0, kk) else none) else s.quireRank k g
  match rank with
  | none => none
  | some (i, count) =>
    let q : QRec := { group := g, k := kk, p := p, stg := u16 h 6, rank := i, ents := ents }
    let ok := decide (1 ≤ kk) && decide (p ≤ 4) && decide (kk + p ≤ 32) && count == kk + p && u16 h 16 == 9 && allZero h 8 8 && allZero h 18 46 &&
      decide (1 ≤ n) && decide (n ≤ 64) && s.mem.celMode == 2 &&
      (List.range n).all (fun i => allZero e (32 * i + 6) 2 && allZero e (32 * i + 16) 16) &&
      (if q.isData then q.stg == 0xFFFF && ents.all (fun x => x.par == 0xFFFF && s.quireHolds k x.copy (x.len + 64) &&
          (match s.regionOf k x.src with
           | some r => decide (x.len ≤ r.len)
           | none => false))
        else s.quireHolds k q.stg 64 && ents.all (fun x => x.src == 0xFFFF && x.copy == 0xFFFF && s.quireHolds k x.par (x.len + 64)))
    if ok then some q else none

/-- Run an engine step on the quire record: refused where the record breaks R381, not yet where the tiers make it wait. -/
def Dev.withQuire (s : Dev) (k : Nat) (f : QRec → Dev → Option Dev) : Dev :=
  let refuse : Dev := s.modStall k (fun x => { x with quire := { x.quire with refused := true } })
  let va := (s.stall k).quire.table.toNat
  if va % 64 ≠ 0 then refuse
  else
  match s.qread k va 64 with
  | .wait _ => s
  | .bad _ _ _ => refuse
  | .ok h s1 => match s1.qread k (va + 64) (32 * u16 h 4) with
    | .wait _ => s
    | .bad _ _ _ => refuse
    | .ok e s2 => match s2.parseQuire k h e with
      | none => refuse
      | some q => (f q s2).getD s

def Dev.modQuire (s : Dev) (k : Nat) (f : Quire → Quire) : Dev := s.modStall k (fun x => { x with quire := f x.quire })

def Dev.regionVa (s : Dev) (k r : Nat) : Nat := match s.regionOf k r with
  | some x => x.va
  | none => 0

/-! ### Commit lines (R381) -/

def commitLine (epoch : W32) (phase : Nat) : List Byte := natLe 2 0xB ++ (natLe 2 0 ++ (natLe 4 epoch.toNat ++ (natLe 1 phase ++ List.replicate 55 0)))

/-- VAs of the commit lines that step 5 writes. -/
def Dev.commitVas (s : Dev) (k : Nat) (q : QRec) : List Nat :=
  if q.isData then q.ents.map (fun e => s.regionVa k e.copy + e.len) else [s.regionVa k q.stg]

/-- VAs of the commit lines of the PAR regions. -/
def Dev.parVas (s : Dev) (k : Nat) (q : QRec) : List Nat := if q.isData then [] else q.ents.map (fun e => s.regionVa k e.par + e.len)

/-- Epoch of a commit line that reads PHASE 1, if one does. -/
def Dev.openCommit (s : Dev) (k : Nat) (q : QRec) : Option W32 :=
  (s.commitVas k q).findSome? (fun va => match s.qread k va 64 with
    | .ok b _ => if u16 b 0 = 0xB ∧ u8 b 8 = 1 then some (BitVec.ofNat 32 (u32 b 4)) else none
    | _ => none)

/-- A CEL_QUIRE_CMD of a function (R381 to R385): refused where State does not accept it or a commit line still reads PHASE 1
after the engine's start (R384). -/
def Dev.quireCmd (s : Dev) (fn : FnId) (st : StallId) (accepts : Quire → Bool) (f : QRec → Dev → Option Dev) :
    Host.Outcome Dev Fault Refusal :=
  let k := st.val
  s.hostCmd fn.val (
    if fn.val = 0 ∨ fn.val = k + 1 then
      if accepts (s.stall k).quire then
        s.withQuire k (fun q t => if (t.stall k).quire.resume && (t.openCommit k q).isSome then
            some (t.modQuire k (fun x => { x with refused := true }))
          else f q (t.modQuire k (fun x => { x with resume := false })))
      else s.modQuire k (fun x => { x with refused := true })
    else s)

/-- The pieces of an entry, block by block, that lie in dirty SRC blocks: entry, offset, bytes. -/
def Dev.dirtyPieces (s : Dev) (k : Nat) (q : QRec) : List (Nat × QEnt × Nat × Nat) :=
  q.ents.zipIdx.flatMap (fun e => ((List.range ((e.1.len + frameSz - 1) / frameSz)).filter (fun b => (s.block k e.1.src b).quireDirty)).map
    (fun b => (e.2, e.1, b * frameSz, min frameSz (e.1.len - b * frameSz))))

/-- The members of the quire's group. -/
def Dev.quireMembers (s : Dev) (k : Nat) (q : QRec) : List (Nat × Nat) := match tget none (s.stall k).groups q.group with
  | some g => g.members
  | none => []

/-- QUIRE_PREPARE (R383 steps 1 and 2): a data member sends the deltas of its dirty blocks to every parity member. -/
def execQuirePrepare (fn : FnId) (st : StallId) (epoch : W32) (s : State) : Host.Outcome State Fault Refusal := s.onDev fun s =>
  let k := st.val
  s.quireCmd fn st (fun x => x.state == .idle && epoch == x.epoch + 1) fun q t =>
    let start (t : Dev) : Dev := t.modQuire k (fun x => { x with state := .preparing, target := epoch, staged := [], pieces := [], applied := false })
    if !q.isData then some (start t)
    else
      let dsts := (s.quireMembers k q).drop q.k
      let send (a : Option Dev) (d : Nat × QEnt × Nat × Nat) : Option Dev := a.bind (fun t =>
        match t.qread k (t.regionVa k d.2.1.src + d.2.2.1) d.2.2.2 with
        | .ok new t1 => match t1.qread k (t1.regionVa k d.2.1.copy + d.2.2.1) d.2.2.2 with
          | .ok old t2 => some (dsts.foldl (fun t m => t.emit (.delta k m.1 m.2 d.1 d.2.2.1 (new.zipWith (· ^^^ ·) old))) t2)
          | _ => none
        | _ => none)
      ((t.dirtyPieces k q).foldl send (some t)).map start

/-- QUIRE_STAGE (R383 step 3): a data member's deltas, each an entry, an offset and its bytes, are written to STG. -/
def execQuireStage (st : StallId) (rank : Fin 32) (deltas : List (Nat × Nat × List Byte)) (s : State) : Host.Outcome State Fault Refusal := s.onDev fun s =>
  let k := st.val
  let x := (s.stall k).quire
  if x.state ≠ .preparing then .next s
  else .next (s.withQuire k fun q t =>
    let start := 64 + (x.pieces.map (fun e => e.2.2.2.2)).sum
    let ok := !q.isData && decide (rank.val < q.k) && !x.staged.contains rank.val &&
      deltas.all (fun d => decide (d.1 < q.ents.length) && decide (d.2.1 + d.2.2.length ≤ (q.ents.getD d.1 ⟨0, 0, 0, 0⟩).len)) &&
      (match t.regionOf k q.stg with
       | some r => decide (start + (deltas.map (fun d => d.2.2.length)).sum ≤ r.len)
       | none => false)
    if !ok then some t
    else
      let laid := deltas.foldl (fun (a : Nat × List (Nat × Nat × Nat × Nat × Nat) × List (Nat × List Byte)) d =>
        (a.1 + d.2.2.length, a.2.1 ++ [(rank.val, d.1, d.2.1, a.1, d.2.2.length)], a.2.2 ++ [(t.regionVa k q.stg + a.1, d.2.2)])) (start, [], [])
      match t.qwrites k laid.2.2 with
      | .ok _ t1 => some (t1.modQuire k (fun x => { x with staged := x.staged ++ [rank.val], pieces := x.pieces ++ laid.2.1 }))
      | _ => none)

/-- QUIRE_PREPARED (R383 step 4): a data member's sends are acknowledged, or a parity member has staged every delta. -/
def execQuirePrepared (st : StallId) (s : State) : Host.Outcome State Fault Refusal := s.onDev fun s =>
  let k := st.val
  if (s.stall k).quire.state ≠ .preparing then .next s
  else .next (s.withQuire k fun q t =>
    if q.isData || (List.range q.k).all (fun i => (t.stall k).quire.staged.contains i) then some (t.modQuire k (fun x => { x with state := .prepared })) else some t)

/-- The copying or applying of R383 step 6; none where the tiers make it wait. -/
def Dev.quireApply (s : Dev) (k : Nat) (q : QRec) : Option Dev :=
  if q.isData then
    (s.dirtyPieces k q).foldl (fun (a : Option Dev) d => a.bind (fun t =>
      match t.qread k (t.regionVa k d.2.1.src + d.2.2.1) d.2.2.2 with
      | .ok b t1 => (match t1.qwrites k [(t1.regionVa k d.2.1.copy + d.2.2.1, b)] with
        | .ok _ t2 => some t2
        | _ => none)
      | _ => none)) (some s)
  else if (s.stall k).quire.applied then some s
  else
    ((s.stall k).quire.pieces.foldl (fun (a : Option Dev) e => a.bind (fun t =>
      let pv := t.regionVa k (q.ents.getD e.2.1 ⟨0, 0, 0, 0⟩).par + e.2.2.1
      match t.qread k (t.regionVa k q.stg + e.2.2.2.1) e.2.2.2.2 with
      | .ok d t1 => (match t1.qread k pv e.2.2.2.2 with
        | .ok old t2 =>
          (match t2.qwrites k [(pv, gfMix e.2.2.2.2 [1, gfCoef q.p (q.rank - q.k) e.1] [old, d])] with
           | .ok _ t3 => some t3
           | _ => none)
        | _ => none)
      | _ => none)) (some s)).map (fun t => t.modQuire k (fun x => { x with applied := true }))

/-- The end of step 6: dirty bits clear, every commit line reads PHASE 2, State IDLE at the new epoch. -/
def Dev.quireFinish (s : Dev) (k : Nat) (q : QRec) (epoch : W32) : Option Dev :=
  let clean := if q.isData then q.ents.foldl (fun t e => (List.range ((e.len + frameSz - 1) / frameSz)).foldl (fun t b =>
    t.modBlock k e.src b (fun x => { x with quireDirty := false })) t) s else s
  match clean.qwrites k ((s.commitVas k q ++ s.parVas k q).map (fun va => (va, commitLine epoch 2))) with
  | .ok _ t => some (t.modQuire k (fun x => { x with state := .idle, epoch := epoch, staged := [], pieces := [], applied := false, resume := false }))
  | _ => none

/-- QUIRE_COMMIT (R383 steps 5 and 6): PHASE 1 is written, and the data are copied or applied. -/
def execQuireCommit (fn : FnId) (st : StallId) (s : State) : Host.Outcome State Fault Refusal := s.onDev fun s =>
  let k := st.val
  s.quireCmd fn st (fun x => x.state == .prepared) fun q t =>
    match t.qwrites k ((t.commitVas k q).map (fun va => (va, commitLine (t.stall k).quire.target 1))) with
    | .ok _ t1 => (t1.quireApply k q).map (fun t2 => t2.modQuire k (fun x => { x with state := .committing }))
    | _ => none

/-- QUIRE_COMMIT_COMPLETE (R383 step 6). -/
def execQuireCommitComplete (st : StallId) (s : State) : Host.Outcome State Fault Refusal := s.onDev fun s =>
  let k := st.val
  if (s.stall k).quire.state ≠ .committing then .next s
  else .next (s.withQuire k fun q t => t.quireFinish k q (t.stall k).quire.target).drainAll

/-- QUIRE_ABORT (R384): staged deltas are discarded and dirty bits kept. -/
def execQuireAbort (fn : FnId) (st : StallId) (s : State) : Host.Outcome State Fault Refusal := s.onDev fun s =>
  let k := st.val
  s.quireCmd fn st (fun x => x.state == .preparing || x.state == .prepared) fun _ t =>
    some (t.modQuire k (fun x => { x with state := .idle, staged := [], pieces := [], applied := false })).drainAll

/-- QUIRE_RESTORE (R385): each dirty SRC block is copied back from COPY and its bit cleared. -/
def execQuireRestore (fn : FnId) (st : StallId) (s : State) : Host.Outcome State Fault Refusal := s.onDev fun s =>
  let k := st.val
  s.quireCmd fn st (fun x => x.state == .idle) fun q t =>
    if !q.isData then some t
    else
      (t.dirtyPieces k q).foldl (fun (a : Option Dev) d => a.bind (fun t =>
        match t.qread k (t.regionVa k d.2.1.copy + d.2.2.1) d.2.2.2 with
        | .ok b t1 => (match t1.qwrites k [(t1.regionVa k d.2.1.src + d.2.2.1, b)] with
          | .ok _ t2 => some (t2.modBlock k d.2.1.src (d.2.2.1 / frameSz) (fun x => { x with quireDirty := false }))
          | _ => none)
        | _ => none)) (some t)

/-- QUIRE_RECONSTRUCT (R385): the copy or parity of rank x is rebuilt from K survivors, each given as its rank and, entry by
entry, its copy's or parity's bytes; a data member's COPY then goes into SRC. -/
def execQuireReconstruct (fn : FnId) (st : StallId) (rank : Fin 32) (epoch : W32) (from_ : List (Nat × List (List Byte))) (s : State) :
    Host.Outcome State Fault Refusal := s.onDev fun s =>
  let k := st.val
  s.quireCmd fn st (fun x => x.state == .idle) fun q t =>
    let sv := from_.map (·.1)
    let x := rank.val
    let fits := sv.length == q.k && noDup sv && sv.all (fun r => decide (r < q.k + q.p) && r != x) && decide (x < q.k + q.p) &&
      (decide (x < q.k) == q.isData) && from_.all (fun f => f.2.length == q.ents.length && (q.ents.zip f.2).all (fun e => e.2.length == e.1.len))
    match (if fits then gfWeights q.k q.p x sv else none) with
    | none => some t
    | some ws =>
      let rebuilt := q.ents.zipIdx.map (fun e => (e.1, gfMix e.1.len ws (from_.map (fun f => f.2.getD e.2 []))))
      let writes := rebuilt.flatMap (fun e =>
        if q.isData then [(t.regionVa k e.1.copy, e.2 ++ commitLine epoch 2), (t.regionVa k e.1.src, e.2)]
        else [(t.regionVa k e.1.par, e.2 ++ commitLine epoch 2)])
      match t.qwrites k writes with
      | .ok _ t1 =>
        let t2 := if q.isData then q.ents.foldl (fun t e => (List.range ((e.len + frameSz - 1) / frameSz)).foldl (fun t b =>
          t.modBlock k e.src b (fun x => { x with quireDirty := false })) t) t1 else t1
        some (t2.modQuire k (fun x => { x with epoch := epoch }))
      | _ => none

/-- QUIRE_RESUME_COMMIT (R384): an engine that starts with a commit line in PHASE 1 completes step 6 first. -/
def execQuireResumeCommit (st : StallId) (s : State) : Host.Outcome State Fault Refusal := s.onDev fun s =>
  let k := st.val
  let x := (s.stall k).quire
  if x.resume && x.state == .idle && (s.stall k).blk.state == .loaded then
    .next (s.withQuire k fun q t => match t.openCommit k q with
      | none => some (t.modQuire k (fun x => { x with resume := false }))
      | some e => (t.quireApply k q).bind (fun t1 => t1.quireFinish k q e))
  else .next s

end Sys2Proof.Machine
end

