-- ==== Sys2Proof/Machine/Fw.lean ====
section
/-!
DEFINITION. Firmware processors (R373, R374), images and boot (R434, R435, R462 to R464), activation (R436 to R440), crash
dumps (R441) and non-volatile writes (R428, R429).
-/
namespace Sys2Proof.Machine

def Dev.modFw (s : Dev) (f : FwSt → FwSt) : Dev := { s with fw := f s.fw }
def Dev.modPower (s : Dev) (f : PowerSt → PowerSt) : Dev := { s with power := f s.power }
def Dev.modSec (s : Dev) (f : SecSt → SecSt) : Dev := { s with sec := f s.sec }
def Dev.modMgt (s : Dev) (f : MgtSt → MgtSt) : Dev := { s with mgt := f s.mgt }

/-- PROC of R441. -/
def procNum : Proc → Nat
  | .security => 0
  | .power => 1
  | .scheduler => 2
  | .management => 3
  | .cluster c => 16 + c.val

/-- The image that a processor runs (R434). -/
def imageOf (p : Nat) : Nat := if p < 4 then p + 1 else 5

/-- The processors that run an image. -/
def procsOf (image : Nat) : List Nat := if image = 5 then (List.range 96).map (16 + ·) else [image - 1]

def satInc (b : Byte) : Byte := if b = 255 then b else b + 1

/-! ### Image slots (R434, R463, R464) -/

def FwSt.image (f : FwSt) (key : Nat) : List Byte := (tget none f.slots key).getD (Config.factorySlot key)

/-- The boot-record bank that governs (R428). -/
def FwSt.governs (f : FwSt) : BootBank :=
  if f.bank0.good && (!f.bank1.good || decide (f.bank1.seq ≤ f.bank0.seq)) then f.bank0 else f.bank1

/-- Images whose active slot is B. -/
def FwSt.activeB (f : FwSt) : List Nat := f.governs.slotB

/-- The slot key of an image's active slot, and of the other. -/
def FwSt.activeKey (f : FwSt) (image : Nat) : Nat := 2 * image + b2n (f.activeB.contains image)
def FwSt.otherKey (f : FwSt) (image : Nat) : Nat := 2 * image + b2n (!f.activeB.contains image)

/-- The rollback floor of an image: the entry burned last whose digest checks (R428). -/
def SecSt.floor (x : SecSt) (image : Nat) : W32 := match (x.floors.filter (fun e => e.1 == image && e.2.2)).getLast? with
  | some e => e.2.1
  | none => 0

def imageVersion (b : List Byte) : W32 := BitVec.ofNat 32 (u32 b 8)

/-- The body of an image. -/
def imageBody (b : List Byte) : List Byte := slice b 4096 (u32 b 12)

def digestBytes (d : BitVec 256) : List Byte := natLe 32 d.toNat

/-- A slot verifies (R464), but for its floor. -/
def slotSound (image : Nat) (b : List Byte) : Bool :=
  let key := slice b 56 1312
  let d := Config.sha3_256 key
  u32 b 0 == 0x474D4948 && u16 b 4 == image && u16 b 6 == 1 && decide (u32 b 12 ≤ 4194304 - 4096) && allZero b 3788 308 &&
  (List.range 4).any (fun i => Config.firmwareKey i == d && !Config.firmwareKeyRevoked i) &&
  Config.mldsaVerify key (digestBytes (Config.sha3_256 (slice b 0 1368))) (slice b 1368 2420) &&
  slice b 16 32 == digestBytes (Config.sha3_256 (imageBody b))

/-- A slot verifies (R464). -/
def Dev.slotOk (s : Dev) (image key : Nat) : Bool :=
  let b := s.fw.image key
  slotSound image b && decide ((s.sec.floor image).toNat ≤ (imageVersion b).toNat)

/-! ### Non-volatile writes (R428, R429) -/

/-- Begin a write: every earlier one but the boot record's has ended by then. -/
def Dev.beginNv (s : Dev) (w : NvWrite) : Dev :=
  s.modFw (fun f => { f with nv := f.nv.filter (fun x => match x with
    | .boot _ => true
    | _ => false) ++ [w] })

/-- Begin writing the boot record into the bank that does not govern. -/
def Dev.beginBoot (s : Dev) (slotB : List Nat) : Dev :=
  let n := max s.fw.bank0.seq s.fw.bank1.seq + 1
  let b : BootBank := { seq := n, slotB := slotB, good := false }
  if s.fw.governs = s.fw.bank0 then (s.modFw (fun f => { f with bank1 := b, bootHeld := none })).beginNv (.boot 1)
  else (s.modFw (fun f => { f with bank0 := b, bootHeld := none })).beginNv (.boot 0)

/-- The boot record is to name these active slots: written now, or held by the inhibit. -/
def Dev.writeBoot (s : Dev) (slotB : List Nat) : Dev :=
  if s.power.nvInh then s.modFw (fun f => { f with bootHeld := some slotB }) else s.beginBoot slotB

/-- A boot-record write ends well: its bank's digest checks. -/
def FwSt.bootDone (f : FwSt) (bank : Nat) : FwSt :=
  let f1 := if bank = 0 then { f with bank0 := { f.bank0 with good := true } } else { f with bank1 := { f.bank1 with good := true } }
  { f1 with nv := f.nv.filter (· != .boot bank), act := f.act.map (fun a => if a.writing then { a with written := true } else a) }

/-! ### Holding and starting processors (R374, R435) -/

/-- A processor is held stopped until cold reset, with the consequences of R374. -/
def Dev.holdProc (s : Dev) (p : Nat) : Dev :=
  let s1 := (s.modFw (fun f => { f with held := sinsert p f.held, down := f.down.filter (· != p), handing := f.handing.filter (· != p) })).logEvent
    0x0100 0x0040 255 2 [p, 2]
  if 16 ≤ p then
    let s2 := (List.range 12).foldl (fun t i => t.modLoom (12 * (p - 16) + i) (fun x => { x with frzCcc := true })) s1
    match s2.clusterStall (p - 16) with
    | some k => s2.faultStall k 3 0
    | none => s2
  else if p = 0 ∨ p = 2 then s1.moduleFault
  else if p = 1 then s1.modPower (fun w => { w with pcHeld := true })
  else s1

/-- The loops stand at their first-use point (R432). -/
def PowerSt.firstUse (w : PowerSt) : PowerSt :=
  { w with vpw := min 900 (max 550 w.vset.toNat), vth := [], rail := [], model := [] }

/-- A processor starts from a slot and takes up its duties (R373, R433). -/
def Dev.startProc (s : Dev) (p key : Nat) : Dev :=
  let s1 := s.modFw (fun f => { f with
    released := sinsert p f.released, down := f.down.filter (· != p), handing := f.handing.filter (· != p),
    slotB := if key % 2 = 1 then sinsert p f.slotB else f.slotB.filter (· != p) })
  if 16 ≤ p then (List.range 12).foldl (fun t i => t.modLoom (12 * (p - 16) + i) (fun x => { x with frzCcc := false })) s1
  else if p = 1 then s1.modPower (fun w => { w.firstUse with pcHeld := false })
  else if p = 3 then s1.modHub (fun h => { h with logQueue := h.logQueue ++ h.cluHeld.flatMap (fun e => e.2), cluHeld := [] })
  else s1

/-- Start a processor as R435 says: from its image's active slot, else from the other, else it is held. -/
def Dev.bootProc (s : Dev) (p : Nat) : Dev :=
  let i := imageOf p
  let a := s.fw.activeKey i
  let o := s.fw.otherKey i
  if s.slotOk i a then s.startProc p a
  else if s.slotOk i o then
    let s1 := (s.startProc p o).logEvent 0 0x0040 255 2 [p, 1]
    s1.writeBoot (if o % 2 = 1 then sinsert i s.fw.activeB else s.fw.activeB.filter (· != i))
  else s.holdProc p

/-! ### Activation (R437 to R440) -/

/-- An activation ends with a result: logged, reported by vector 7, and passed on to PLDM (R461). -/
def Dev.endActivation (s : Dev) (image result : Nat) (pldm : Bool) : Dev :=
  let s1 := (s.modFw (fun f => { f with act := none, actResult := BitVec.ofNat 8 result })).logEvent 0 0x0041 255 0 [image, result]
  let s2 := s1.msix 0 7
  if pldm then s2.modMgt (fun m => if result = 0 then { m with updated := m.updated.filter (· != image) }
    else { m with queue := [], activating := false, refused := some (image, result) })
  else s2

/-- The refusal code of R437. -/
def Dev.activationCode (s : Dev) (image : Nat) (pldm : Bool) : Nat :=
  let valid := decide (1 ≤ image) && decide (image ≤ 5)
  let away (p : Nat) : Bool := s.fw.down.contains p || s.fw.held.contains p
  if s.power.emerg ≠ 0 then 1
  else if valid && !s.slotOk image (s.fw.otherKey image) then 2
  else if (valid && (procsOf image).any away) || s.fw.down.contains 0 then 3
  else if s.fw.act.isSome || (s.mgt.activating && !pldm) then 4
  else if !valid then 5
  else 0

/-- Ask for an activation (R437, R438 steps 1 to 4): refused with a code, which is logged (R460), or the image's processors stop at their quiet
point and start the new image. -/
def Dev.activate (s : Dev) (image : Nat) (pldm : Bool) : Dev :=
  let code := s.activationCode image pldm
  if code ≠ 0 then
    let s1 := (s.modFw (fun f => { f with actResult := BitVec.ofNat 8 code })).logEvent 0 0x0041 255 0 [image, code]
    if pldm then s1.modMgt (fun m => { m with queue := [], activating := false, refused := some (image, code) }) else s1
  else s.modFw (fun f => { f with
    act := some { image := image, wait := procsOf image, pldm := pldm }, actResult := 0, handing := (procsOf image).foldl (fun l p => sinsert p l) f.handing })

/-- The next image of a PLDM activation (R461). -/
def Dev.pldmNext (s : Dev) : Dev :=
  if s.mgt.activating && s.fw.act.isNone then
    match s.mgt.queue with
    | i :: rest => (s.modMgt (fun m => { m with queue := rest })).activate i true
    | [] => s.modMgt (fun m => { m with activating := false })
  else s

/-- FW_ACTIVATE (R437): GO written to HUB_FW_ACT by the physical function. -/
def execFwActivate (fn : FnId) (image : BitVec 3) (s : State) : Host.Outcome State Fault Refusal := s.onDev fun s =>
  s.host (if fn.val = 0 then (s.modFw (fun f => { f with actImage := image })).activate image.toNat false else s)

/-- Before the commit point the processors go back to the old image, which adopts the same record (R439). -/
def Dev.revertActivation (s : Dev) (result : Nat) : Dev := match s.fw.act with
  | some a =>
    if a.written then s
    else (s.modFw (fun f => { f with handing := f.handing.filter (fun p => !(procsOf a.image).contains p), bootHeld := none,
                                     nv := if a.writing then f.nv.filter (fun w => match w with
                                       | .boot _ => false
                                       | _ => true) else f.nv })).endActivation a.image result a.pldm
  | none => s

/-- The hand-over record (R440). -/
def handoverRecord (image : Nat) (old new : W32) (body : List Byte) : List Byte :=
  natLe 2 0xA ++ (natLe 2 image ++ (natLe 4 old.toNat ++ (natLe 4 new.toNat ++ (natLe 4 body.length ++
    (digestBytes (Config.sha3_256 body) ++ (List.replicate 16 0 ++ body))))))

/-! ### Crashes (R373, R374, R441) -/

/-- A crash dump (R441). -/
def Dev.dumpBytes (s : Dev) (p cause us seq restarts : Nat) (d : CrashInfo) : List Byte :=
  let key := 2 * imageOf p + b2n (s.fw.slotB.contains p)
  let words (n : Nat) (l : List W32) : List Byte := (List.range n).flatMap (fun i => natLe 4 (l.getD i 0).toNat)
  let b := [natLe 4 0x504D4443, natLe 2 1, natLe 2 p, natLe 8 seq, natLe 4 (imageVersion (s.fw.image key)).toNat, natLe 1 (key % 2),
    natLe 1 cause, natLe 2 restarts, words 35 d.regs, natLe 4 us, natLe 8 (tget 0 s.fw.logOf p).toNat, words 64 d.trace,
    slice (d.stack ++ List.replicate 1024 0) 0 1024, List.replicate 16 0].flatten
  b ++ digestBytes (Config.sha3_256 b)

/-- A plan load that the scheduler core's restart ends with code 0x7F (R213): untouched before placement, FAILED from then. -/
def Dev.dropLoad (s : Dev) (c : HeldCmd) : Dev :=
  let t : PlanTarget := if c.tgt = 0 then .device else .stall (Fin.ofNat 96 (c.tgt - 1))
  let b := s.blk t
  if c.unload then s
  else
    let s1 := if b.state = .placing then
        s.modBlk t (fun b => { b with state := .failed, fail := ⟨0x7F, 0, 0, 0⟩ })
      else s.modBlk t (fun b => { b with state := b.prev, fail := ⟨0x7F, 0, 0, 0⟩ })
    let s2 := match t with
      | .device => s1.modHub (fun h => { h with dcand := none })
      | .stall k => s1.modStall k.val (fun x => { x with cand := none })
    (s2.unhold t).planLog t 0x7F 0

/-- What stops while a processor is away (R373): its cluster's looms freeze, loads end, the limiter holds. -/
def Dev.procAway (s : Dev) (p : Nat) : Dev :=
  if 16 ≤ p then (List.range 12).foldl (fun t i => t.modLoom (12 * (p - 16) + i) (fun x => { x with frzCcc := true })) s
  else if p = 2 then s.hub.held.foldl (fun t c => t.dropLoad c) s
  else if p = 1 then s.modPower (fun w => { w with pcHeld := true })
  else s

/-- A processor crashes: it writes a dump where the buffer has room, counts the restart, and restarts or is held on the
fourth within 600 s; a hand-over that has not committed goes back to the old image (R439). -/
def Dev.crash (s : Dev) (p cause us : Nat) (d : CrashInfo) : Dev :=
  let recent := (tget [] s.fw.times p).filter (fun t => decide (us ≤ t + 600000000))
  let n := recent.length + 1
  let seq := s.fw.dumpSeq + 1
  let s1 := if s.fw.dumpBuf.length < 4 then
      s.modFw (fun f => { f with dumpSeq := seq, dumpBuf := f.dumpBuf ++ [(seq, s.dumpBytes p cause us seq n d)] })
    else s.modFw (fun f => { f with dumpsLost := satInc f.dumpsLost })
  let s2 := s1.modFw (fun f => { f with restarts := tmod 0 f.restarts p satInc, times := tset [] f.times p (recent ++ [us]) })
  let s3 := if s2.fw.handing.contains p || p = 0 then s2.revertActivation 7 else s2
  let s4 := (s3.modFw (fun f => { f with down := sinsert p f.down })).procAway p
  if 4 ≤ n then s4.holdProc p else s4.logEvent 0x0100 0x0040 255 2 [p, 0, cause, n]

/-- A processor can crash: it runs, or hands over. -/
def Dev.alive (s : Dev) (p : Nat) : Bool := s.coreUp p || (s.fw.handing.contains p && !s.fw.down.contains p)

/-- FW_WATCHDOG_EXPIRE (R373). -/
def execFwWatchdogExpire (p : Proc) (us : Nat) (d : CrashInfo) (s : State) : Host.Outcome State Fault Refusal := s.onDev fun s =>
  .next (if s.alive (procNum p) then s.crash (procNum p) 1 us d else s)

/-- FW_TRAP (R373). -/
def execFwTrap (p : Proc) (us : Nat) (d : CrashInfo) (s : State) : Host.Outcome State Fault Refusal := s.onDev fun s =>
  .next (if s.alive (procNum p) then s.crash (procNum p) 2 us d else s)

/-- The processor's supply is up, and the security core can verify its image; the security core itself is verified by its
ROM (R427, R462). -/
def Dev.canBoot (s : Dev) (p : Nat) : Bool :=
  s.power.state != .off && (p == 0 || s.coreUp 0) &&
  (p == 0 || p == 1 || p == 3 || ((s.power.state == .ramp || s.power.state == .run) && s.power.ramped))

/-- The new security core's challenge and, for a new start of the ROM, the identity key (R465, R467). -/
def Dev.secureStart (s : Dev) : Dev :=
  let (n, s1) := s.draw
  s1.modSec (fun x => { x with challenge := natLe 8 (Config.freeWord n 0).toNat ++ natLe 8 (Config.freeWord n 1).toNat, identity := true })

/-- BOOT_VERIFY (R435, R427 steps 3 and 6). -/
def execBootVerify (p : Proc) (s : State) : Host.Outcome State Fault Refusal := s.onDev fun s =>
  let n := procNum p
  if s.canBoot n && !s.fw.released.contains n && !s.fw.held.contains n then
    let s1 := s.bootProc n
    .next (if n = 0 ∧ s1.coreUp 0 then s1.secureStart else s1)
  else .next s

/-- FW_HANDOVER_READY (R438 steps 3 to 6, R440): a processor's new image adopts the hand-over record of the old, whose body
is given, and reports ready; or it cannot, which is a crash. When the last one is ready the boot record's write begins. -/
def execFwHandoverReady (p : Proc) (us : Nat) (body : List Byte) (failed : Option CrashInfo) (s : State) : Host.Outcome State Fault Refusal := s.onDev fun s =>
  let n := procNum p
  match s.fw.act with
  | none => .next s
  | some a =>
    if !a.wait.contains n || decide (65472 < body.length) then .next s
    else
      let old := imageVersion (s.fw.image (2 * a.image + b2n (s.fw.slotB.contains n)))
      let rec_ := handoverRecord a.image old (imageVersion (s.fw.image (s.fw.otherKey a.image))) body
      let s1 := s.modFw (fun f => { f with handover := tset [] f.handover n rec_ })
      match failed with
      | some d => .next (s1.crash n 3 us d).pldmNext
      | none =>
        let wait := a.wait.filter (· != n)
        let begin_ := wait.isEmpty && !s.power.nvInh
        let s2 := s1.modFw (fun f => { f with act := some { a with wait := wait, writing := begin_ } })
        let act := s.fw.activeB
        .next (if begin_ then s2.beginBoot (if act.contains a.image then act.filter (· != a.image) else sinsert a.image act) else s2)

/-- FW_COMMIT (R438 steps 6 and 7): the boot record's write ends, and the new image resumes its duties. -/
def execFwCommit (s : State) : Host.Outcome State Fault Refusal := s.onDev fun s =>
  match s.fw.act with
  | none => .next s
  | some a =>
    if !a.wait.isEmpty || !a.writing then .next s
    else
      let key := if a.written then s.fw.activeKey a.image else s.fw.otherKey a.image
      let s1 := s.modFw (fun f => f.nv.foldl (fun f w => match w with
        | .boot b => f.bootDone b
        | _ => f) f)
      let s2 := (procsOf a.image).foldl (fun t p => t.modFw (fun f => { f with
        handing := f.handing.filter (· != p), slotB := if key % 2 = 1 then sinsert p f.slotB else f.slotB.filter (· != p) })) s1
      .next (s2.endActivation a.image 0 a.pldm).pldmNext

/-- CRASH_DUMP_COPY (R441): the management core copies the oldest waiting dump to the crash store, which keeps the newest 32. -/
def execCrashDumpCopy (s : State) : Host.Outcome State Fault Refusal := s.onDev fun s =>
  match s.fw.dumpBuf with
  | (n, b) :: rest =>
    if s.coreUp 3 && !s.power.nvInh && !s.power.nvWarn then
      .next ((s.modFw (fun f => { f with dumpBuf := rest, crashes := tdrop (fun i => decide (i + 32 ≤ n)) (tset none f.crashes n (some b)) })).beginNv (.dump n))
    else .next s
  | [] => .next s

/-- CDUMP_SELECT: a write of HUB_CDUMP_SEL by the physical function (R441). -/
def execCdumpSelect (fn : FnId) (seq : W64) (s : State) : Host.Outcome State Fault Refusal := s.onDev fun s =>
  s.host (if fn.val = 0 then s.modFw (fun f => { f with cdumpSel := seq }) else s)

/-- HUB_CDUMP_WIN: the selected dump, or zeros. -/
def FwSt.dumpWindow (f : FwSt) : List Byte :=
  let n := if f.cdumpSel = 0 then (f.crashes.getLast?.map (·.1)).getD 0 else f.cdumpSel.toNat
  (tget none f.crashes n).getD (List.replicate 1504 0)

/-- The write in progress aborts (R429): its bank or entry fails its digest. -/
def Dev.abortNv (s : Dev) : NvWrite → Dev
  | .log n => s.modHub (fun h => { h with log := tset none h.log n none })
  | .dump n => s.modFw (fun f => { f with crashes := tset none f.crashes n none })
  | .operatorFuse i => s.modSec (fun x => { x with opFuses := lmod x.opFuses i (fun e => (e.1, false)) })
  | .floorFuse i => s.modSec (fun x => { x with floors := lmod x.floors i (fun e => (e.1, e.2.1, false)) })
  | .slot k => s.modFw (fun f => { f with slots := tset none f.slots k (some []) })
  | .boot _ => (s.revertActivation 6).pldmNext

/-- NV_WRITE_COMPLETE (R428, R429): the oldest write in progress ends; it aborts where standby fell to 2.90 V. -/
def execNvWriteComplete (sb : Nat) (s : State) : Host.Outcome State Fault Refusal := s.onDev fun s =>
  match s.fw.nv with
  | [] => .next s
  | w :: rest =>
    if sb ≤ 2900 then .next ((s.modFw (fun f => { f with nv := rest })).abortNv w)
    else match w with
      | .boot b => .next (s.modFw (fun f => f.bootDone b))
      | _ => .next (s.modFw (fun f => { f with nv := rest }))

end Sys2Proof.Machine
end

