-- ==== Sys2Proof/Machine/Power.lean ====
section
/-!
DEFINITION. Limits, power states, resets, supply sag, the power and thermal loops, emergencies (R420 to R436).
-/
namespace Sys2Proof.Machine

/-! ### Losing the main supply (R425, R426) -/

/-- Processors in the always-on island. -/
def inIsland (p : Nat) : Bool := p == 0 || p == 1 || p == 3

/-- Every main domain loses its supply: what it held is gone, and what the always-on island, the flash, the fuses and the
meter hold stays. -/
def Dev.unpower (s : Dev) (next : PwrState) : Dev :=
  { s with
    tally := {}, units := [], looms := [], stalls := [], net := [], waiters := [], acks := [], mem := {}, links := {},
    hub := { logSeq := s.hub.logSeq, log := s.hub.log, logQueue := s.hub.logQueue, logLost := s.hub.logLost, moduleFault := s.hub.moduleFault },
    power := { s.power.firstUse with state := next, limiter := false, target := [], ramped := false, trained := false },
    fw := { s.fw with released := s.fw.released.filter inIsland, down := s.fw.down.filter inIsland, handing := s.fw.handing.filter inIsland, act := none },
    mgt := { s.mgt with activating := false, queue := [], eidPcie := 0 } }

/-- A cold reset (R425): counters, held processors, trips and dead clusters are cleared, registers return to their reset
values, and power-up goes on from step 4. -/
def Dev.coldReset (s : Dev) : Dev :=
  let t := s.unpower .standby
  { t with
    hub := { t.hub with moduleFault := false },
    power := { ({} : PowerSt) with emerg := s.power.emerg, nvInh := s.power.nvInh, nvWarn := s.power.nvWarn },
    fw := { t.fw with held := [], released := t.fw.released.filter (fun p => !s.fw.held.contains p), restarts := [], times := [],
                      dumpsLost := 0, cdumpSel := 0, handover := [], actImage := 0, actResult := 0 },
    sec := { t.sec with testOpen := false, state := 0, code := 0, window := [], waiting := none },
    mgt := {} }

/-- The input is gone (R426): standby falls too, and with it the always-on island's memory; a write in progress aborts. -/
def Dev.powerOff (s : Dev) : Dev :=
  let s1 := s.fw.nv.foldl (fun t w => t.abortNv w) s
  let t := s1.coldReset
  { t with
    hub := { t.hub with logQueue := [], logLost := 0 },
    power := { state := .off, aux := false },
    fw := { t.fw with released := [], down := [], handing := [], slotB := [], logOf := [], dumpSeq := t.fw.dumpSeq, dumpBuf := [], nv := [], bootHeld := none },
    sec := { opFuses := t.sec.opFuses, floors := t.sec.floors, identity := false } }

/-- The input is gone for module and meter. -/
def State.powerOff (s : State) : State := { s with toDev := s.toDev.powerOff, meter := { s.meter with ready := false } }

/-- COLD = 1 written to PWR_CTRL by the physical function; STAY is kept, so that it acts at the next step 4 of power-up. -/
def execColdReset (fn : FnId) (s : State) : Host.Outcome State Fault Refusal := s.onDev fun s =>
  s.host (if fn.val = 0 ∧ (s.power.state = .run ∨ s.power.state = .standby ∨ s.power.state = .tripped) then
    s.coldReset.modPower (fun w => { w with stay := s.power.stay }) else s)

/-! ### The limits of R423 -/

def Dev.mainOn (s : Dev) : Bool := s.power.state == .ramp || s.power.state == .run

/-- A trip: the domains lose their supply, latched, with its cause in the log. -/
def Dev.trip (s : Dev) (cause : Nat) : Dev :=
  ((s.unpower .tripped).modPower (fun w => { w with trip := BitVec.ofNat 2 cause })).logEvent 0x0100 0x0050 255 2 [256 + cause]

/-- JUNCTION_TRIP: a sensor reads 105 °C or more; `t` in tenths of a degree. -/
def execJunctionTrip (t : Int) (s : State) : Host.Outcome State Fault Refusal := s.onDev fun s =>
  .next (if 1050 ≤ t ∧ s.mainOn then s.trip 1 else s)

/-- INPUT_OVERCURRENT: 90 A for 50 µs forces every cluster regulator to 0.65 V. -/
def execInputOvercurrent (ma us : Nat) (s : State) : Host.Outcome State Fault Refusal := s.onDev fun s =>
  .next (if 90000 ≤ ma ∧ 50 ≤ us ∧ s.mainOn then s.modPower (fun w => { w with limiter := true }) else s)

/-- LIMITER_RELEASE: the input has stayed below 85 A for 10 ms. -/
def execLimiterRelease (ma ms : Nat) (s : State) : Host.Outcome State Fault Refusal := s.onDev fun s =>
  .next (if ma < 85000 ∧ 10 ≤ ms then s.modPower (fun w => { w with limiter := false }) else s)

/-- INPUT_SHORT: 120 A for 2 µs opens the hot-swap FET. -/
def execInputShort (ma us : Nat) (s : State) : Host.Outcome State Fault Refusal := s.onDev fun s =>
  .next (if 120000 ≤ ma ∧ 2 ≤ us ∧ s.power.state ≠ .off then s.trip 2 else s)

/-- INPUT_UNDERVOLTAGE: below 38.0 V for 100 µs. -/
def execInputUndervoltage (mv us : Nat) (s : State) : Host.Outcome State Fault Refusal := s.onDev fun s =>
  .next (if mv < 38000 ∧ 100 ≤ us ∧ s.mainOn then s.unpower .standby else s)

/-- INPUT_OVERVOLTAGE: above 62.0 V for 10 µs. -/
def execInputOvervoltage (mv us : Nat) (s : State) : Host.Outcome State Fault Refusal := s.onDev fun s =>
  .next (if 62000 < mv ∧ 10 ≤ us ∧ s.mainOn then s.unpower .standby else s)

/-- INPUT_LOSS: the input falls below 30 V (R426). -/
def execInputLoss (mv : Nat) (s : State) : Host.Outcome State Fault Refusal := .next (if mv < 30000 then s.powerOff else s)

/-- VIN_PRSNT_BREAK: the entry opens its hot-swap FET, which interrupts the module as the loss of its input does (R482). -/
def execVinPrsntBreak (s : State) : Host.Outcome State Fault Refusal := .next s.powerOff

/-- CART_REMOVE: the cartridge's presence contact breaks, input current is removed, and the cartridge leaves with its store
(R418). -/
def execCartRemove (s : State) : Host.Outcome State Fault Refusal :=
  if s.meter.present then .next { s.powerOff with meter := {} } else .next s

/-! ### Loss of regulation (R424) -/

/-- REGULATION_LOSS: a domain's target drops to 0.65 V; a cluster's stall faults, any other domain faults the module. -/
def execRegulationLoss (d : DomainId) (s : State) : Host.Outcome State Fault Refusal := s.onDev fun s =>
  if !s.mainOn || s.power.lost.contains d.val || s.power.dark.contains d.val then .next s
  else
    let s1 := s.modPower (fun w => { w with lost := sinsert d.val w.lost, target := if d.val < 96 then tset 550 w.target d.val 650 else w.target })
    if d.val < 96 then
      match s.clusterStall d.val with
      | some k => .next (s1.faultStall k 2 0)
      | none => .next s1
    else .next s1.moduleFault

/-- REGULATION_TIMEOUT: a domain that does not regulate at 0.65 V within 1 ms is switched off; a cluster is then dead, and the
responses that its pickers await are absorbed and counted. -/
def execRegulationTimeout (d : DomainId) (us : Nat) (s : State) : Host.Outcome State Fault Refusal := s.onDev fun s =>
  if !s.power.lost.contains d.val || decide (us < 1000) then .next s
  else
    let s1 := s.modPower (fun w => { w with lost := w.lost.filter (· != d.val), dark := sinsert d.val w.dark })
    if d.val < 96 then
      let ls := (List.range 12).map (fun i => 12 * d.val + i)
      let late := (ls.map (fun l => match (s.loom l).pick with
        | some j => j.pend.length
        | none => 0)).sum
      let s2 := match s.clusterStall d.val with
        | some k => s1.modStall k (fun x => { x with discard := x.discard + BitVec.ofNat 64 late })
        | none => s1
      .next (ls.foldl (fun t l => t.setLoom l { frzFault := (s.loom l).frzFault }) s2)
    else .next s1

/-! ### Power-up (R427) -/

/-- POWER_UP_START (step 1). -/
def execPowerUpStart (mv : Nat) (s : State) : Host.Outcome State Fault Refusal := s.onDev fun s =>
  .next (if 38000 ≤ mv ∧ s.power.state = .off then s.modPower (fun w => { w with aux := true }) else s)

/-- STANDBY_RELEASE (step 2): standby has held 3.20 V for 10 ms. -/
def execStandbyRelease (mv ms : Nat) (s : State) : Host.Outcome State Fault Refusal := s.onDev fun s =>
  .next (if 3200 ≤ mv ∧ 10 ≤ ms ∧ s.power.state = .off ∧ s.power.aux then
    (s.modPower (fun w => { w with state := .standby })).modSec (fun x => { x with identity := true }) else s)

/-- RAMP_START (step 4): the power core finds its calibration, no TRIPPED latch, at least 40.5 V and STAY = 0. -/
def execRampStart (mv : Nat) (cal : Bool) (s : State) : Host.Outcome State Fault Refusal := s.onDev fun s =>
  .next (if 40500 ≤ mv ∧ cal ∧ s.power.state = .standby ∧ s.power.trip = 0 ∧ !s.power.stay ∧ s.coreUp 1 ∧ (s.fw.released.contains 3 || s.fw.held.contains 3) then
    s.modPower (fun w => { w with state := .ramp }) else s)

/-- DOMAIN_RAMP (step 5): the 6 V bus has been in range for 1 ms, and the domains ramp. -/
def execDomainRamp (ms : Nat) (s : State) : Host.Outcome State Fault Refusal := s.onDev fun s =>
  .next (if 1 ≤ ms ∧ s.power.state = .ramp then s.modPower (fun w => { w with ramped := true, target := [] }) else s)

/-- Step 6 has been gone through: the scheduler core and every cluster core is released or held. -/
def Dev.coresSettled (s : Dev) : Bool :=
  (2 :: procsOf 5).all (fun p => s.fw.released.contains p || s.fw.held.contains p)

/-- What each populated port counts: the capacity of the smallest (R307). -/
def usablePort : List Nat → Nat
  | [] => 0
  | c :: l => l.foldl min c

/-- PHY_TRAINING (step 7): the stacks whose controllers trained, the Cellar ports that trained, each with whether it
did at x16 and 64 GT/s, and the capacities of their expanders in MiB; a port counts as much as the smallest of them (R307). They
fix the Cellar configuration (R308), and a stack that did not train is OUT (R326). -/
def execPhyTraining (stks : List StackId) (ports : List (CelPortId × Bool)) (cap : List W32) (s : State) : Host.Outcome State Fault Refusal := s.onDev fun s =>
  if s.power.state ≠ .ramp ∨ !s.power.ramped ∨ s.power.trained ∨ !s.coresSettled then .next s
  else
    let pop := (List.range 4).filter (fun p => ports.any (fun e => e.1.val == p))
    let cap := pop.length * usablePort (cap.map BitVec.toNat)
    let full := (List.range 4).all (fun p => ports.any (fun e => e.1.val == p && e.2)) && decide (4194304 ≤ cap)
    let m1 := (List.range 24).foldl (fun m i => m.modStack i (fun x => { x with
      state := if stks.any (fun k => k.val == i) then .inService else .out })) s.mem
    let m2 : MemSt := { m1 with
      celMode := if ports.isEmpty then 0 else if full then 2 else 1, celPorts := ports.foldl (fun v e => setBit v e.1.val) 0, celCap := BitVec.ofNat 32 cap,
      celState := ports.foldl (fun t e => tset .absent t e.1.val .inService) [] }
    let s1 := ({ s with mem := m2 } : Dev).modPower (fun w => { w with trained := true })
    if (List.range 24).all (fun i => stks.any (fun k => k.val == i)) then .next s1
    else .next (((List.range 24).filter (fun i => !stks.any (fun k => k.val == i))).foldl (fun t i => t.logEvent 0x0100 0x0013 255 3 [i]) s1).moduleFault

/-- RUN_REACHED (step 8): every stack is in service or OUT; the loops start at their first-use point, and the host port
answers. -/
def execRunReached (s : State) : Host.Outcome State Fault Refusal := s.onDev fun s =>
  if s.power.state = .ramp ∧ s.power.trained ∧ (List.range 24).all (fun i => (s.mem.stack i).state != .training) then
    .next (((s.modPower (fun w => { w.firstUse with state := .run })).modHub (fun h => { h with linkUp := true })).logEvent 1 0x0001 255 0 [])
  else .next s

/-! ### Supply sag (R429) -/

/-- NV_INHIBIT_START. -/
def execNvInhibitStart (mv sb : Nat) (s : State) : Host.Outcome State Fault Refusal := s.onDev fun s =>
  .next (if (mv < 40000 ∨ sb < 3050) ∧ s.power.state ≠ .off then s.modPower (fun w => { w with nvInh := true }) else s)

/-- NV_INHIBIT_RELEASE: the supply has held for 100 ms of the security core's crystal, and held boot-record writes begin. -/
def execNvInhibitRelease (mv sb ms : Nat) (s : State) : Host.Outcome State Fault Refusal := s.onDev fun s =>
  if 40500 ≤ mv ∧ 3100 ≤ sb ∧ 100 ≤ ms ∧ s.power.nvInh then
    let s0 := s.modPower (fun w => { w with nvInh := false })
    let s1 := if s0.hub.logLost = 0 then s0 else
      (s0.logEvent 3 0x0002 255 1 [s0.hub.logLost]).modHub (fun h => { h with logLost := 0 })
    let s2 := match s1.fw.bootHeld with
      | some l => s1.beginBoot l
      | none => s1
    match s2.fw.act with
    | some a =>
      if a.wait.isEmpty && !a.writing then
        let act := s2.fw.activeB
        .next ((s2.modFw (fun f => { f with act := some { a with writing := true } })).beginBoot
          (if act.contains a.image then act.filter (· != a.image) else sinsert a.image act))
      else .next s2
    | none => .next s2
  else .next s

/-- NV_EARLY_WARNING: below 42.0 V or 3.15 V the warning holds, and it re-arms at 43.0 V and 3.20 V. -/
def execNvEarlyWarning (mv sb : Nat) (s : State) : Host.Outcome State Fault Refusal := s.onDev fun s =>
  if s.power.state = .off then .next s
  else if mv < 42000 ∨ sb < 3150 then .next (s.modPower (fun w => { w with nvWarn := true }))
  else if 43000 ≤ mv ∧ 3200 ≤ sb then .next (s.modPower (fun w => { w with nvWarn := false }))
  else .next s

/-! ### The control loops (R430 to R432) -/

/-- A cluster executes a draft. -/
def Dev.active (s : Dev) (c : Nat) : Bool := (List.range 12).any (fun i => (s.loom (12 * c + i)).running)

/-- T_lim in tenths of a degree, lowered while an active cluster's model is unpopulated (R431). -/
def Dev.tlimNow (s : Dev) : Int :=
  let t := min 98 (max 60 s.power.tlim.toNat)
  10 * ((if (List.range 96).any (fun c => s.active c && !s.power.model.contains c) then min t 89 else t : Nat) : Int)

/-- MODEL of PWR_STATUS. -/
def Dev.modelBit (s : Dev) : Bool := s.power.state == .run && (List.range 96).all (fun c => !s.active c || s.power.model.contains c)

/-- V_c as the registers and loops give it (R430), for an active cluster. -/
def Dev.clusterTarget (s : Dev) (c : Nat) : Nat :=
  let w := s.power
  let clampV (v : Nat) : Nat := min 900 (max 550 v)
  let vmax := match s.clusterStall c with
    | some k => clampV (tget 900 w.vmax k).toNat
    | none => 900
  let vmodel := if w.model.contains c then 900 else 700
  clampV (min (clampV w.vset.toNat) (min w.vpw (min (tget 700 w.vth c) (min vmax vmodel))))

/-- POWER_LOOP_PERIOD (R430, R431): input power in mW and voltage in mV, the hottest sensor of each cluster and base die in
tenths of a degree. -/
def execPowerLoopPeriod (mw mv : Nat) (clus dies : List Int) (s : State) : Host.Outcome State Fault Refusal := s.onDev fun s =>
  if s.power.state ≠ .run ∨ !s.coreUp 1 then .next s
  else
    let w := s.power
    let cap10 := min (10000 * min 3800 w.pcap.toNat) (882 * mv)
    let vset := min 900 (max 550 w.vset.toNat)
    let vpw := if cap10 < 10 * mw then w.vpw - 5 else if 10 * mw + 1000000 < cap10 then max w.vpw (min vset (w.vpw + 5)) else w.vpw
    let tl := s.tlimNow
    let vth := (List.range 96).foldl (fun t c =>
      let x := clus.getD c 0
      if tl - 10 ≤ x then tmod 700 t c (· - 10) else if x ≤ tl - 40 then tmod 700 t c (· + 5) else t) w.vth
    let rail := (List.range 8).foldl (fun t k =>
      let x := dies.getD k 0
      if tl - 10 ≤ x then tmod 750 t k (fun v => max 650 (v - 10)) else if x ≤ tl - 40 then tmod 750 t k (fun v => min 750 (v + 5)) else t) w.rail
    let s1 := s.modPower (fun w => { w with vpw := vpw, vth := vth, rail := rail })
    .next (s1.modPower (fun w => { w with target := (List.range 96).foldl (fun t c =>
      if w.lost.contains c || w.dark.contains c then t
      else tset 550 t c (BitVec.ofNat 10 (if s1.active c then s1.clusterTarget c else 550))) w.target }))

/-- The target that a cluster's regulator holds now (R423, R424, R433): PWR_CLU_V.TARGET. -/
def Dev.targetNow (s : Dev) (c : Nat) : BitVec 10 :=
  if s.power.lost.contains c || s.power.dark.contains c then 650
  else if (s.power.limiter || s.power.pcHeld) && s.mainOn then 650
  else tget 550 s.power.target c

/-- THERMAL_MODEL_POPULATED (R432): the cluster has executed drafts for 20 s in all. -/
def execThermalModelPopulated (c : ClusterId) (ms : Nat) (s : State) : Host.Outcome State Fault Refusal := s.onDev fun s =>
  .next (if 20000 ≤ ms ∧ s.coreUp 1 ∧ s.power.state = .run then s.modPower (fun w => { w with model := sinsert c.val w.model }) else s)

/-! ### Emergencies (R436, R439) -/

def emergBit : EmergCond → Nat
  | .therm _ => 0
  | .supply => 1
  | .limit => 2
  | .reg _ => 3
  | .cool _ _ _ => 4

/-- Whether an emergency's condition holds (R436, R490). -/
def Dev.emergHolds (s : Dev) : EmergCond → Bool
  | .therm t => decide (1010 ≤ t)
  | .supply => s.power.nvInh || s.power.nvWarn
  | .limit => s.power.limiter
  | .reg out => out
  | .cool inlet flow leak => decide (420 < inlet) || decide (inlet < 120) || decide (flow < 50) || leak

/-- MGT_ALERT_N is low while a flag is set (R487). -/
def Dev.alert (s : Dev) : Bool := s.power.emerg != 0

/-- EMERGENCY_SET (R436): the flag is set; an activation before its commit point goes back (R439). -/
def execEmergencySet (e : EmergCond) (s : State) : Host.Outcome State Fault Refusal := s.onDev fun s =>
  let i := emergBit e
  if s.power.state = .off ∨ !s.emergHolds e ∨ s.power.emerg.getLsbD i then .next s
  else
    let s1 := ((s.modPower (fun w => { w with emerg := setBit w.emerg i })).msix 0 8).logEvent 0x0100 0x0050 255 2 [i, 1]
    .next (s1.revertActivation 6).pldmNext

/-- EMERGENCY_CLEAR (R436): the condition has been absent for 1 s. -/
def execEmergencyClear (e : EmergCond) (ms : Nat) (s : State) : Host.Outcome State Fault Refusal := s.onDev fun s =>
  let i := emergBit e
  if s.emergHolds e ∨ !s.power.emerg.getLsbD i ∨ ms < 1000 then .next s
  else .next (((s.modPower (fun w => { w with emerg := clrBit w.emerg i })).msix 0 8).logEvent 0x0100 0x0050 255 2 [i, 0])

end Sys2Proof.Machine
end

