-- ==== Sys2Proof/Machine/HostPort.lean ====
section
/-!
DEFINITION. Host port: access errors (R445), function resets (R446), the device window (R449 to R451), hoppers (R452 to
R454), the event log (R460).
-/
namespace Sys2Proof.Machine

/-! ### Access errors (R445, R447, R449) -/

/-- Latch an erroneous access while nothing is latched. -/
def Dev.latchAcc (s : Dev) (fn bar kind off : Nat) : Dev :=
  s.modFn fn (fun f => if f.acc.valid then f else
    { f with acc := { f.acc with valid := true, bar := BitVec.ofNat 2 bar, kind := BitVec.ofNat 3 kind, offset := BitVec.ofNat 32 off } })

/-! ### The view of a virtual function (R447) -/

/-- Index of an offset in an array of blocks: its number and the offset within it. -/
def inArr (o base step n : Nat) : Option (Nat × Nat) :=
  if base ≤ o ∧ o < base + step * n then some ((o - base) / step, (o - base) % step) else none

/-- Virtual function k + 1 reaches the offset. -/
def Dev.vfSees (s : Dev) (k o : Nat) (write : Bool) : Bool :=
  let blk (base step : Nat) : Bool := decide (base + step * k ≤ o) && decide (o < base + step * (k + 1))
  o == 8 || o == 12 || (if write then blk 0x30200 4 || (decide (k < 64) && blk 0x30100 4) else blk 0x30100 4) ||
  blk 0x32000 0x40 || blk 0x34000 0x200 || blk 0x50000 0x40 || blk 0x2C0000 0x200 || blk 0x380000 0x100 || blk 0x410000 0x100 ||
  blk 0x91000 0x10 || o == 0x90000 || o == 0x90004 ||
  (decide (0x80000 ≤ o) && decide (o < 0x80080)) || o == 0x81000 || o == 0x81004 ||
  (match inArr o 0x1000000 0x40000 96 with
   | some (c, _) => s.clusterStall c == some k
   | none => false)

def Dev.sees (s : Dev) (fn o : Nat) (write : Bool) : Bool := fn == 0 || s.vfSees (fn - 1) o write

/-- A function reaches what belongs to stall `k`. -/
def reachesStall (fn k : Nat) : Bool := fn == 0 || fn == k + 1

/-- ACC_ERR_CLEAR (R445): ones written to VALID, WRITE_LOST and READ_ABORT of the function's own HUB_ACC_ERR clear them. -/
def execAccErrClear (fn : FnId) (mask : BitVec 3) (s : State) : Host.Outcome State Fault Refusal := s.onDev fun s =>
  s.host (s.modFn fn.val (fun f => { f with acc :=
    { f.acc with
      valid := f.acc.valid && !mask.getLsbD 0, writeLost := f.acc.writeLost && !mask.getLsbD 1, readAbort := f.acc.readAbort && !mask.getLsbD 2 } }))

/-! ### Function resets (R446) -/

/-- A function's registers return to reset; its buffered writes go on. -/
def Dev.resetFn (s : Dev) (fn : Nat) : Dev := s.modFn fn (fun f => { wbuf := f.wbuf })

/-- FUNCTION_LEVEL_RESET (R446): one of the physical function also clears VF Enable. -/
def execFunctionLevelReset (fn : FnId) (s : State) : Host.Outcome State Fault Refusal := s.onDev fun s =>
  s.host (if fn.val = 0 then (s.resetFn 0).modHub (fun h => { h with vfEnable := false }) else s.resetFn fn.val)

/-- HOT_RESET (R446). -/
def execHotReset (s : State) : Host.Outcome State Fault Refusal := s.onDev fun s =>
  s.host (((List.range 97).foldl (fun t f => t.resetFn f) s).modHub (fun h => { h with vfEnable := false }))

/-- HOST_LINK_DOWN (R484): running work goes on, and MCTP over the PCIe binding stops. -/
def execHostLinkDown (s : State) : Host.Outcome State Fault Refusal := s.onDev fun s =>
  .next (s.modHub (fun h => { h with linkUp := false }))

/-- HOST_LINK_RETURN (R484): in RUN the link returns; the host enumerates, and enables virtual functions and MSI-X. -/
def execHostLinkReturn (vf : Bool) (msix : List FnId) (s : State) : Host.Outcome State Fault Refusal := s.onDev fun s =>
  if s.power.state = .run then
    let s1 := s.modHub (fun h => { h with linkUp := true, vfEnable := vf })
    .next ((List.range 97).foldl (fun t f => t.modFn f (fun x => { x with msixEnable := msix.any (fun m => m.val == f) })) s1)
  else .next s

/-! ### The device window (R449 to R451) -/

/-- What a BAR4 offset reaches. -/
inductive WinTarget where
  | device (o : Nat)
  | va (stall va : Nat)
  | outside
deriving DecidableEq, Repr

/-- R449's map. -/
def Dev.window (s : Dev) (fn off : Nat) : WinTarget :=
  if off < 0x04000000 then
    if fn = 0 then (if off < 1048576 then .device off else .outside) else .va (fn - 1) (stageBase + off)
  else
    let f := s.fn fn
    .va (if fn = 0 then f.winStall.toNat else fn - 1) ((f.winBase.toNat * 2 ^ 26 + off - 0x04000000) % 2 ^ 52)

/-- Staging of a stall is locked: a plan command checks it, or a roster rewrite does (R209, R356). -/
def Dev.stageLocked (s : Dev) (k : Nat) : Bool := s.stagingLocked (stallTarget k) || (s.stall k).rstState == .busy

/-- HOSTF latches a host access to an unmapped VA (R303). -/
def Dev.hostf (s : Dev) (k va : Nat) (write : Bool) : Dev :=
  if 96 ≤ k then s else s.modStall k (fun x => if x.hostfValid then x else { x with hostfVa := BitVec.ofNat 52 va, hostfWrite := write, hostfValid := true })

/-- Bytes in a function's write buffer. -/
def FnSt.buffered (f : FnSt) : Nat := (f.wbuf.map (fun w => w.data.length)).sum

/-- A host write by lines, each landing or being lost by itself (R322). -/
def hostLines (k : Nat) (ecc : LineEcc) : List (Nat × Nat) → List Byte → List HostWrite
  | [], _ => []
  | (va, n) :: t, v => { stall := k, va := va, data := v.take n, ecc := ecc } :: hostLines k ecc t (v.drop n)

/-- BAR4_WRITE (R449 to R451, R209): the bytes, with what the code finds in a line that the write needs fetched. -/
def execBar4Write (fn : FnId) (off : W32) (data : List Byte × LineEcc) (s : State) : Host.Outcome State Fault Refusal := s.onDev fun s =>
  let f := s.fn fn.val
  s.host (if 65536 < f.buffered + data.1.length then s.modFn fn.val (fun f => { f with acc := { f.acc with writeLost := true } })
    else match s.window fn.val off.toNat with
    | .outside => s.latchAcc fn.val 2 2 off.toNat
    | .device o =>
      if s.stagingLocked .device then s.modHub (fun h => { h with dblk := { h.dblk with stageLost := true } })
      else s.modHub (fun h => { h with dstage := tsetRange 0 h.dstage o (data.1.take (1048576 - o)) })
    | .va k va =>
      match s.xlate k va with
      | .staging o =>
        if s.stageLocked k then s.modStall k (fun x => { x with blk := { x.blk with stageLost := true } })
        else s.modStall k (fun x => { x with stage := tsetRange 0 x.stage o data.1 })
      | _ => s.drainFn fn.val (f.wbuf ++ hostLines k data.2 (piecesOf va data.1.length) data.1))

/-- What a BAR4 read finds: its bytes, an abort, or nothing yet. -/
inductive ReadRes where
  | data (b : List Byte) (s : Dev)
  | abort (s : Dev)
  | waits

/-- Carry out a BAR4 read (R303, R322, R449, R450). -/
def Dev.bar4 (s : Dev) (fn off n : Nat) (ecc : LineEcc) : ReadRes :=
  if !(s.fn fn).wbuf.isEmpty then .waits
  else
  match s.window fn off with
  | .outside => .data (List.replicate n 0) (s.latchAcc fn 2 2 off)
  | .device o => .data (tgetRange 0 s.hub.dstage o n) s
  | .va k va =>
    match s.xlate k va with
    | .staging o => .data (tgetRange 0 (s.stall k).stage o n) s
    | _ =>
      match s.meets k va ecc (fun t => t.tierRead k none none va n) with
        | .ok b s1 => .data b s1
        | .wait _ => .waits
        | .bad v kind s1 => if kind = 1 then .data (List.replicate n 0) (s1.hostf k v false) else .abort s1

/-- A read ends with Completer Abort, and READ_ABORT is set. -/
def Dev.readAbort (s : Dev) (fn : Nat) : Dev :=
  (s.modFn fn (fun f => { f with acc := { f.acc with readAbort := true } })).emit (.abort fn)

/-- BAR4_READ (R449, R450): it completes once every earlier write of the function has landed and the tiers
give the data: the number of bytes, with what the code finds in the first line. -/
def execBar4Read (fn : FnId) (off : W32) (n : Nat × LineEcc) (s : State) : Host.Outcome State Fault Refusal := s.onDev fun s =>
  s.host (match s.bar4 fn.val off.toNat n.1 n.2 with
    | .data b s1 => s1.emit (.readData fn.val b)
    | .abort s1 => s1.readAbort fn.val
    | .waits => s)

/-- BAR4_READ_TIMEOUT (R451): a read that has waited 4 ms of the scheduler core's timer is aborted and not performed. -/
def execBar4ReadTimeout (fn : FnId) (off : W32) (n us : Nat) (s : State) : Host.Outcome State Fault Refusal := s.onDev fun s =>
  s.host (match s.bar4 fn.val off.toNat n .clean with
    | .waits => if 4000 ≤ us then s.readAbort fn.val else s
    | _ => s)

/-! ### Hoppers (R452 to R456) -/

/-- The stall whose range holds a hopper, and the hopper's number within it (R181). -/
def Dev.hopOwner (s : Dev) (h : Nat) : Option (Nat × Nat) := match s.hub.devPlan with
  | some d => (d.stalls.find? (fun (r : StallRec) => decide (r.hopFirst ≤ h) && decide (h < r.hopFirst + r.hopCount))).map
      (fun (r : StallRec) => (r.stall, h - r.hopFirst))
  | none => none

/-- The kinds of hopper of R454. -/
inductive HopKind where
  | completion | run | plain | outside
deriving DecidableEq, Repr

def Dev.hopKind (s : Dev) (h : Nat) : HopKind := match s.hopOwner h with
  | none => .outside
  | some (k, i) =>
    let ts := match (s.stall k).plan with
      | some p => p.stations
      | none => []
    if ts.any (fun t => t.runHop == i) then .run
    else if ts.any (fun t => t.cplHop == some i) then .completion
    else .plain

/-- A function reaches a hopper (R452). -/
def Dev.reachesHop (s : Dev) (fn h : Nat) : Bool := fn == 0 || (match s.hopOwner h with
  | some (k, _) => fn == k + 1
  | none => false)

/-- A doorbell write is discarded and counted (R452, R454). -/
def Dev.hopDiscard (s : Dev) (h : Nat) (full : Bool) : Dev :=
  let s1 := s.count hubKey 3 1
  match s.hopOwner h with
  | some (k, _) =>
    let s2 := s1.modStall k (fun x => { x with hopLost := x.hopLost + 1, hopFull := x.hopFull || full })
    if full then s2.msix (k + 1) 6 else s2
  | none => s1

/-- HOPPER_DOORBELL (R452): an aligned 8-byte write to BAR2 offset 8 h. -/
def execHopperDoorbell (fn : FnId) (h : HopId) (v : W64) (s : State) : Host.Outcome State Fault Refusal := s.onDev fun s =>
  s.hostCmd fn.val (
    if !s.reachesHop fn.val h.val then s.latchAcc fn.val 1 2 (8 * h.val)
    else if s.hopKind h.val = .plain ∧ v = 0xFFFFFFFFFFFFFFFF then s.hopDiscard h.val false
    else if 8 ≤ (s.hopper h.val).length then s.hopDiscard h.val true
    else (s.setHopper h.val (s.hopper h.val ++ [v])).count hubKey 0 1)

/-- HOPPER_POP (R454): a read of a completion hopper or a plain queue takes its oldest entry. -/
def execHopperPop (fn : FnId) (h : HopId) (s : State) : Host.Outcome State Fault Refusal := s.onDev fun s =>
  let ret (t : Dev) (v : W64) : Dev := t.emit (.readData fn.val (natLe 8 v.toNat))
  s.host (
    if !s.reachesHop fn.val h.val then ret s 0
    else match s.hopKind h.val with
      | .outside => ret s 0
      | .run => s
      | _ => match s.hopper h.val with
        | [] => ret s 0xFFFFFFFFFFFFFFFF
        | v :: rest => ret (s.setHopper h.val rest) v)

/-- HOPPER_COUNT_READ (R454): a read of a run hopper returns the number of its entries. -/
def execHopperCountRead (fn : FnId) (h : HopId) (s : State) : Host.Outcome State Fault Refusal := s.onDev fun s =>
  s.host (
    if s.hopKind h.val = .run then
      s.emit (.readData fn.val (natLe 8 (if s.reachesHop fn.val h.val then (s.hopper h.val).length + 3 * 2 ^ 62 else 0)))
    else s)

/-- A well-formed access lies wholly outside the function's view (R447, R452). -/
def Dev.outOfView (s : Dev) (fn : Nat) (bar : Bar) (off size : Nat) (write : Bool) : Bool := match bar with
  | .bar0 => !s.sees fn off write && !(size == 8 && s.sees fn (off + 4) write)
  | .bar2 => !s.reachesHop fn (off / 8)

/-- BAR0_ACCESS_ERROR (R445, R447): an access to BAR0 or BAR2 of a wrong size or alignment, or outside the function's view; a
read returns zeros, a write is discarded, and the access is latched, but for a read outside the view. Another access is none of
this command's. -/
def execBar0AccessError (fn : FnId) (bar : Bar) (write : Bool) (off : W32) (size : Nat) (s : State) : Host.Outcome State Fault Refusal := s.onDev fun s =>
  let ok := match bar with
    | .bar0 => (size == 4 || size == 8) && off.toNat % size == 0
    | .bar2 => size == 8 && off.toNat % 8 == 0
  let b := match bar with
    | .bar0 => 0
    | .bar2 => 1
  let answer (t : Dev) : Dev := if write then t else t.emit (.readData fn.val (List.replicate size 0))
  s.host (if !ok then answer (s.latchAcc fn.val b 1 off.toNat)
    else if !s.outOfView fn.val bar off.toNat size write then s
    else answer (if write then s.latchAcc fn.val b 2 off.toNat else s))

/-! ### The event log (R460) -/

/-- The 128 bytes of an entry. -/
def LogEntry.bytes (e : LogEntry) : List Byte :=
  let b := [natLe 8 e.seq.toNat, natLe 2 e.source.toNat, natLe 2 e.code.toNat, natLe 1 e.stall.toNat, natLe 1 e.severity.toNat, natLe 2 0,
    natLe 8 e.hostTime.toNat, natLe 8 e.since.toNat, slice (e.data.flatMap (natLe 8) ++ List.replicate 64 0) 0 64].flatten
  b ++ digestBytes (Config.sha3_256 b)

/-- The entry with a sequence number as a window shows it; 0 is the newest. -/
def HubSt.logBytes (h : HubSt) (seq : W64) : List Byte :=
  match tget none h.log (if seq = 0 then h.logSeq else seq).toNat with
  | some e => e.bytes
  | none => List.replicate 128 0

/-- LOG_SELECT: a write of HUB_LOG_SEL by the physical function; HUB_LOG_WIN then reads the entry (R460). -/
def execLogSelect (fn : FnId) (seq : W64) (s : State) : Host.Outcome State Fault Refusal := s.onDev fun s =>
  s.host (if fn.val = 0 then s.modHub (fun h => { h with logSel := seq }) else s)

/-- EVENT_LOG_WRITE (R460): the management core writes the oldest waiting entry under the next SEQ, with the µs since the
host's time was last written; the log keeps the newest 131,072. A PlatformEventMessage is sent from WARNING up, and the
physical function's vector 6 is raised from ERROR up (R457, R459). -/
def execEventLogWrite (us : W64) (s : State) : Host.Outcome State Fault Refusal := s.onDev fun s =>
  match s.hub.logQueue with
  | e :: rest =>
    if s.coreUp 3 && !s.power.nvInh then
      let n := s.hub.logSeq + 1
      let x : LogEntry := { e with seq := n, since := if s.hub.hostTimeSet then us else 0xFFFFFFFFFFFFFFFF }
      let s1 := s.modHub (fun h => { h with
        logQueue := rest, logSeq := n, log := tdrop (fun i => decide (i + 131072 ≤ n.toNat)) (tset none h.log n.toNat (some x)) })
      let s2 := (s1.modFw (fun f => { f with logOf := tset 0 f.logOf e.source.toNat n })).beginNv (.log n.toNat)
      let s3 := if 1 ≤ e.severity.toNat then s2.emit (.mctp 2 0 [n.toNat, e.code.toNat, e.severity.toNat]) else s2
      .next (if 2 ≤ e.severity.toNat then s3.msix 0 6 else s3)
    else .next s
  | [] => .next s

end Sys2Proof.Machine
end

