-- ==== Sys2Proof/Machine/Sec.lean ====
section
/-!
DEFINITION. The security core: commands (R466, R467), SPDM (R470, R471), the test access port (R472); and the end of a
processor's restart (R373).
-/
namespace Sys2Proof.Machine

/-! ### Security commands (R467) -/

def identityKeyId : W64 := keyIdOf Config.identityKey

/-- The operator digest that governs (R466): the entry burned last whose digest checks. -/
def SecSt.opDigest (x : SecSt) : Option (BitVec 256) := ((x.opFuses.filter (·.2)).getLast?).map (·.1)

def keyDigest (k : List Byte) : BitVec 256 := Config.sha3_256 k

/-- Payload bytes of a security command; a test-unlock token is whatever its LEN leaves. -/
def secPayload (t len : Nat) : Nat := if t = 0x301 ∨ t = 0x302 ∨ t = 0x303 then 1312 else if t = 0x306 then len - 2468 else 0

/-- A command of the type is signed in this state: PRESENT_OPERATOR never, FUSE_OPERATOR once an entry is burned. -/
def SecSt.signed (x : SecSt) (t : Nat) : Bool := t != 0x301 && (t != 0x302 || !x.opFuses.isEmpty)

/-- The key that must sign a type. -/
def SecSt.signer (x : SecSt) (t : Nat) : Option (List Byte) := if t = 0x306 then some Config.serviceKey else x.opKey

/-- The image runs from its fallback slot. -/
def Dev.onFallback (s : Dev) (image : Nat) : Bool :=
  (procsOf image).any (fun p => s.fw.slotB.contains p != s.fw.activeB.contains image)

/-- The first code of R467 that applies to a command. R467's conditions name neither an image number outside 1 to 5 nor a token
that names another identity key: the model answers 0x01 and 0x08 (DESIGN CHOICE, log entry 53). -/
def Dev.secCode (s : Dev) (c : List Byte) : Nat :=
  let t := u16 c 0
  let x := s.sec
  let n := secPayload t c.length
  let sig := x.signed t
  let key := x.signer t
  let burns := t == 0x302 || t == 0x305
  let image := u8 c 8
  if !(decide (0x301 ≤ t) && decide (t ≤ 0x306)) || u16 c 2 != c.length || c.length != 48 + n + (if sig then 2420 else 0) ||
      !allZero c 4 4 || (t == 0x306 && decide (n < 8)) || (t == 0x305 && !(decide (1 ≤ image) && decide (image ≤ 5))) then 1
  else if sig && (match key with
      | some k => u64 c 40 != (keyIdOf k).toNat
      | none => true) then 2
  else if sig && !Config.mldsaVerify (key.getD []) (digestBytes (Config.sha3_256 (slice c 0 (48 + n)))) (slice c (48 + n) 2420) then 3
  else if sig && slice c 24 16 != x.challenge then 4
  else if t == 0x301 && x.opDigest != some (keyDigest (slice c 48 1312)) then 5
  else if (t == 0x302 && decide (4 ≤ x.opFuses.length)) || (t == 0x305 && decide (64 ≤ x.floors.length)) ||
      (t == 0x303 && decide (96 ≤ x.stallKeys.length)) then 6
  else if burns && (s.power.nvWarn || s.power.nvInh) then 7
  else if (t == 0x305 && s.onFallback image) || (t == 0x306 && (s.power.state != .standby || u64 c 48 != identityKeyId.toNat)) then 8
  else 0

/-- What an accepted command does. -/
def Dev.secDo (s : Dev) (c : List Byte) : Dev :=
  let key := slice c 48 1312
  let x := s.sec
  match u16 c 0 with
  | 0x301 => s.modSec (fun x => { x with opKey := some key })
  | 0x302 => (s.modSec (fun x => { x with opKey := some key, opFuses := x.opFuses ++ [(keyDigest key, true)] })).beginNv (.operatorFuse x.opFuses.length)
  | 0x303 => s.modSec (fun x => { x with stallKeys := x.stallKeys.filter (fun k => keyIdOf k != keyIdOf key) ++ [key] })
  | 0x304 => s.modSec (fun x => { x with stallKeys := x.stallKeys.filter (fun k => (keyIdOf k).toNat != u64 c 8) })
  | 0x305 =>
    let i := u8 c 8
    (s.modSec (fun x => { x with floors := x.floors ++ [(i, imageVersion (s.fw.image (s.fw.activeKey i)), true)] })).beginNv (.floorFuse x.floors.length)
  | _ => s.modSec (fun x => { x with opKey := none, stallKeys := [], identity := false, testOpen := true })

/-- Serve a command: its code, its effect, a new challenge after an accepted signed one, vector 9, and a log entry. -/
def Dev.secServe (s : Dev) (c : List Byte) : Dev :=
  let code := s.secCode c
  let s1 := if code = 0 then
      let signed := s.sec.signed (u16 c 0)
      let t := s.secDo c
      if signed then
        let (n, t1) := t.draw
        t1.modSec (fun x => { x with challenge := natLe 8 (Config.freeWord n 0).toNat ++ natLe 8 (Config.freeWord n 1).toNat })
      else t
    else s
  ((s1.modSec (fun x => { x with state := 2, code := BitVec.ofNat 8 code, waiting := none })).msix 0 9).logEvent 0 0x0060 255 0 [u16 c 0, code]

/-- A command is submitted while none is in hand: served, or held while the security core is away. -/
def Dev.secSubmit (s : Dev) (c : List Byte) : Dev :=
  if s.sec.state = 1 then s
  else if s.coreUp 0 then s.secServe c
  else s.modSec (fun x => { x with state := 1, waiting := some c })

/-- A security command of the type that a row names. -/
def secRow (t : Nat) (c : List Byte) (s : Dev) : Host.Outcome Dev Fault Refusal :=
  .next (if u16 c 0 = t then s.secSubmit c else s)

/-- PRESENT_OPERATOR (R467). -/
def execPresentOperator (cmd : List Byte) (s : State) : Host.Outcome State Fault Refusal := s.onDev fun s => secRow 0x301 cmd s
/-- FUSE_OPERATOR (R467). -/
def execFuseOperator (cmd : List Byte) (s : State) : Host.Outcome State Fault Refusal := s.onDev fun s => secRow 0x302 cmd s
/-- ENROLL_STALL (R467). -/
def execEnrollStall (cmd : List Byte) (s : State) : Host.Outcome State Fault Refusal := s.onDev fun s => secRow 0x303 cmd s
/-- REMOVE_STALL (R467). -/
def execRemoveStall (cmd : List Byte) (s : State) : Host.Outcome State Fault Refusal := s.onDev fun s => secRow 0x304 cmd s
/-- RAISE_FLOOR (R464, R467). -/
def execRaiseFloor (cmd : List Byte) (s : State) : Host.Outcome State Fault Refusal := s.onDev fun s => secRow 0x305 cmd s
/-- TEST_UNLOCK (R467, R472). -/
def execTestUnlock (cmd : List Byte) (s : State) : Host.Outcome State Fault Refusal := s.onDev fun s => secRow 0x306 cmd s

/-- FW_RESTART_COMPLETE (R373, R435, R462): the processor's image is verified again and it takes up its duties; the security
core serves the command that waited. -/
def execFwRestartComplete (p : Proc) (s : State) : Host.Outcome State Fault Refusal := s.onDev fun s =>
  let n := procNum p
  if s.canBoot n && s.fw.down.contains n then
    let s1 := (s.modFw (fun f => { f with down := f.down.filter (· != n) })).bootProc n
    match s1.sec.waiting with
    | some c => .next (if n = 0 ∧ s1.coreUp 0 then (s1.modSec (fun x => { x with state := 0 })).secServe c else s1)
    | none => .next s1
  else .next s

/-! ### MCTP bindings (R458) -/

def bindNum : Binding → Nat
  | .i3c => 0
  | .vdm => 1

/-- A request that Ozsol takes: the management core serves, and the binding works (R458, R484). -/
def Dev.mctpUp (s : Dev) (b : Binding) : Bool :=
  s.coreUp 3 && (match b with
    | .i3c => s.power.state != .off
    | .vdm => s.power.state == .run && s.hub.linkUp)

/-! ### SPDM (R470, R471) -/

/-- An SPDM request reaches the responder, which answers it and takes request and response into its transcript. -/
def Dev.spdm (s : Dev) (b : Binding) (req : List Byte) (k : Dev → Option (List Byte × Dev)) : Host.Outcome Dev Fault Refusal :=
  if !(s.mctpUp b && s.coreUp 0) then .next s
  else match k s with
    | none => .next s
    | some (resp, s1) => .next ((s1.modSec (fun x => { x with transcript := x.transcript ++ (req ++ resp) })).emit (.bytes (0x500 + bindNum b) resp))

/-- GET_VERSION: version 1.3; a new transcript begins. -/
def execGetVersion (b : Binding) (req : List Byte) (s : State) : Host.Outcome State Fault Refusal := s.onDev fun s =>
  s.spdm b req (fun t => some ([0x13], t.modSec (fun x => { x with spdm := 1, transcript := [] })))

/-- GET_CAPABILITIES: certificates, challenge, signed measurements, chunks. -/
def execGetCapabilities (b : Binding) (req : List Byte) (s : State) : Host.Outcome State Fault Refusal := s.onDev fun s =>
  s.spdm b req (fun t => if t.sec.spdm = 0 then none else some ([1, 1, 1, 1], t.modSec (fun x => { x with spdm := max x.spdm 2 })))

/-- NEGOTIATE_ALGORITHMS: SHA3-256 for both hashes, no BaseAsymAlgo, ML-DSA-44 as extended algorithm 0x0001. -/
def execNegotiateAlgorithms (b : Binding) (req : List Byte) (s : State) : Host.Outcome State Fault Refusal := s.onDev fun s =>
  s.spdm b req (fun t => if t.sec.spdm < 2 then none else some ([1, 1, 0, 1, 0], t.modSec (fun x => { x with spdm := 3 })))

/-- The responder has negotiated. -/
def SecSt.ready (x : SecSt) : Bool := decide (3 ≤ x.spdm)

/-- GET_DIGESTS: the digest of the one chain, in slot 0. -/
def execGetDigests (b : Binding) (req : List Byte) (s : State) : Host.Outcome State Fault Refusal := s.onDev fun s =>
  s.spdm b req (fun t => if t.sec.ready then some (natLe 1 1 ++ digestBytes (Config.sha3_256 Config.certChain), t) else none)

/-- GET_CERTIFICATE: a part of the chain of slot 0; the other slots are empty. -/
def execGetCertificate (b : Binding) (req : List Byte) (slot : Fin 8) (off len : Nat) (s : State) : Host.Outcome State Fault Refusal := s.onDev fun s =>
  s.spdm b req (fun t => if t.sec.ready ∧ slot = 0 then some (slice Config.certChain off len, t) else none)

/-- A response signed by the identity key over the transcript's digest (R469). -/
def Dev.signed (s : Dev) (req body : List Byte) : List Byte :=
  body ++ Config.mldsaSign 0 (digestBytes (Config.sha3_256 (s.sec.transcript ++ (req ++ body))))

/-- Signed responses carry a nonce; they are large, and CHUNK_GET serves them by parts. -/
def Dev.signedResponse (s : Dev) (req body : List Byte) : Option (List Byte × Dev) :=
  if s.sec.ready && s.sec.identity then
    let (n, s1) := s.draw
    let nonce := (List.range 4).flatMap (fun i => natLe 8 (Config.freeWord n i).toNat)
    let r := s.signed req (body ++ nonce)
    some (r, s1.modSec (fun x => { x with large := r }))
  else none

/-- The governing boot-record bank and the floors, as index 6 measures them. -/
def Dev.bootState (s : Dev) : List Byte :=
  (List.range 5).flatMap (fun i => natLe 4 (s.sec.floor (i + 1)).toNat) ++ (natLe 8 s.fw.governs.seq ++ s.fw.governs.slotB.flatMap (natLe 1))

/-- Fused key digests, operator entries and TEST_OPEN, as index 7 measures them. -/
def Dev.fuseState (s : Dev) : List Byte :=
  (List.range 4).flatMap (fun i => digestBytes (Config.firmwareKey i)) ++ (digestBytes (Config.sha3_256 Config.serviceKey) ++
    (s.sec.opFuses.flatMap (fun e => digestBytes e.1) ++ natLe 1 (b2n s.sec.testOpen)))

/-- The measurement of an index (R471), with the meter's FW_DIGEST. -/
def Dev.measure (s : Dev) (mtr : BitVec 256) (i : Nat) : BitVec 256 :=
  if 1 ≤ i ∧ i ≤ 5 then
    let p := (procsOf i).headD 0
    let b := s.fw.image (2 * i + b2n (s.fw.slotB.contains p))
    Config.sha3_256 (slice b 0 4096 ++ imageBody b)
  else if i = 6 then Config.sha3_256 s.bootState
  else if i = 7 then Config.sha3_256 s.fuseState
  else if i = 8 then (match s.hub.devPlan with
    | some d => d.digest
    | none => 0)
  else if i = 9 then mtr
  else if 16 ≤ i then (s.stall (i - 16)).blk.digest
  else 0

/-- The meter's FW_DIGEST as index 9 measures it: zero with no cartridge. -/
def MeterSt.measured (m : MeterSt) : BitVec 256 := if m.present then m.fwDigest else 0

/-- CHALLENGE: a response signed by the identity key. -/
def execChallenge (b : Binding) (req : List Byte) (slot : Fin 8) (s : State) : Host.Outcome State Fault Refusal := s.onDev fun d =>
  d.spdm b req (fun t => if slot = 0 then
    t.signedResponse req (digestBytes (Config.sha3_256 Config.certChain) ++
      digestBytes (Config.sha3_256 ((List.range 112).flatMap (fun i => digestBytes (t.measure s.meter.measured i))))) else none)

/-- GET_MEASUREMENTS (R471): the blocks asked for, signed. -/
def execGetMeasurements (b : Binding) (req : List Byte) (idx : List (Fin 112)) (s : State) : Host.Outcome State Fault Refusal := s.onDev fun d =>
  d.spdm b req (fun t => t.signedResponse req (idx.flatMap (fun i => natLe 1 i.val ++ digestBytes (t.measure s.meter.measured i.val))))

/-- CHUNK_GET: a part of the last large response. -/
def execChunkGet (b : Binding) (off len : Nat) (s : State) : Host.Outcome State Fault Refusal := s.onDev fun s =>
  s.spdm b [] (fun t => if t.sec.ready then some (slice t.sec.large off len, t) else none)

/-! ### Test access port (R472) -/

/-- The instruction that a shifted-in one executes as. -/
def Dev.tapRuns (s : Dev) : Tap → Tap
  | .extest => if s.power.state = .standby ∨ s.sec.testOpen then .extest else .bypass
  | .other c => if s.sec.testOpen then .other c else .bypass
  | i => i

def tapCode : Tap → Nat
  | .bypass => 0
  | .idcode => 1
  | .sample => 2
  | .extest => 3
  | .other c => 256 + c.toNat

/-- IDCODE (R472). -/
def idcode : Nat := 2 ^ 28 + 2 ^ 12 * 0x3072 + 2 * Config.jtagMaker.toNat + 1

/-- TAP_INSTRUCTION (R472): what the port executes goes out, with the identification register where it is IDCODE. -/
def execTapInstruction (i : Tap) (s : State) : Host.Outcome State Fault Refusal := s.onDev fun s =>
  if s.power.state = .off then .next s
  else
    let r := s.tapRuns i
    .next (s.emit (.bytes 0x1149 (natLe 2 (tapCode r) ++ (if r = .idcode then natLe 4 idcode else []))))

end Sys2Proof.Machine
end

