-- ==== Sys2Proof/Machine/Mgmt.lean ====
section
/-!
DEFINITION. The Ozsol management complex: MCTP (R458), sensors and the effecter (R459), log reads, the meter's
mailboxes, firmware update under PLDM Type 5 (R461).
-/
namespace Sys2Proof.Machine

/-- A response or message on a binding; `kind` tells the message apart, the payload is its content in the spec's terms. -/
def Dev.respond (s : Dev) (b : Binding) (kind : Nat) (payload : List Nat) : Dev := s.emit (.mctp (bindNum b) kind payload)

/-- MCTP_CONTROL (R458): Ozsol takes its endpoint ID from the bus owner of the binding, and tells it. What answers another
control message DSP0236 states and this spec does not: a free value. -/
def execMctpControl (b : Binding) (m : MctpCtl) (s : State) : Host.Outcome State Fault Refusal := s.onDev fun s =>
  if !s.mctpUp b then .next s
  else match m with
    | .setEid e =>
      let s1 := match b with
        | .i3c => s.modMgt (fun g => { g with eidI3c := e })
        | .vdm => s.modMgt (fun g => { g with eidPcie := e })
      .next (s1.respond b 1 [e.toNat])
    | .getEid => .next (s.respond b 2 [(match b with
        | .i3c => s.mgt.eidI3c
        | .vdm => s.mgt.eidPcie).toNat])
    | .other c =>
      let (n, s1) := s.draw
      .next (s1.respond b 3 [c.toNat, (Config.freeWord n 0).toNat])

/-! ### Sensors (R459) -/

def powerCode : PwrState → Nat
  | .off => 0
  | .standby => 1
  | .ramp => 2
  | .run => 3
  | .tripped => 4

/-- PRESENT, READY and SEAL_BROKEN, as sensor 242 shows them. -/
def MeterSt.sensor (m : MeterSt) : Nat := b2n m.present + 2 * b2n (m.present && m.ready) + 4 * b2n (m.present && m.work.sealBroken)

/-- A sensor's new reading: what the block itself holds for sensors 137 and above, the measured value of the rest, in
thousandths of the sensor's unit. -/
def Dev.sensorNow (s : Dev) (m : MeterSt) (v : List (Nat × Int)) (i : Nat) : Int :=
  if 137 ≤ i ∧ i ≤ 232 then ((s.targetNow (i - 137)).toNat : Int)
  else if i = 240 then (powerCode s.power.state : Int)
  else if i = 241 then (s.power.emerg.toNat : Int)
  else if i = 242 then (m.sensor : Int)
  else match v.find? (fun e => e.1 == i) with
    | some e => e.2
    | none => tget 0 s.mgt.sensors i

def sensorIds : List Nat := ((List.range 232).map (· + 1)) ++ [240, 241, 242]

/-- SENSOR_REFRESH (R459): 100 ms of the management core's timer have passed since the last. -/
def execSensorRefresh (ms : Nat) (v : List (Nat × Int)) (s : State) : Host.Outcome State Fault Refusal :=
  s.onDev fun d => .next (if 100 ≤ ms ∧ d.coreUp 3 then
    d.modMgt (fun g => { g with sensors := sensorIds.foldl (fun t i => tset 0 t i (d.sensorNow s.meter v i)) g.sensors }) else d)

/-- SET_NUMERIC_EFFECTER (R459): effecter 1 is PWR_LIMIT.PCAP. -/
def execSetNumericEffecter (b : Binding) (v : BitVec 12) (s : State) : Host.Outcome State Fault Refusal := s.onDev fun s =>
  .next (if s.mctpUp b then s.modPower (fun w => { w with pcap := v }) else s)

/-! ### Vendor messages (R458) -/

/-- LOG_READ: the entry of the SEQ. -/
def execLogRead (b : Binding) (seq : W64) (s : State) : Host.Outcome State Fault Refusal := s.onDev fun s =>
  .next (if s.mctpUp b then s.respond b 4 ((s.hub.logBytes seq).map BitVec.toNat) else s)

/-- COLD_RESET (R425). -/
def execMctpColdReset (b : Binding) (s : State) : Host.Outcome State Fault Refusal := s.onDev fun s =>
  .next (if s.mctpUp b ∧ (s.power.state = .run ∨ s.power.state = .standby ∨ s.power.state = .tripped) then s.coldReset else s)

/-! ### Mailboxes of the meter (R419) -/

def State.modMeter (s : State) (f : MeterSt → MeterSt) : State := { s with meter := f s.meter }

def MeterSt.mbx (m : MeterSt) (i : Nat) : Mbx := if i = 0 then m.mbx0 else m.mbx1
def MeterSt.setMbx (m : MeterSt) (i : Nat) (x : Mbx) : MeterSt := if i = 0 then { m with mbx0 := x } else { m with mbx1 := x }

/-- A response carried back to the management request that a mailbox 1 command came with (R458). -/
def State.vendorReply (s : State) (i : Nat) : State :=
  match s.meter.vendor with
  | some b =>
    if i = 1 then (s.modMeter (fun m => { m with vendor := none })).modDev (fun d => d.emit
      (.mctp b 5 (s.meter.mbx1.code.toNat :: s.meter.mbx1.resp.map BitVec.toNat))) else s
  | none => s

/-- A command ends: STATE 3, its code and response, and the meter vector (R419, R457). -/
def State.mbxEnd (s : State) (i code : Nat) (resp : List Byte) : State :=
  ((s.modMeter (fun m => m.setMbx i { m.mbx i with state := 3, code := BitVec.ofNat 8 code, resp := resp })).modDev (fun d => d.msix 0 3)).vendorReply i

/-- Bytes of the command window that a GO with LEN submits. -/
def Mbx.command (x : Mbx) (len : Nat) : List Byte := tgetRange 0 x.window 0 (min len 4096)

/-! ### Firmware update (R461) -/

/-- Whether an image is a component. -/
def component (i : Nat) : Bool := decide (1 ≤ i) && decide (i ≤ 5)

/-- Message 6 answers UpdateComponent: 1 RETRY_REQUEST_UPDATE, 0 the slot is written. A transfer waits while flash erases and
writes may not begin (R429). -/
def execUpdateComponent (b : Binding) (image : Fin 6) (data : List Byte) (s : State) : Host.Outcome State Fault Refusal := s.onDev fun s =>
  let i := image.val
  if !s.mctpUp b || !component i then .next s
  else if (match s.fw.act with
      | some a => a.image == i
      | none => false) then .next (s.respond b 6 [i, 1])
  else if s.power.nvInh || s.power.nvWarn then .next s
  else
    let key := s.fw.otherKey i
    let s1 := (s.modFw (fun f => { f with slots := tset none f.slots key (some (data.take 4194304)) })).beginNv (.slot key)
    .next ((s1.modMgt (fun g => { g with updated := sinsert i g.updated })).respond b 6 [i, 0])

/-- VERIFY_COMPLETE: message 7 reports whether the written slot verifies (R464). -/
def execVerifyComplete (b : Binding) (image : Fin 6) (s : State) : Host.Outcome State Fault Refusal := s.onDev fun s =>
  let i := image.val
  .next (if s.mctpUp b && component i then s.respond b 7 [i, b2n (s.slotOk i (s.fw.otherKey i))] else s)

/-- ACTIVATE_FIRMWARE: the updated components are activated in the order 5, 3, 2, 4, 1; the first refusal ends it. -/
def execActivateFirmware (b : Binding) (s : State) : Host.Outcome State Fault Refusal := s.onDev fun s =>
  if !s.mctpUp b || s.mgt.activating then .next s
  else match [5, 3, 2, 4, 1].filter (fun i => s.mgt.updated.contains i) with
    | [] => .next s
    | i :: rest => .next ((s.modMgt (fun g => { g with queue := rest, activating := true, refused := none })).activate i true)

/-- GET_STATUS: message 8 holds whether an activation runs, and the image and code of a refusal (0, 0 for none). -/
def execGetStatus (b : Binding) (s : State) : Host.Outcome State Fault Refusal := s.onDev fun s =>
  .next (if s.mctpUp b then s.respond b 8 [b2n s.mgt.activating, (s.mgt.refused.getD (0, 0)).1, (s.mgt.refused.getD (0, 0)).2] else s)

end Sys2Proof.Machine
end

