-- ==== Sys2Proof/Machine/Meter.lean ====
section
/-!
DEFINITION. The Elzarak meter (R387 to R419): measurement, attribution, intervals, records, store, seal, commands.
-/
namespace Sys2Proof.Machine

/-- The meter processor serves: a cartridge is fitted, standby supply is up, and it has come through power-up. -/
def State.mtrUp (s : State) : Bool := s.meter.present && s.meter.ready && s.power.state != .off

def State.modWork (s : State) (f : MtrWork → MtrWork) : State := s.modMeter (fun m => { m with work := f m.work })

/-- Units of the front end's accumulator in one µJ. -/
def perUj : Nat := 8000
/-- 3,600 J and 360 J in those units. -/
def writeEvery : Nat := 3600 * 1000000 * perUj
def pulseEvery : Nat := 360 * 1000000 * perUj

/-- FRONT_END_SAMPLE (R388, R389): one pair of samples, in mA and mV. -/
def execFrontEndSample (ma mv : Nat) (s : State) : Host.Outcome State Fault Refusal :=
  if !s.mtrUp then .next s
  else
    let p := ma * mv
    let out := decide (mv < 40000) || decide (60000 < mv) || decide (ma < 2000) || decide (85000 < ma)
    .next (s.modMeter (fun m => { m with
      work := { m.work with reg := m.work.reg + p, eIn := m.work.eIn + p, eOut := m.work.eOut + (if out then p else 0), nsamp := m.work.nsamp + 1 },
      sinceWrite := m.sinceWrite + p, sincePulse := m.sincePulse + p }))

/-- TEST_PULSE (R389): one pulse for each 360 J. -/
def execTestPulse (s : State) : Host.Outcome State Fault Refusal :=
  .next (if s.mtrUp ∧ pulseEvery ≤ s.meter.sincePulse then
    (s.modMeter (fun m => { m with sincePulse := m.sincePulse - pulseEvery })).modDev (fun d => d.emit .pulse) else s)

/-! ### The store (R409, R410) -/

/-- Energies of two parts of an interval added up by key. -/
def tadd (a b : Tab Nat) : Tab Nat := b.foldl (fun t e => tmod 0 t e.1 (· + e.2)) a

/-- The interval cut at a boundary rejoins the open one (R404). -/
def MtrWork.rejoin (cut w : MtrWork) (shared : Nat) : MtrWork :=
  { w with
    tsOpen := cut.tsOpen, eIn := cut.eIn + w.eIn, eOut := cut.eOut + w.eOut, nsamp := cut.nsamp + w.nsamp,
    dom := tadd cut.dom w.dom, acct := tadd cut.acct w.acct, stalls := w.stalls.foldl (fun l k => sinsert k l) cut.stalls,
    nmap := cut.nmap + w.nmap - shared, flags := cut.flags ||| w.flags }

/-- What a state bank holds: until a CLOSE commits, its cut energy is the open interval's. -/
def MeterSt.banked (m : MeterSt) : MtrWork := match m.closing with
  | some j => match j.cut with
    | some c => c.rejoin m.work j.shared
    | none => m.work
  | none => m.work

/-- Write the state block into the bank that is older; `clean` for a write at an early warning or at release, `ends` unless
the supply fell to 2.90 V first (R412). -/
def MeterSt.writeState (m : MeterSt) (clean ends : Bool) : MeterSt :=
  let b : MtrBank := { wseq := max m.bank0.wseq m.bank1.wseq + 1, work := m.banked, good := ends, clean := clean }
  if m.bank0.wseq ≤ m.bank1.wseq then { m with bank0 := b, sinceWrite := 0 } else { m with bank1 := b, sinceWrite := 0 }

/-- Record places whose content may be overwritten (R403, R409). -/
def MtrWork.freePlaces (w : MtrWork) : Nat := 96 + w.acked - w.seq

/-- The record of a sequence number, if the store holds it. -/
def MeterSt.record (m : MeterSt) (n : Nat) : Option (List Byte) := match tget none m.records (n % 96) with
  | some r => if r.1 = n then some r.2 else none
  | none => none

def MeterSt.putRecord (m : MeterSt) (n : Nat) (b : List Byte) : MeterSt :=
  { m with records := tset none m.records (n % 96) (some (n, b)), work := { m.work with seq := n } }

/-! ### Records (R397, R399, R406 to R408) -/

def uj (x : Nat) : Nat := x / perUj

/-- The account energies of R399, by account 0 to 95 and 96 for the operator's, from the attributed energies. -/
def apportion (e : Nat) (a : Nat → Nat) : List Nat :=
  let tot := ((List.range 97).map a).sum
  if tot = 0 then List.replicate 96 0 ++ [e]
  else
    let base := (List.range 97).map (fun i => e * a i / tot)
    let frac (i : Nat) : Nat := e * a i % tot
    let rest := e - base.sum
    (List.range 97).map (fun i => e * a i / tot +
      b2n (decide (((List.range 97).filter (fun j => decide (frac i < frac j) || (frac j == frac i && decide (j < i)))).length < rest)))

/-- E_DOM, RESID and RECON of R397. -/
def MtrWork.eDom (w : MtrWork) : Nat := ((w.dom.map (·.2)).sum) / 1000
def MtrWork.resid (w : MtrWork) : Int := (uj w.eIn : Int) - (w.eDom : Int)
def MtrWork.reconBad (w : MtrWork) : Bool :=
  let e : Int := uj w.eIn
  decide (360000000000 ≤ e) && (decide (w.resid * 100 < 2 * e) || decide (20 * e < w.resid * 100))

/-- FLAGS of an interval (R407). -/
def MtrWork.flagsNow (w : MtrWork) : Nat :=
  w.flags ||| (b2n w.tsOpen.isEmpty + 8 * b2n (uj w.eOut != 0) + 16 * b2n w.reconBad + 64 * b2n (decide (1 < w.nmap)) + 128 * b2n w.sealBroken)

/-- The bytes of a record from its first 2,880: digest, signature and the reserved tail. -/
def sealRecord (b : List Byte) : List Byte :=
  let d := digestBytes (Config.sha3_256 b)
  b ++ (d ++ (slice (Config.mldsaSign 1 d ++ List.replicate 2420 0) 0 2420 ++ List.replicate 44 0))

def meterKeyId : W64 := keyIdOf Config.meterKey

/-- An interval record (R406). -/
def MeterSt.intervalRecord (m : MeterSt) (w : MtrWork) (seq : Nat) (digest : BitVec 256) (cmd : List Byte) : List Byte :=
  let acc := apportion (uj w.eIn) (fun i => tget 0 w.acct i)
  let entry (i : Nat) : List Byte := natLe 8 (acc.getD i 0) ++ (natLe 1 (if i = 96 then 255 else i) ++ List.replicate 7 0)
  let rows := (w.stalls ++ [96]).flatMap entry
  sealRecord ([natLe 4 0x4D5A4C45, natLe 2 1, natLe 2 1, natLe 8 seq, slice cmd 8 16, slice (w.tsOpen ++ List.replicate 16 0) 0 16,
    natLe 8 (uj w.eIn), natLe 8 (uj w.reg), natLe 8 (uj w.eOut), natLe 8 w.eDom, natLe 8 (BitVec.ofInt 64 w.resid).toNat,
    natLe 4 w.flagsNow, natLe 2 (w.stalls.length + 1), natLe 2 w.nmap, digestBytes digest, digestBytes m.fwDigest,
    natLe 8 meterKeyId.toNat, slice cmd 40 8, slice cmd 24 16, natLe 8 w.nsamp, List.replicate 56 0,
    (List.range 129).flatMap (fun d => natLe 8 (tget 0 w.dom d / 1000)),
    slice (rows ++ List.replicate 1552 0) 0 1552, List.replicate 40 0].flatten)

/-- An event record (R408). -/
def MeterSt.eventRecord (m : MeterSt) (code : Nat) (data : List Byte) : List Byte :=
  sealRecord ([natLe 4 0x4D5A4C45, natLe 2 1, natLe 2 2, natLe 8 (m.work.seq + 1), List.replicate 40 0, natLe 8 (uj m.work.reg),
    List.replicate 24 0, natLe 4 (128 * b2n m.work.sealBroken), List.replicate 36 0, digestBytes m.fwDigest, natLe 8 meterKeyId.toNat,
    List.replicate 32 0, natLe 4 code, slice (data ++ List.replicate 52 0) 0 52, List.replicate 2624 0].flatten)

/-- A CLOSE is under way, before whose end no event is written. -/
def MeterSt.recordDue (m : MeterSt) : Bool := m.closing.isSome

/-- Write an event, and after it the state block; with no place free it is counted (R408, R410). -/
def MeterSt.writeEvent (m : MeterSt) (code : Nat) (data : List Byte) : MeterSt :=
  if m.work.freePlaces = 0 then { m with work := { m.work with eventsLost := m.work.eventsLost + 1 } }
  else (m.putRecord (m.work.seq + 1) (m.eventRecord code data)).writeState false true

/-- An event: written, or held for the inhibit's end or the end of a CLOSE. -/
def MeterSt.event (m : MeterSt) (code : Nat) (data : List Byte) : MeterSt :=
  if m.inhibit || m.recordDue then { m with evHeld := m.evHeld ++ [(code, data)] } else m.writeEvent code data

/-- Write the events that were held, once nothing holds them. -/
def MeterSt.flushEvents (m : MeterSt) : MeterSt :=
  if m.inhibit || m.recordDue then m else m.evHeld.foldl (fun m e => m.writeEvent e.1 e.2) { m with evHeld := [] }

/-! ### Poll cycles (R393 to R398) -/

/-- The domain of charge `j` of a source's reply (R393). -/
def domainOf (src j : Nat) : Nat := if src = 8 then 128 else if j < 12 then 12 * src + j else if j < 15 then 96 + 3 * src + (j - 12) else 120 + src

/-- Divide a pool by units, each share truncated to 1 nJ (R398). -/
def shareOut (pool : Nat) (unit : Nat → Nat) (acct : Tab Nat) : Tab Nat :=
  let tot := ((List.range 96).map unit).sum
  if tot = 0 then acct else (List.range 96).foldl (fun t k => tmod 0 t k (· + pool * unit k / tot)) acct

/-- The account of a cluster under a map. -/
def mapAccount (mp : Option MtrMap) (c : Nat) : Nat := match mp with
  | some p => let k := p.stalls.getD c 255
    if k < 96 then k else 96
  | none => 96

/-- The cycle's domain energies [nJ] join the interval and its accounts (R395, R398); `mv` is V̄6. -/
def MeterSt.attribute (m : MeterSt) (mv : Nat) : MeterSt :=
  let e (d : Nat) : Nat := tget 0 m.dq d * mv
  let sumE (lo n : Nat) : Nat := ((List.range n).map (fun i => e (lo + i))).sum
  let u (k x : Nat) : Nat := tget 0 m.du (4 * k + x)
  let a1 := (List.range 96).foldl (fun t c => tmod 0 t (mapAccount m.map c) (· + e c)) m.work.acct
  let a2 := shareOut (sumE 96 24) (fun k => u k 0) a1
  let a3 := shareOut (sumE 120 8) (fun k => u k 1 + u k 2 + 9 * u k 3) a2
  let held (k : Nat) : Nat := ((List.range 96).filter (fun c => mapAccount m.map c == k)).length
  let a4 := (List.range 97).foldl (fun t k => tmod 0 t k (· + e 128 * held k / 96)) a3
  let dom := (List.range 129).foldl (fun t d => tmod 0 t d (· + e d)) m.work.dom
  { m with work := { m.work with acct := a4, dom := dom }, dq := [], du := [] }

/-- Stalls that hold a cluster under a map. -/
def MtrMap.holders (p : MtrMap) : List Nat := (p.stalls.filter (· < 96)).foldl (fun l k => sinsert k l) []

/-- A poll cycle begins: a map that has arrived takes effect (R396). -/
def MeterSt.beginCycle (m : MeterSt) : MeterSt :=
  let m1 := { m with polling := true, poll := m.poll + 1 }
  match m.nextMap with
  | some p => { m1 with
      map := some p, nextMap := none,
      work := { m1.work with nmap := m1.work.nmap + 1, stalls := p.holders.foldl (fun l k => sinsert k l) m1.work.stalls } }
  | none => if m.map.isNone then { m1 with work := { m1.work with flags := m1.work.flags ||| 512 } } else m1

/-- A waiting CLOSE cuts the interval here, and its record is built and signed (R404 steps 3 and 4). -/
def MeterSt.cutNow (m : MeterSt) : MeterSt := match m.closing with
  | none => m
  | some j =>
    if j.cut.isSome then m
    else
      let w := m.work
      let digest : BitVec 256 := match m.map with
        | some p => p.digest
        | none => 0
      let goesOn := m.map.isSome && m.nextMap.isNone
      let open_ : MtrWork := { w with
        tsOpen := slice j.cmd 8 16, eIn := w.eIn % perUj, eOut := w.eOut % perUj, nsamp := 0, dom := [], acct := [],
        stalls := if goesOn then (match m.map with
          | some p => p.holders
          | none => []) else [],
        nmap := b2n goesOn, flags := (if m.inhibit then 256 else 0) ||| (if m.map.isNone then 512 else 0) }
      { m with
        work := open_,
        closing := some { j with cut := some { w with eIn := w.eIn - w.eIn % perUj, eOut := w.eOut - w.eOut % perUj },
                                 shared := b2n goesOn, record := m.intervalRecord w (w.seq + 1) digest j.cmd } }

/-- METER_POLL (R393, R395, R398): the cycle in progress ends, with the mean of its intermediate-bus readings in mV, and the
next one begins. -/
def execMeterPoll (mv : Nat) (s : State) : Host.Outcome State Fault Refusal :=
  if !s.mtrUp then .next s
  else
    let m := s.meter
    let m1 := if m.polling then
        let a := m.attribute mv
        { a with heartbeat := a.heartbeat + 1, cycle := a.cycle + 1, regShown := BitVec.ofNat 64 (uj a.work.reg) }
      else m
    .next { s with meter := m1.cutNow.beginCycle }

/-- The usage counters that base die `k` replies with, by stall × 4 + x (R393, R394). -/
def Dev.usageOf (s : Dev) (k : Nat) : List Nat := (List.range 384).map (fun j => (tget 0 s.mem.usage (k * 384 + j)).toNat)

/-- SENSE_REPLY (R393 to R395): a good reply of source `src` to the poll in progress, `us` µs after it and so within 1 ms, with its
regulators' charges and the usage counters of its base die. -/
def execSenseReply (src : Fin 9) (poll : Byte) (good : Bool) (charges : List W32) (us : Nat) (s : State) :
    Host.Outcome State Fault Refusal :=
  let k := src.val
  let m := s.meter
  let nq := if k = 8 then 1 else 16
  let nu := if k = 8 then 0 else 384
  if !s.mtrUp || !m.polling || poll != m.poll || !good || decide (1000 < us) || charges.length != nq then .next s
  else
    let now : SenseLast := { charge := charges.map BitVec.toNat, usage := if k = 8 then [] else s.usageOf k, at_ := m.cycle }
    let m0 := { m with last := tset none m.last k (some now) }
    match tget none m.last k with
    | none => .next { s with meter := if 100 < m.cycle then { m0 with work := { m0.work with flags := m0.work.flags ||| 32 } } else m0 }
    | some old =>
      if 100 < m.cycle - old.at_ then .next { s with meter := { m0 with work := { m0.work with flags := m0.work.flags ||| 32 } } }
      else
        let dq := (List.range nq).foldl (fun t j => tmod 0 t (domainOf k j) (· + (now.charge.getD j 0 + 2 ^ 32 - old.charge.getD j 0) % 2 ^ 32)) m.dq
        let du := (List.range nu).foldl (fun t j => tmod 0 t j (· + (now.usage.getD j 0 + 2 ^ 48 - old.usage.getD j 0) % 2 ^ 48)) m.du
        .next { s with meter := { m0 with dq := dq, du := du } }

/-- METER_MAP (R396): the security core sends the map of the device plan in force. -/
def execMeterMap (s : State) : Host.Outcome State Fault Refusal :=
  if !s.mtrUp || !s.coreUp 0 then .next s
  else
    let p : MtrMap := { stalls := (List.range 96).map (fun c => (s.clusterStall c).getD 255),
                        digest := match s.hub.devPlan with
                          | some d => d.digest
                          | none => 0 }
    .next (s.modMeter (fun m => { m with nextMap := some p }))

/-! ### Commands (R402, R403) -/

/-- LEN that a type has. -/
def mtrLen (t len : Nat) : Bool :=
  if t = 0x101 ∨ t = 0x102 ∨ t = 0x104 ∨ t = 0x105 then len == 2468
  else if t = 0x103 then len == 3780 || len == 1360
  else if t = 0x201 ∨ t = 0x202 then len == 48
  else false

def mtrKnown (t : Nat) : Bool := mtrLen t 2468 || mtrLen t 3780 || mtrLen t 48

/-- The meter's certificate object (R414). -/
def certObject : List Byte := Config.meterKey ++ Config.meterChain

/-- The keys that may sign a type. -/
def MtrWork.signers (w : MtrWork) (t : Nat) : List (List Byte) :=
  if t = 0x105 then w.verKey.toList else w.authKeys.filterMap id

def MtrWork.keyCount (w : MtrWork) : Nat := (w.authKeys.filterMap id).length

/-- Seconds and nanoseconds of a CLOSE's ARG (R402), in an order that compares them. -/
def closeTime (arg : List Byte) : Int := (BitVec.ofNat 64 (u64 arg 0)).toInt * 1000000000 + (u32 arg 8 : Int)

/-- The first code of R403 that applies, with a cartridge fitted. -/
def MeterSt.code (m : MeterSt) (c : List Byte) : Nat :=
  let t := u16 c 0
  let w := m.work
  let len := u16 c 2
  let sig := t / 256 == 1 && len != 1360
  let key := (w.signers t).find? (fun k => (keyIdOf k).toNat == u64 c 40)
  let x := if t = 0x103 then 1312 else 0
  let n := u64 c 8
  if !mtrLen t len || c.length != len || !allZero c 4 4 || (t == 0x101 && decide (1000000000 ≤ u32 c 16)) ||
      (t == 0x202 && decide (certObject.length ≤ u32 c 8)) then 1
  else if sig && key.isNone then 2
  else if sig && !Config.mldsaVerify (key.getD []) (digestBytes (Config.sha3_256 (slice c 0 (48 + x)))) (slice c (48 + x) 2420) then 3
  else if sig && slice c 24 16 != m.challenge then 4
  else if t == 0x101 && (match w.lastClose with
      | some a => decide (closeTime (slice c 8 16) ≤ closeTime a)
      | none => false) then 5
  else if (t == 0x101 || t == 0x103 || t == 0x104 || t == 0x105) && decide (w.freePlaces < 8) then 6
  else if (t == 0x101 || t == 0x103 || t == 0x104 || t == 0x105) && m.inhibit then 7
  else if t == 0x201 && (m.record n).isNone then 8
  else if t == 0x102 && (decide (w.seq < n) || decide (n ≤ w.acked)) then 9
  else if (t == 0x103 && (decide (2 ≤ w.keyCount) || (!sig && decide (1 ≤ w.keyCount)))) ||
      (t == 0x104 && decide (w.keyCount ≤ 1)) then 10
  else if t == 0x105 && (m.traceBroken || w.verKey.isNone) then 11
  else 0

/-- A new challenge from the meter's random source (R402). -/
def State.newChallenge (s : State) : State :=
  let n := s.freeCtr
  (s.modDev (fun d => d.draw.2)).modMeter (fun m => { m with challenge := natLe 8 (Config.freeWord n 0).toNat ++ natLe 8 (Config.freeWord n 1).toNat })

/-- Commands of unknown TYPE at the front of the queue end with code 0x01. -/
def State.dropUnknown (s : State) : List (Nat × List Byte) → State
  | [] => s
  | (i, c) :: rest =>
    if s.meter.closing.isNone && !mtrKnown (u16 c 0) then
      State.dropUnknown ((s.modMeter (fun m => { m with queue := rest })).mbxEnd i 1 []) rest
    else s

/-- GO (R419): discarded in STATE 1 or 2; with no cartridge the command ends at once with code 0x0F. -/
def State.mbxGo (s : State) (i len : Nat) : State :=
  let x := s.meter.mbx i
  if !s.meter.present then s.mbxEnd i 0x0F []
  else if x.state = 1 ∨ x.state = 2 then s
  else
    let s1 := s.modMeter (fun m => { m.setMbx i { x with state := 1 } with queue := m.queue ++ [(i, x.command len)] })
    if s1.mtrUp then s1.dropUnknown s1.meter.queue else s1

/-- METER (R458): a command of R402 carried to mailbox 1; its response is carried back when it ends. -/
def execMeter (b : Binding) (cmd : List Byte) (s : State) : Host.Outcome State Fault Refusal :=
  let x := s.meter.mbx1
  if !s.mctpUp b || x.state == 1 || x.state == 2 then .next s
  else .next ((s.modMeter (fun m => { m with vendor := some (bindNum b), mbx1 := { x with window := tsetRange 0 [] 0 (cmd.take 4096) } })).mbxGo 1 cmd.length)

/-- The meter serves the command at the front of its queue if it is of the type that a row names, and no CLOSE is under way;
`k` is the accepted command's effect and its response. -/
def State.mtrServe (s : State) (t : Nat) (k : State → List Byte → State × List Byte) : Host.Outcome State Fault Refusal :=
  if !s.mtrUp || s.meter.closing.isSome then .next s
  else
    let s0 := s.dropUnknown s.meter.queue
    match s0.meter.queue with
    | [] => .next s0
    | (i, c) :: rest =>
      if u16 c 0 ≠ t then .next s0
      else
        let code := s0.meter.code c
        let s1 := s0.modMeter (fun m => { m with queue := rest })
        let s2 := if code = 0 then (let (a, r) := k s1 c
          a.mbxEnd i 0 r) else s1.mbxEnd i code []
        .next (s2.dropUnknown s2.meter.queue)

/-- CLOSE (R404 steps 1 to 4): checked; an accepted one waits for the end of the poll cycle in progress. -/
def execClose (s : State) : Host.Outcome State Fault Refusal :=
  if !s.mtrUp || s.meter.closing.isSome then .next s
  else
    let s0 := s.dropUnknown s.meter.queue
    match s0.meter.queue with
    | [] => .next s0
    | (i, c) :: rest =>
      if u16 c 0 ≠ 0x101 then .next s0
      else
        let code := s0.meter.code c
        let s1 := s0.modMeter (fun m => { m with queue := rest })
        if code = 0 then
          .next (s1.modMeter (fun m =>
            let m1 := { m.setMbx i { m.mbx i with state := 2 } with closing := some { mbx := i, cmd := c } }
            if m.polling then m1 else m1.cutNow))
        else
          let s2 := s1.mbxEnd i code []
          .next (s2.dropUnknown s2.meter.queue)

/-- METER_RECORD_COMMIT (R404 steps 5 and 6): the record's write completes, the state block is written, the challenge
renewed; events that waited are written. -/
def execMeterRecordCommit (s : State) : Host.Outcome State Fault Refusal :=
  if !s.mtrUp || s.meter.inhibit then .next s
  else match s.meter.closing with
    | none => .next s
    | some j => match j.cut with
      | none => .next s
      | some w =>
        let s1 := s.modMeter (fun m =>
          let m1 := { m.putRecord (m.work.seq + 1) j.record with closing := none, recon := w.reconBad }
          { m1 with work := { m1.work with lastClose := some (slice j.cmd 8 16) } }.writeState false true)
        let s2 := (s1.newChallenge.modMeter MeterSt.flushEvents).mbxEnd j.mbx 0 []
        .next (s2.dropUnknown s2.meter.queue)

/-- ACK (R402, R403). -/
def execAck (s : State) : Host.Outcome State Fault Refusal :=
  s.mtrServe 0x102 (fun t c => ((t.modWork (fun w => { w with acked := u64 c 8 })).newChallenge, []))

/-- ENROLL (R402): into the first free slot; a KEY_ENROLLED event. -/
def execEnroll (s : State) : Host.Outcome State Fault Refusal :=
  s.mtrServe 0x103 (fun t c =>
    let key := slice c 48 1312
    let slot := if (t.meter.work.authKeys.getD 0 none).isNone then 0 else 1
    let t1 := t.modMeter (fun m => { m with work := { m.work with authKeys := lmod m.work.authKeys slot (fun _ => some key) } }.event 3
      (natLe 8 (keyIdOf key).toNat ++ natLe 1 slot))
    (if u16 c 2 = 1360 then t1 else t1.newChallenge, []))

/-- REVOKE (R402): the named key leaves its slot; a KEY_REVOKED event. -/
def execRevoke (s : State) : Host.Outcome State Fault Refusal :=
  s.mtrServe 0x104 (fun t c =>
    let named (k : Option (List Byte)) : Bool := match k with
      | some k => (keyIdOf k).toNat == u64 c 8
      | none => false
    let t1 := if t.meter.work.authKeys.any named then
        t.modMeter (fun m => { m with work := { m.work with authKeys := m.work.authKeys.map (fun k => if named k then none else k) } }.event 4 (slice c 8 8))
      else t
    (t1.newChallenge, []))

/-- VERIFIED (R416, R417): a VERIFIED event, and SEAL_BROKEN clears. -/
def execVerified (s : State) : Host.Outcome State Fault Refusal :=
  s.mtrServe 0x105 (fun t _ =>
    let id := keyIdOf (t.meter.work.verKey.getD [])
    ((t.modMeter (fun m => { m with work := { m.work with sealBroken := false } }.event 7 (natLe 8 id.toNat))).newChallenge, []))

/-- READ (R402): the record into the response window. -/
def execRead (s : State) : Host.Outcome State Fault Refusal :=
  s.mtrServe 0x201 (fun t c => (t, (t.meter.record (u64 c 8)).getD []))

/-- GET_CERT (R414). -/
def execGetCert (s : State) : Host.Outcome State Fault Refusal :=
  s.mtrServe 0x202 (fun t c =>
    let o := u32 c 8
    (t, natLe 4 certObject.length ++ (natLe 4 o ++ slice certObject o 8184)))

/-! ### Supply sag and power-up (R410 to R413) -/

/-- METER_STATE_WRITE (R410): after 3,600 J, or when an early warning first comes; warnings re-arm at 43.0 V and 3.20 V. -/
def execMeterStateWrite (mv sb : Nat) (ends : Bool) (s : State) : Host.Outcome State Fault Refusal :=
  if !s.mtrUp then .next s
  else
    let m := s.meter
    let warn := (decide (mv < 42000) && !m.inWarn) || (decide (sb < 3150) && !m.sbWarn)
    let m1 := { m with
      inWarn := if mv < 42000 then true else if 43000 ≤ mv then false else m.inWarn,
      sbWarn := if sb < 3150 then true else if 3200 ≤ sb then false else m.sbWarn }
    .next { s with meter := if !m.inhibit && (warn || decide (writeEvery ≤ m.sinceWrite)) then m1.writeState warn ends else m1 }

/-- A CLOSE that has not committed leaves its interval open (R404). -/
def MeterSt.unclose (m : MeterSt) : MeterSt := { m with work := m.banked, closing := none }

/-- METER_INHIBIT_START (R411, R404): no store write begins; a CLOSE between steps 3 and 5 ends with code 0x07. -/
def execMeterInhibitStart (mv sb : Nat) (s : State) : Host.Outcome State Fault Refusal :=
  if !s.mtrUp || s.meter.inhibit || !(decide (mv < 40000) || decide (sb < 3050)) then .next s
  else
    let s1 := s.modMeter (fun m => { m with inhibit := true, work := { m.work with flags := m.work.flags ||| 256 } })
    match s1.meter.closing with
    | some j =>
      if j.cut.isSome then
        let s2 := (s1.modMeter MeterSt.unclose).mbxEnd j.mbx 7 []
        .next (s2.dropUnknown s2.meter.queue)
      else .next s1
    | none => .next s1

/-- METER_INHIBIT_RELEASE (R411): the supply has held for 100 ms; held values are written. -/
def execMeterInhibitRelease (mv sb ms : Nat) (s : State) : Host.Outcome State Fault Refusal :=
  .next (if s.mtrUp ∧ s.meter.inhibit ∧ 40500 ≤ mv ∧ 3100 ≤ sb ∧ 100 ≤ ms then
    s.modMeter (fun m => ({ m with inhibit := false }.flushEvents).writeState true true) else s)

/-- The bank that governs at power-up (R413). -/
def MeterSt.governs (m : MeterSt) : Option MtrBank :=
  if m.bank0.good && (!m.bank1.good || decide (m.bank1.wseq ≤ m.bank0.wseq)) then some m.bank0
  else if m.bank1.good then some m.bank1 else none

/-- Adopt a committed record that the state bank does not know (R413); the record that it overwrote had been acknowledged
(R409). -/
def MtrWork.adopt (w : MtrWork) (r : Nat × List Byte) : MtrWork :=
  let w1 := { w with seq := r.1, acked := max w.acked (r.1 - 96), reg := max w.reg (u64 r.2 56 * perUj) }
  if u16 r.2 6 = 1 then
    { w1 with tsOpen := slice r.2 16 16, lastClose := some (slice r.2 16 16), eIn := 0, eOut := 0, nsamp := 0, dom := [], acct := [],
              stalls := [], nmap := 0, flags := 0 }
  else if u32 r.2 200 = 5 then { w1 with sealBroken := true }
  else if u32 r.2 200 = 7 then { w1 with sealBroken := false }
  else w1

/-- The highest sequence number held. -/
def MeterSt.topSeq (m : MeterSt) : Nat := m.records.foldl (fun a e => match e.2 with
  | some r => max a r.1
  | none => a) 0

/-- The stored records above a sequence number, in rising order. -/
def MeterSt.laterRecords (m : MeterSt) (seq : Nat) : List (Nat × List Byte) :=
  (List.range (m.topSeq - seq)).filterMap (fun i => (m.record (seq + 1 + i)).map (fun b => (seq + 1 + i, b)))

/-- RECON of the newest interval record held. -/
def MeterSt.lastRecon (m : MeterSt) (seq : Nat) : Bool :=
  match ((List.range 96).filterMap (fun i => m.record (seq - i))).find? (fun b => u16 b 6 == 1) with
  | some b => bit (u32 b 88) 4
  | none => false

/-- A broken trace is found: a SEAL_BROKEN event, once (R416). -/
def MeterSt.foundBroken (m : MeterSt) : MeterSt :=
  if m.work.sealBroken then m else { m with work := { m.work with sealBroken := true } }.event 5 []

/-- METER_POWER_UP (R413, R408, R418), with `trace` the state of the seal trace, true for broken. Where no bank checks, the meter
registers from zero with START_UNKNOWN, and only the numbers of the records that it finds and the seal's state count (DEDUCED, log
entry 57). Where no cartridge is fitted, a new one is. -/
def execMeterPowerUp (trace : Bool) (s : State) : Host.Outcome State Fault Refusal :=
  if s.power.state = .off ∨ s.meter.ready then .next s
  else
    let m := s.meter
    let gov := m.governs
    let w0 : MtrWork := match gov with
      | some b => b.work
      | none => {}
    let later := m.laterRecords w0.seq
    let found := later.foldl MtrWork.adopt w0
    let w1 : MtrWork := if gov.isSome then found else { seq := found.seq, acked := found.acked, sealBroken := found.sealBroken }
    let unclean := match gov with
      | some b => !b.clean || !later.isEmpty || decide (b.wseq < max m.bank0.wseq m.bank1.wseq)
      | none => true
    let w2 := { w1 with flags := w1.flags ||| (2 + 4 * b2n unclean + 512), eventsLost := if w1.freePlaces = 0 then w1.eventsLost else 0 }
    let m1 : MeterSt :=
      { present := true, ready := true, work := w2, bank0 := m.bank0, bank1 := m.bank1, records := m.records,
        recon := m.lastRecon w2.seq, fwDigest := if m.present then m.fwDigest else Config.meterFirmware, traceBroken := trace,
        regShown := BitVec.ofNat 64 (uj w2.reg) }
    let m2 := m1.event 1 ([BitVec.ofNat 8 (b2n unclean), 0, 0, 0] ++ natLe 4 w1.eventsLost)
    let m3 := if s.sec.identity && m2.work.lastModule != some identityKeyId then
        { m2 with work := { m2.work with lastModule := some identityKeyId } }.event 2 (natLe 8 identityKeyId.toNat)
      else m2
    .next ({ s with meter := if trace then m3.foundBroken else m3 } : State).newChallenge

/-! ### Seal, firmware, processor restart (R404, R415 to R417) -/

/-- SEAL_BREAK (R416, R417): the trace is broken, which a processor that has come through power-up finds at once, or a new
plate is closed over an intact one. -/
def execSealBreak (broken : Bool) (s : State) : Host.Outcome State Fault Refusal :=
  if !s.meter.present then .next s
  else
    let m := { s.meter with traceBroken := broken }
    .next { s with meter := if broken && m.ready then m.foundBroken else m }

/-- The processor starts anew: a CLOSE not committed leaves its interval open, queued commands go, the challenge is renewed. -/
def State.mtrRestart (s : State) : State :=
  (s.modMeter (fun m => ({ m.unclose with
    queue := [], vendor := none, mbx0 := { m.mbx0 with state := 0, code := 0 }, mbx1 := { m.mbx1 with state := 0, code := 0 } }).flushEvents)).newChallenge

/-- METER_PROCESSOR_RESTART (R404, R389): no energy is lost. -/
def execMeterProcessorRestart (s : State) : Host.Outcome State Fault Refusal := .next (if s.mtrUp then s.mtrRestart else s)

/-- METER_FW_LOAD (R415, R417): through the programming port, with the trace broken, a signed image. -/
def execMeterFwLoad (image sig : List Byte) (s : State) : Host.Outcome State Fault Refusal :=
  let d := Config.sha3_256 image
  .next (if s.mtrUp ∧ s.meter.traceBroken ∧ Config.mldsaVerify Config.metrologyKey (digestBytes d) sig ∧ d ≠ s.meter.fwDigest then
    (s.modMeter (fun m => { m with fwDigest := d }.event 6 (digestBytes s.meter.fwDigest))).mtrRestart
  else s)

/-- VERIFICATION_KEY_ENROL (R417 step 3). -/
def execVerificationKeyEnrol (key : List Byte) (s : State) : Host.Outcome State Fault Refusal :=
  .next (if s.mtrUp ∧ s.meter.traceBroken then s.modWork (fun w => { w with verKey := some key }) else s)

end Sys2Proof.Machine
end

