-- ==== Sys2Proof/Machine/Regs.lean ====
section
/-!
DEFINITION. The registers of BAR0 (R473 to R479): the view of a function (R447), reads, and REGISTER_WRITE.
-/
namespace Sys2Proof.Machine

/-- Half of a 64-bit register that a 4-byte access at `o` reaches. -/
def half (o v : Nat) : Nat := if o % 8 = 0 then v % 2 ^ 32 else v / 2 ^ 32 % 2 ^ 32

/-- A 64-bit register with one half written. -/
def putHalf (o old v : Nat) : Nat := if o % 8 = 0 then old / 2 ^ 32 * 2 ^ 32 + v else old % 2 ^ 32 + v * 2 ^ 32

/-! ### Reads -/

/-- The wave whose bank a function's RS read returns (R51). -/
def Dev.rsWave (s : Dev) (fn : Nat) : W32 := if fn = 0 then s.tally.done else tget 0 s.tally.stallDone (fn - 1)

/-- Counters and tally tag of a unit, by offset from its counter base (R476). R51 has an RS read return zero before the first
completed wave and also, through the physical function, the bank that SCH_TALLY_DONE names: after an abandoned first wave
the model returns that bank (DESIGN CHOICE, log entry 76). -/
def Dev.counterReg (s : Dev) (fn u a : Nat) : Nat :=
  let x := s.unit u
  let w := s.rsWave fn
  let bank := if w.toNat % 2 = 0 then x.bank0 else x.bank1
  let shadow (n : Nat) : Nat := if w = 0 then 0 else (tget 0 bank n).toNat
  let live (n : Nat) : Nat := (tget 0 x.live n).toNat
  if 0x100 ≤ a ∧ a < 0x200 then half a (live ((a - 0x100) / 8))
  else if 0x200 ≤ a ∧ a < 0x300 then half a (shadow ((a - 0x200) / 8))
  else if a = 0x300 ∨ a = 0x304 then
    half a (if w = 0 then 0 else (if w.toNat % 2 = 0 then x.wave0 else x.wave1).toNat + 2 ^ 32 * b2n x.abandoned)
  else if u < 2000 ∧ 0x500 ≤ a ∧ a < 0x600 then half a (live (32 + (a - 0x500) / 8))
  else if u < 2000 ∧ 0x600 ≤ a ∧ a < 0x700 then half a (shadow (32 + (a - 0x600) / 8))
  else 0

def planCode : PlanState → Nat
  | .none => 0
  | .verifying => 1
  | .placing => 2
  | .loaded => 3
  | .unloading => 4
  | .failed => 5
  | .waiting => 6

/-- A plan register block (R209 to R213). -/
def planReg (b : PlanBlk) (dev : Bool) (a : Nat) : Nat :=
  if a = 4 then b.len.toNat
  else if a = 8 then planCode b.state + 8 * b2n b.cmdLost + 16 * b2n b.stageLost
  else if a = 12 then (if dev then 0 else b.dropped.toNat)
  else if a / 8 = 2 then half a (b.fail.code.toNat + 2 ^ 8 * b.fail.section_.toNat + 2 ^ 16 * b.fail.record.toNat + 2 ^ 32 * b.fail.word.toNat)
  else if a / 8 = 3 then half a b.planId.toNat
  else if 0x20 ≤ a ∧ a < 0x40 then b.digest.toNat / 2 ^ (8 * (a - 0x20)) % 2 ^ 32
  else 0

def fwStateCode (s : Dev) (p : Nat) : Nat :=
  if s.fw.held.contains p then 2 else if s.fw.down.contains p then 1 else if s.fw.handing.contains p then 3 else 0

/-- The dword of a list of bytes. -/
def bytesDword (b : List Byte) (a : Nat) : Nat := u32 b a

/-- The tally, plan, page, fault and power registers of the hub block. -/
def Dev.schReg (s : Dev) (o : Nat) : Nat :=
  let t := s.tally
  if o = 0x30000 then 2 * b2n t.enable
  else if o = 0x30004 then b2n t.busy + 2 * b2n t.partialWave + 4 * b2n (t.pendPf || !t.pendStalls.isEmpty)
  else if o = 0x30008 then t.injected.toNat
  else if o = 0x3000C then t.done.toNat
  else if o = 0x30010 then t.gap.toNat
  else if o = 0x30014 then t.timeout.toNat
  else if o = 0x30018 then t.lag.toNat
  else match inArr o 0x30100 4 96 with
  | some (k, _) => (tget 0 t.stallDone k).toNat
  | none =>
  if 0x31000 ≤ o ∧ o < 0x31040 then planReg s.hub.dblk true (o - 0x31000)
  else match inArr o 0x32000 0x40 96 with
  | some (k, a) => planReg (s.stall k).blk false a
  | none => match inArr o 0x34000 0x200 96 with
  | some (k, a) =>
    let d := tget {} (s.stall k).epochs (a / 0x20)
    if a % 0x20 = 0 then d.epoch.toNat
    else if a % 0x20 = 8 then d.pinCur.toNat + 2 ^ 16 * d.pinPrev.toNat
    else if a % 0x20 = 12 then b2n d.refused else 0
  | none => match inArr o 0x50000 0x40 96 with
  | some (k, a) =>
    let x := s.stall k
    if a = 0 then b2n x.faulted + 2 * b2n x.withdrawn + 4 * x.cause.toNat + 2 ^ 16 * x.faultLoom.toNat
    else if a / 8 = 1 then half a x.discard.toNat
    else if a / 8 = 2 then half a x.later.toNat else 0
  | none => 0

def Dev.pwrReg (s : Dev) (o : Nat) : Nat :=
  let w := s.power
  if o = 0x60000 then
    powerCode w.state + 8 * w.trip.toNat + 32 * w.emerg.toNat + 2 ^ 10 * b2n w.nvInh + 2 ^ 11 * b2n w.nvWarn + 2 ^ 12 * b2n s.modelBit +
      2 ^ 13 * b2n w.pcHeld + 2 ^ 16 * w.clamps.toNat + 2 ^ 24 * s.fw.dumpsLost.toNat
  else if o = 0x60008 then w.vset.toNat + 2 ^ 10 * b2n w.stay
  else if o = 0x60010 then w.pcap.toNat + 2 ^ 12 * w.tlim.toNat
  else match inArr o 0x60100 4 96 with
  | some (k, _) => (tget 900 w.vmax k).toNat
  | none => match inArr o 0x60400 4 96 with
  | some (c, _) => (s.targetNow c).toNat + 2 ^ 10 * b2n (s.dead c)
  | none => match inArr o 0x70000 4 112 with
  | some (p, _) => fwStateCode s p + 4 * b2n (s.fw.slotB.contains p) + 2 ^ 8 * (tget 0 s.fw.restarts p).toNat
  | none =>
  if o = 0x70200 then s.fw.actImage.toNat + 16 * b2n s.fw.act.isSome + 2 ^ 8 * s.fw.actResult.toNat
  else if o / 8 = 0x70208 / 8 then half o s.fw.cdumpSel.toNat
  else if 0x71000 ≤ o ∧ o < 0x715E0 then bytesDword s.fw.dumpWindow (o - 0x71000)
  else 0

/-- MSI-X table and PBA, HUB_WIN, hopper status, security, log and management registers. -/
def Dev.hubReg (s : Dev) (fn o : Nat) : Nat :=
  let f := s.fn fn
  let x := s.sec
  if o = 0 then 0x013072
  else if o = 8 then b2n f.acc.valid + 2 * b2n f.acc.writeLost + 4 * b2n f.acc.readAbort + 8 * f.acc.bar.toNat + 32 * f.acc.kind.toNat
  else if o = 12 then f.acc.offset.toNat
  else if o / 8 = 2 then half o s.hub.hostTime.toNat
  else match inArr o 0x80000 16 (vecCount fn) with
  | some (v, a) =>
    let e := tget {} f.msix v
    if a = 0 then e.addr.toNat % 2 ^ 32 else if a = 4 then e.addr.toNat / 2 ^ 32 else if a = 8 then e.data.toNat else b2n e.masked
  | none =>
  if o = 0x81000 then (f.pba.map (fun v => 2 ^ v)).sum
  else if o / 8 = 0x90000 / 8 then half o (2 ^ 26 * f.winBase.toNat + 2 ^ 52 * (if fn = 0 then f.winStall.toNat else fn - 1))
  else match inArr o 0x91000 0x10 96 with
  | some (k, a) => if a = 0 then (s.stall k).hopLost.toNat else if a = 4 then b2n (s.stall k).hopFull else 0
  | none =>
  if 0x92000 ≤ o ∧ o < 0x93000 then s.counterReg fn hubKey (o - 0x92000)
  else if o = 0xA0000 then
    x.state.toNat + 2 ^ 8 * x.code.toNat + 2 ^ 16 * b2n x.opKey.isSome + 2 ^ 17 * x.opFuses.length + 2 ^ 20 * b2n x.testOpen + 2 ^ 21 * x.stallKeys.length
  else if 0xA0008 ≤ o ∧ o < 0xA0018 then bytesDword x.challenge (o - 0xA0008)
  else match inArr o 0xA0100 4 5 with
  | some (i, _) => (x.floor (i + 1)).toNat
  | none =>
  if 0xA2000 ≤ o ∧ o < 0xA4000 then leNat (tgetRange 0 x.window (o - 0xA2000) 4)
  else if o / 8 = 0xB0000 / 8 then half o s.hub.logSel.toNat
  else if 0xB0100 ≤ o ∧ o < 0xB0180 then bytesDword (s.hub.logBytes s.hub.logSel) (o - 0xB0100)
  else if o = 0xB1000 then s.mgt.eidI3c.toNat + 2 ^ 8 * s.mgt.eidPcie.toNat + 2 ^ 16 * b2n (s.coreUp 3)
  else if o = 0xB1004 then s.hub.logSeq.toNat % 2 ^ 32
  else 0

/-- The meter's registers and windows (R419); mailbox 1's belong to the management core. -/
def State.mtrReg (s : State) (a : Nat) : Nat :=
  let m := s.meter
  if a = 0 then
    b2n m.present + (if m.present then 2 * b2n m.ready + 4 * b2n m.work.sealBroken + 8 * b2n m.inhibit + 16 * b2n (decide (m.work.freePlaces < 8)) +
      32 * b2n m.recon + 64 * m.work.keyCount + 256 * b2n m.work.verKey.isSome + 2 ^ 16 * m.heartbeat.toNat else 0)
  else if !m.present then 0
  else if a / 8 = 1 then half a m.regShown.toNat
  else if a / 8 = 2 then half a m.work.seq
  else if a / 8 = 3 then half a m.work.acked
  else if 0x20 ≤ a ∧ a < 0x30 then bytesDword m.challenge (a - 0x20)
  else if 0x40 ≤ a ∧ a < 0x60 then m.fwDigest.toNat / 2 ^ (8 * (a - 0x40)) % 2 ^ 32
  else if a / 8 = 12 then half a meterKeyId.toNat
  else match inArr a 0x108 0x80 2 with
  | some (i, 0) => (m.mbx i).state.toNat + 2 ^ 8 * (m.mbx i).code.toNat + 2 ^ 16 * (m.mbx i).resp.length
  | _ =>
    if 0x2000 ≤ a ∧ a < 0x3000 then leNat (tgetRange 0 m.mbx0.window (a - 0x2000) 4)
    else if 0x4000 ≤ a ∧ a < 0x6000 then bytesDword m.mbx0.resp (a - 0x4000)
    else 0

def quireCode : QuireState → Nat
  | .idle => 0
  | .preparing => 1
  | .prepared => 2
  | .committing => 3
  | .restoring => 4
  | .reconstructing => 5
  | .failed => 6

/-- LNK_PORT_STATUS (R336). -/
def Dev.portReg (s : Dev) (p : Nat) : Nat :=
  let live := (List.range 8).filter (fun k => (s.link (12 * k + p)).state == .up)
  let mask := (live.map (fun k => 2 ^ k)).sum
  match s.axesNow.portUse p with
  | none => 4 * 7 + 2 ^ 8 * mask
  | some (x, minus) => s.portState p + 4 * x + 32 * b2n minus + 2 ^ 8 * mask

/-- Link, port and roster registers. -/
def Dev.lnkReg (s : Dev) (fn o : Nat) : Nat :=
  match inArr o 0x200000 0x1000 96 with
  | some (i, a) =>
    if a = 0 then (match (s.link i).state with
      | .off => 0
      | .training => 1
      | .up => 2
      | .down => 3) + 4 * (s.link i).cause.toNat else 0
  | none => match inArr o 0x280000 0x1000 12 with
  | some (p, a) => if a = 0 then s.portReg p else s.counterReg fn (portKey p) a
  | none => match inArr o 0x2C0000 0x200 96 with
  | some (k, a) =>
    let x := s.stall k
    if a / 8 = 1 then half a ((match x.rstState with
      | .idle => 0
      | .busy => 1
      | .done => 2
      | .refused => 3) + 2 ^ 8 * x.rstCode.toNat + 2 ^ 16 * x.rstGroup.toNat + 2 ^ 32 * x.rstEpoch.toNat) else 0
  | none => 0

/-- Store controller, Shelf, ring, stall tier, Cellar and quire registers. -/
def Dev.tierReg (s : Dev) (fn o : Nat) : Nat :=
  match inArr o 0x300000 0x4000 24 with
  | some (i, a) =>
    let x := s.mem.stack i
    if a = 0 then (match x.state with
      | .training => 0
      | .inService => 1
      | .out => 2) + 4 * x.retiring.length
    else if a / 8 = 1 then half a (x.ueAddr.toNat + 2 ^ 37 * x.ueStall.toNat + 2 ^ 44 * x.ueSource.toNat + 2 ^ 63 * b2n x.ueValid)
    else s.counterReg fn (storeKey i) a
  | none => match inArr o 0x370000 0x2000 8 with
  | some (k, a) => if a < 0x1000 then s.counterReg fn (shelfKey k) a else s.counterReg fn (ringKey k) (a - 0x1000)
  | none => match inArr o 0x380000 0x100 96 with
  | some (k, a) =>
    let x := s.stall k
    if a / 8 = 0 then half a (x.poolCap + 2 ^ 32 * x.poolUsed)
    else if a / 8 = 1 then half a (x.hostfVa.toNat + 2 ^ 52 * b2n x.hostfWrite + 2 ^ 63 * b2n x.hostfValid) else 0
  | none =>
  if o / 8 = 0x400000 / 8 then half o (s.mem.celMode.toNat + 4 * s.mem.celPorts.toNat + 2 ^ 32 * s.mem.celCap.toNat)
  else match inArr o 0x401000 0x1000 4 with
  | some (p, a) =>
    if a = 0 then (match tget .absent s.mem.celState p with
      | .absent => 0
      | .inService => 1
      | .failed => 2) else s.counterReg fn (celKey p) a
  | none => match inArr o 0x410000 0x100 96 with
  | some (k, a) =>
    let q := (s.stall k).quire
    if a / 8 = 0 then half a q.table.toNat
    else if a / 8 = 2 then half a (quireCode q.state + 8 * b2n q.refused + 2 ^ 32 * q.epoch.toNat) else 0
  | none => 0

/-- The loom block (R477). -/
def Dev.loomReg (s : Dev) (fn l a : Nat) : Nat :=
  let x := s.loom l
  let as := s.loomStall l
  if a = 0 then
    loomStateCode as.isSome x + 16 * x.role + 2 ^ 8 * as.getD 0 + 2 ^ 16 * x.width.toNat + 2 ^ 18 * b2n (match s.ctx l with
      | some c => c.ftz
      | none => false)
  else if a = 4 then b2n x.excOwner + 2 * b2n x.excIrqEn
  else if a / 8 = 1 then half a (b2n x.exc.valid + 2 * b2n x.exc.overrun + 4 * x.exc.event.toNat + 16 * x.exc.cause.toNat + 2 ^ 8 * x.exc.seq.toNat +
    2 ^ 16 * x.exc.elemRow.toNat + 2 ^ 22 * x.exc.elemCol.toNat + 2 ^ 32 * x.exc.kIndex.toNat)
  else if a / 8 = 2 then half a (x.exc.row.toNat + 2 ^ 24 * x.exc.col.toNat + 2 ^ 40 * x.exc.plane.toNat + 2 ^ 52 * x.exc.op.toNat)
  else if a / 8 = 4 then half a (b2n x.fault.faulted + 2 * x.fault.cause.toNat + 16 * x.fault.slot.toNat + 2 ^ 13 * x.fault.port.toNat +
    2 ^ 16 * x.fault.line.toNat + 2 ^ 32 * x.fault.op.toNat)
  else if a = 0x400 then b2n x.pick.isSome + 2 * b2n x.pickOob + 4 * x.pickFn.toNat + 2 ^ 8 * (match x.pick with
    | some j => j.pend.length
    | none => 0)
  else if a / 8 = 0x408 / 8 then half a x.pickOobPos.toNat
  else if a = 0x410 then x.pickOobVal.toNat
  else if a / 8 = 0x418 / 8 then half a x.pickRange.toNat
  else if a = 0x440 then b2n x.att.isSome + 2 * b2n x.attMiss + 4 * b2n x.attPinned
  else if a / 8 = 0x448 / 8 then half a (x.attMissSeq.toNat + 2 ^ 24 * x.attMissPlane.toNat + 2 ^ 36 * x.attMissPos.toNat + 2 ^ 57 * x.attMissCause.toNat +
    2 ^ 59 * b2n x.attMissAppend)
  else if a / 8 = 0x450 / 8 then half a x.attEpoch.toNat
  else if a / 8 = 0x460 / 8 then half a ((match x.upd with
    | some j => 1 + 2 * j.pass + 8 * j.mode
    | none => 0) + 2 ^ 8 * b2n (!x.updLate.isEmpty) + 2 ^ 9 * b2n x.updCause + 2 ^ 16 * x.spills.length + 2 ^ 32 * x.spillCap.toNat)
  else if a / 8 = 0x468 / 8 then half a (x.updEntry.toNat + 2 ^ 32 * x.updFlags.toNat)
  else if a / 8 = 0x480 / 8 then half a (x.tierFault.va.toNat + 2 ^ 52 * x.tierFault.kind.toNat + 2 ^ 63 * b2n x.tierFault.valid)
  else s.counterReg fn l a

/-- The loom and block offset of an offset in a cluster block. -/
def loomAt (c a : Nat) : Option (Nat × Nat) := (inArr a 0x10000 0x2000 12).map (fun e => (12 * c + e.1, e.2))

/-- Cluster blocks (R477): the CLU registers stay readable, the looms of a dead cluster read zero. -/
def Dev.cluReg (s : Dev) (fn c a : Nat) : Nat :=
  if a = 0 then
    (s.clusterStall c).getD 0 + 2 ^ 7 * b2n (s.clusterStall c).isSome + 2 ^ 8 * fwStateCode s (16 + c) +
      2 ^ 10 * b2n ((List.range 12).all (fun i => (s.loom (12 * c + i)).frozen)) + 2 ^ 11 * b2n (s.dead c)
  else if a = 8 then (tget [] s.hub.cluHeld c).length
  else if a = 12 then (tget 0 s.hub.cluLost c).toNat
  else match loomAt c a with
  | some (l, b) => if s.dead c then 0 else s.loomReg fn l b
  | none => 0

/-- The dword that a function reads at an offset of its BAR0 (R445, R447, R473 to R479). -/
def State.bar0Dword (s : State) (fn o : Nat) : Nat :=
  if !s.sees fn o false then 0
  else if o < 0x30000 then s.hubReg fn o
  else if o < 0x60000 then s.schReg o
  else if o < 0x80000 then s.pwrReg o
  else if o < 0x100000 then s.hubReg fn o
  else if o < 0x200000 then s.mtrReg (o - 0x100000)
  else if o < 0x300000 then s.lnkReg fn o
  else if o < 0x1000000 then s.tierReg fn o
  else match inArr o 0x1000000 0x40000 96 with
  | some (c, a) => s.cluReg fn c a
  | none => 0

/-- A well-formed BAR0 read of 4 or 8 bytes (R445). -/
def State.bar0Read (s : State) (fn o : Nat) (eight : Bool) : Nat :=
  s.bar0Dword fn o + (if eight then 2 ^ 32 * s.bar0Dword fn (o + 4) else 0)

/-! ### Writes -/

/-- The state that an outcome leaves, or the one before. -/
def nextOr (s : State) : Host.Outcome State Fault Refusal → State
  | .next t => t
  | _ => s

/-- Number `n` of an array, as a Fin. -/
def toFin (n i : Nat) [NeZero n] : Fin n := Fin.ofNat n i

/-- A vector's entry is written; a pending vector that nothing masks any more is sent (R457). -/
def Dev.msixPut (s : Dev) (fn v : Nat) (f : MsixEntry → MsixEntry) : Dev :=
  let s1 := s.modFn fn (fun x => { x with msix := tmod {} x.msix v f })
  let x := s1.fn fn
  if x.pba.contains v && x.msixEnable && !x.msixMask && !(tget {} x.msix v).masked then
    (s1.modFn fn (fun x => { x with pba := x.pba.filter (· != v) })).msix fn v
  else s1

/-- A dword written to a loom block. -/
def State.loomWrite (s : State) (fn : FnId) (l a v : Nat) : State :=
  if a = 4 then (if fn.val = 0 then s.modDev (fun d => d.modLoom l (fun x => { x with excOwner := bit v 0, excIrqEn := bit v 1 })) else s)
  else if a = 0x18 then (if bit v 8 then nextOr s (execExcClear fn (toFin 1152 l) (BitVec.ofNat 8 v) s) else s)
  else if a = 0x400 then (if bit v 1 then nextOr s (execPickOobClear fn (toFin 1152 l) s) else s)
  else if a = 0x440 then (if bit v 1 then nextOr s (execAttMissClear fn (toFin 1152 l) s) else s)
  else if a = 0x484 then (if bit v 31 then nextOr s (execTierFaultClear fn (toFin 1152 l) s) else s)
  else s

/-- A dword written to a plan block. -/
def State.planWrite (s : State) (fn : FnId) (t : PlanTarget) (a v : Nat) : State :=
  if a = 0 then
    (match t with
     | .device => if v % 4 = 1 then nextOr s (execDplanLoad s) else if v % 4 = 2 then nextOr s (execDplanUnload s) else s
     | .stall k => if v % 4 = 1 then nextOr s (execPlanLoad fn k s) else if v % 4 = 2 then nextOr s (execPlanUnload fn k s) else s)
  else if a = 4 then s.modDev (fun d => d.modBlk t (fun b => { b with len := BitVec.ofNat 27 v }))
  else if a = 8 then s.modDev (fun d => d.modBlk t (fun b => { b with cmdLost := b.cmdLost && !bit v 3, stageLost := b.stageLost && !bit v 4 }))
  else s

/-- A dword written to the quire block of a stall; `hi` is the upper half of an 8-byte access. RECONSTRUCT, whose data comes
from other members, is its own command. -/
def State.quireWrite (s : State) (fn : FnId) (k : StallId) (a v hi : Nat) : State :=
  if a / 8 = 0 then s.modDev (fun d => d.modQuire k.val (fun q => { q with table := BitVec.ofNat 52 (putHalf a q.table.toNat v) }))
  else if a = 8 then
    (match v % 8 with
     | 1 => nextOr s (execQuirePrepare fn k (BitVec.ofNat 32 hi) s)
     | 2 => nextOr s (execQuireCommit fn k s)
     | 3 => nextOr s (execQuireAbort fn k s)
     | 4 => nextOr s (execQuireRestore fn k s)
     | _ => s)
  else if a = 16 then s.modDev (fun d => d.modQuire k.val (fun q => { q with refused := q.refused && !bit v 3 }))
  else s

/-- Registers that every function reaches, or its own copy or block of. -/
def State.sharedWrite (s : State) (fn : FnId) (o v hi : Nat) : State :=
  if o = 8 then nextOr s (execAccErrClear fn (BitVec.ofNat 3 v) s)
  else match inArr o 0x30200 4 96 with
  | some (k, _) => if bit v 0 then nextOr s (execTallyRequestStall (toFin 96 k) s) else s
  | none => match inArr o 0x32000 0x40 96 with
  | some (k, a) => s.planWrite fn (.stall (toFin 96 k)) a v
  | none => match inArr o 0x34000 0x200 96 with
  | some (k, a) =>
    let dom := a / 0x20
    if a % 0x20 = 4 then nextOr s (execPgePublish fn (toFin 96 k) (toFin 16 dom) (BitVec.ofNat 32 v) s)
    else if a % 0x20 = 12 then s.modDev (fun d => d.modStall k (fun x => { x with epochs := tmod {} x.epochs dom (fun e => { e with refused := e.refused && !bit v 0 }) }))
    else s
  | none => match inArr o 0x80000 16 (vecCount fn.val) with
  | some (n, a) => s.modDev (fun d => d.msixPut fn.val n (fun e =>
      if a = 0 ∨ a = 4 then { e with addr := BitVec.ofNat 64 (putHalf a e.addr.toNat v) }
      else if a = 8 then { e with data := BitVec.ofNat 32 v } else { e with masked := bit v 0 }))
  | none =>
  if o / 8 = 0x90000 / 8 then s.modDev (fun d => d.modFn fn.val (fun f =>
    let w := putHalf o (2 ^ 26 * f.winBase.toNat + 2 ^ 52 * f.winStall.toNat) v
    { f with winBase := BitVec.ofNat 26 (w / 2 ^ 26), winStall := if fn.val = 0 then BitVec.ofNat 7 (w / 2 ^ 52) else f.winStall }))
  else match inArr o 0x91000 0x10 96 with
  | some (k, a) => if a = 4 then s.modDev (fun d => d.modStall k (fun x => { x with hopFull := x.hopFull && !bit v 0 })) else s
  | none => match inArr o 0x2C0000 0x200 96 with
  | some (k, a) => if a = 0 ∧ bits v 13 12 = 1 then nextOr s (execRosterRewrite fn (toFin 96 k) (BitVec.ofNat 12 v) s) else s
  | none => match inArr o 0x380000 0x100 96 with
  | some (k, a) => if a = 12 ∧ bit v 31 then nextOr s (execHostfClear fn (toFin 96 k) s) else s
  | none => match inArr o 0x410000 0x100 96 with
  | some (k, a) => s.quireWrite fn (toFin 96 k) a v hi
  | none => match inArr o 0x1000000 0x40000 96 with
  | some (c, a) => (match loomAt c a with
    | some (l, b) => if s.dead c then s else s.loomWrite fn l b v
    | none => s)
  | none => s

/-- Registers that only the physical function reaches. -/
def State.pfWrite (s : State) (fn : FnId) (o v hi : Nat) : State :=
  if o / 8 = 2 then s.modDev (fun d => d.modHub (fun h => { h with hostTime := BitVec.ofNat 64 (putHalf o h.hostTime.toNat v), hostTimeSet := true }))
  else if o = 0x30000 then
    let s1 := if bit v 0 then nextOr s (execTallyRequestPf s) else s
    s1.modDev (fun d => d.modTally (fun t => { t with enable := bit v 1 }))
  else if o = 0x30010 then s.modDev (fun d => d.modTally (fun t => { t with gap := BitVec.ofNat 24 v }))
  else if o = 0x30014 then s.modDev (fun d => d.modTally (fun t => { t with timeout := BitVec.ofNat 24 v }))
  else if 0x31000 ≤ o ∧ o < 0x31040 then s.planWrite fn .device (o - 0x31000) v
  else if o = 0x60008 then
    let s1 := s.modDev (fun d => d.modPower (fun w => { w with vset := BitVec.ofNat 10 v, stay := bit v 10 }))
    if bit v 11 then nextOr s1 (execColdReset fn s1) else s1
  else if o = 0x60010 then s.modDev (fun d => d.modPower (fun w => { w with pcap := BitVec.ofNat 12 v, tlim := BitVec.ofNat 7 (v / 2 ^ 12) }))
  else if o = 0x70200 then
    let s1 := s.modDev (fun d => d.modFw (fun f => { f with actImage := BitVec.ofNat 3 v }))
    if bit v 3 then nextOr s1 (execFwActivate fn (BitVec.ofNat 3 v) s1) else s1
  else if o / 8 = 0x70208 / 8 then s.modDev (fun d => d.modFw (fun f => { f with cdumpSel := BitVec.ofNat 64 (putHalf o f.cdumpSel.toNat v) }))
  else if o = 0xA0020 then (if bit v 13 then s.modDev (fun d => d.secSubmit (tgetRange 0 s.sec.window 0 (v % 8192))) else s)
  else if 0xA2000 ≤ o ∧ o < 0xA4000 then s.modDev (fun d => d.modSec (fun x => { x with window := tsetRange 0 x.window (o - 0xA2000) (natLe 4 v) }))
  else if o / 8 = 0xB0000 / 8 then s.modDev (fun d => d.modHub (fun h => { h with logSel := BitVec.ofNat 64 (putHalf o h.logSel.toNat v) }))
  else if o = 0x100100 then (if bit v 13 then s.mbxGo 0 (v % 8192) else s)
  else if 0x102000 ≤ o ∧ o < 0x103000 then
    s.modMeter (fun m => { m with mbx0 := { m.mbx0 with window := tsetRange 0 m.mbx0.window (o - 0x102000) (natLe 4 v) } })
  else match inArr o 0x60100 4 96 with
  | some (k, _) => s.modDev (fun d => d.modPower (fun w => { w with vmax := tset 900 w.vmax k (BitVec.ofNat 10 v) }))
  | none => match inArr o 0x300000 0x4000 24 with
  | some (i, a) => if a = 12 ∧ bit v 31 then nextOr s (execStcUeClear fn (toFin 24 i) s) else s
  | none => s.sharedWrite fn o v hi

/-- A dword written at an offset: outside a virtual function's view it is discarded and latched (R447). -/
def State.dwordWrite (s : State) (fn : FnId) (o v hi : Nat) : State :=
  if fn.val = 0 then s.pfWrite fn o v hi
  else if s.vfSees (fn.val - 1) o true then s.sharedWrite fn o v hi
  else s.modDev (fun d => d.latchAcc fn.val 0 2 o)

/-- The commands that wait for the function's earlier BAR4 writes (R450). -/
def isCommand (o : Nat) : Bool :=
  o == 0x31000 || o == 0x100100 || o == 0xA0020 ||
  (match inArr o 0x32000 0x40 96 with
   | some (_, a) => a == 0
   | none => false) ||
  (match inArr o 0x34000 0x200 96 with
   | some (_, a) => a % 0x20 == 4
   | none => false) ||
  (match inArr o 0x2C0000 0x200 96 with
   | some (_, a) => a == 0
   | none => false) ||
  (match inArr o 0x410000 0x100 96 with
   | some (_, a) => a == 8
   | none => false)

/-- REGISTER_WRITE (R7, R445): a BAR0 write of 4 or 8 bytes. Of an 8-byte write that reaches two registers the upper one is
written first. -/
def execRegisterWrite (fn : FnId) (off : BitVec 26) (eight : Bool) (v : W64) (s : State) : Host.Outcome State Fault Refusal :=
  let o := off.toNat
  let lo := v.toNat % 2 ^ 32
  let hi := v.toNat / 2 ^ 32
  if o % (if eight then 8 else 4) ≠ 0 then s.onDev (fun d => d.host (d.latchAcc fn.val 0 1 o))
  else if ((s.sees fn.val o true && isCommand o) || (eight && s.sees fn.val (o + 4) true && isCommand (o + 4))) && !(s.fn fn.val).wbuf.isEmpty then .next s
  else .next (if !s.hub.linkUp then s else if eight then (s.dwordWrite fn (o + 4) hi 0).dwordWrite fn o lo hi else s.dwordWrite fn o lo 0)

end Sys2Proof.Machine
end

