-- ==== Sys2Proof/Machine/Dispatch.lean ====
section
/-!
DEFINITION. One arm per command: its meaning, or a refusal by name.
-/
namespace Sys2Proof.Machine

def exec (i : Instr) (s : State) : Host.Outcome State Fault Refusal :=
  match i with
  | .registerWrite fn off eight v => Sys2Proof.Machine.execRegisterWrite fn off eight v s
  | .bar0AccessError fn bar write off size => Sys2Proof.Machine.execBar0AccessError fn bar write off size s
  | .accErrClear fn mask => Sys2Proof.Machine.execAccErrClear fn mask s
  | .tallyRequestPf => Sys2Proof.Machine.execTallyRequestPf s
  | .tallyRequestStall st => Sys2Proof.Machine.execTallyRequestStall st s
  | .tallyInject us => Sys2Proof.Machine.execTallyInject us s
  | .tallyMarkerAccept u inp => Sys2Proof.Machine.execTallyMarkerAccept u inp s
  | .tallyReport u => Sys2Proof.Machine.execTallyReport u s
  | .tallyAbandon us => Sys2Proof.Machine.execTallyAbandon us s
  | .weftBeatAccept l takes => Sys2Proof.Machine.execWeftBeatAccept l takes s
  | .beatRetire l => Sys2Proof.Machine.execBeatRetire l s
  | .feederFill l q ecc => Sys2Proof.Machine.execFeederFill l q ecc s
  | .warpShadowSwap l r q => Sys2Proof.Machine.execWarpShadowSwap l r q s
  | .collectResult l r => Sys2Proof.Machine.execCollectResult l r s
  | .convertTile l => Sys2Proof.Machine.execConvertTile l s
  | .slotClaim l port slot readers tag => Sys2Proof.Machine.execSlotClaim l port slot readers tag s
  | .quarterFill l slot q data => Sys2Proof.Machine.execQuarterFill l slot q data s
  | .tileReadComplete l port slot ecc => Sys2Proof.Machine.execTileReadComplete l port slot ecc s
  | .benchCeWriteback l => Sys2Proof.Machine.execBenchCeWriteback l s
  | .excClear fn l seq => Sys2Proof.Machine.execExcClear fn l seq s
  | .cccExcService l => Sys2Proof.Machine.execCccExcService l s
  | .runDispatch st hop => Sys2Proof.Machine.execRunDispatch st hop s
  | .runComplete st n => Sys2Proof.Machine.execRunComplete st n s
  | .completionPost st n => Sys2Proof.Machine.execCompletionPost st n s
  | .loopOpen l => Sys2Proof.Machine.execLoopOpen l s
  | .loopClose l => Sys2Proof.Machine.execLoopClose l s
  | .endRun l => Sys2Proof.Machine.execEndRun l s
  | .mm l => Sys2Proof.Machine.execMm l s
  | .fulCopy l => Sys2Proof.Machine.execFulCopy l s
  | .fulScale l => Sys2Proof.Machine.execFulScale l s
  | .fulBias l => Sys2Proof.Machine.execFulBias l s
  | .fulRelu l => Sys2Proof.Machine.execFulRelu l s
  | .fulGelu l => Sys2Proof.Machine.execFulGelu l s
  | .fulSilu l => Sys2Proof.Machine.execFulSilu l s
  | .fulSigmoid l => Sys2Proof.Machine.execFulSigmoid l s
  | .fulTanh l => Sys2Proof.Machine.execFulTanh l s
  | .fulExp l => Sys2Proof.Machine.execFulExp l s
  | .fulSoftmax l => Sys2Proof.Machine.execFulSoftmax l s
  | .fulRmsnorm l => Sys2Proof.Machine.execFulRmsnorm l s
  | .fulLayernorm l => Sys2Proof.Machine.execFulLayernorm l s
  | .fulMul l => Sys2Proof.Machine.execFulMul l s
  | .fulAdd l => Sys2Proof.Machine.execFulAdd l s
  | .fulRsum l => Sys2Proof.Machine.execFulRsum l s
  | .fulRmax l => Sys2Proof.Machine.execFulRmax l s
  | .fulRssq l => Sys2Proof.Machine.execFulRssq l s
  | .fulCsum l => Sys2Proof.Machine.execFulCsum l s
  | .fulCmax l => Sys2Proof.Machine.execFulCmax l s
  | .fulDropout l => Sys2Proof.Machine.execFulDropout l s
  | .fulGlu l => Sys2Proof.Machine.execFulGlu l s
  | .fulTranspose l => Sys2Proof.Machine.execFulTranspose l s
  | .cast l => Sys2Proof.Machine.execCast l s
  | .upd l => Sys2Proof.Machine.execUpd l s
  | .updApply l => Sys2Proof.Machine.execUpdApply l s
  | .updMeasure l => Sys2Proof.Machine.execUpdMeasure l s
  | .updFetch l => Sys2Proof.Machine.execUpdFetch l s
  | .spillRefill l slot => Sys2Proof.Machine.execSpillRefill l slot s
  | .att l => Sys2Proof.Machine.execAtt l s
  | .pickGather l => Sys2Proof.Machine.execPickGather l s
  | .pickScatterAdd l => Sys2Proof.Machine.execPickScatterAdd l s
  | .pickSegmentReduce l => Sys2Proof.Machine.execPickSegmentReduce l s
  | .pickDeduplicate l => Sys2Proof.Machine.execPickDeduplicate l s
  | .pickPageWalk l => Sys2Proof.Machine.execPickPageWalk l s
  | .pickLineArrive l k => Sys2Proof.Machine.execPickLineArrive l k s
  | .pickOobClear fn l => Sys2Proof.Machine.execPickOobClear fn l s
  | .lineReduce l va red fp16 contrib => Sys2Proof.Machine.execLineReduce l va red fp16 contrib s
  | .linePartialWrite l va data => Sys2Proof.Machine.execLinePartialWrite l va data s
  | .apx l => Sys2Proof.Machine.execApx l s
  | .apxCombine l => Sys2Proof.Machine.execApxCombine l s
  | .xferSend l => Sys2Proof.Machine.execXferSend l s
  | .xferRecv l => Sys2Proof.Machine.execXferRecv l s
  | .xferAllReduce l => Sys2Proof.Machine.execXferAllReduce l s
  | .xferReduceScatter l => Sys2Proof.Machine.execXferReduceScatter l s
  | .xferAllGather l => Sys2Proof.Machine.execXferAllGather l s
  | .xferBroadcast l => Sys2Proof.Machine.execXferBroadcast l s
  | .xferAllToAll l => Sys2Proof.Machine.execXferAllToAll l s
  | .tierFollow l => Sys2Proof.Machine.execTierFollow l s
  | .tierFetch l => Sys2Proof.Machine.execTierFetch l s
  | .tierWriteBack l => Sys2Proof.Machine.execTierWriteBack l s
  | .tierMigrate l => Sys2Proof.Machine.execTierMigrate l s
  | .routeEntryStart l => Sys2Proof.Machine.execRouteEntryStart l s
  | .routeEntryComplete l => Sys2Proof.Machine.execRouteEntryComplete l s
  | .slotRequest l port rcv rport => Sys2Proof.Machine.execSlotRequest l port rcv rport s
  | .slotGrant l slot => Sys2Proof.Machine.execSlotGrant l slot s
  | .tileSend l port => Sys2Proof.Machine.execTileSend l port s
  | .tileArrive snd port rcv rport => Sys2Proof.Machine.execTileArrive snd port rcv rport s
  | .tileAck src => Sys2Proof.Machine.execTileAck src s
  | .planLoad fn st => Sys2Proof.Machine.execPlanLoad fn st s
  | .planUnload fn st => Sys2Proof.Machine.execPlanUnload fn st s
  | .dplanLoad => Sys2Proof.Machine.execDplanLoad s
  | .dplanUnload => Sys2Proof.Machine.execDplanUnload s
  | .planVerify tgt => Sys2Proof.Machine.execPlanVerify tgt s
  | .planPlace tgt => Sys2Proof.Machine.execPlanPlace tgt s
  | .planRegions st => Sys2Proof.Machine.execPlanRegions st s
  | .capacityZeroComplete st => Sys2Proof.Machine.execCapacityZeroComplete st s
  | .pgePublish fn st dom v => Sys2Proof.Machine.execPgePublish fn st dom v s
  | .attMissClear fn l => Sys2Proof.Machine.execAttMissClear fn l s
  | .bar4Write fn off data => Sys2Proof.Machine.execBar4Write fn off data s
  | .bar4Read fn off n => Sys2Proof.Machine.execBar4Read fn off n s
  | .bar4ReadTimeout fn off n us => Sys2Proof.Machine.execBar4ReadTimeout fn off n us s
  | .hostfClear fn st => Sys2Proof.Machine.execHostfClear fn st s
  | .tierFaultClear fn l => Sys2Proof.Machine.execTierFaultClear fn l s
  | .stcUeClear fn st => Sys2Proof.Machine.execStcUeClear fn st s
  | .regulatorServe u => Sys2Proof.Machine.execRegulatorServe u s
  | .storeLineAccess l va data ecc => Sys2Proof.Machine.execStoreLineAccess l va data ecc s
  | .shelfAccess l va hint data ecc => Sys2Proof.Machine.execShelfAccess l va hint data ecc s
  | .scrubLine st ecc odecc => Sys2Proof.Machine.execScrubLine st ecc odecc s
  | .frameRelocate st region block => Sys2Proof.Machine.execFrameRelocate st region block s
  | .stackOut st => Sys2Proof.Machine.execStackOut st s
  | .callupGranule st region block => Sys2Proof.Machine.execCallupGranule st region block s
  | .granuleWriteback st region block g => Sys2Proof.Machine.execGranuleWriteback st region block g s
  | .granulePutDown st region block g => Sys2Proof.Machine.execGranulePutDown st region block g s
  | .cellarPortFail p => Sys2Proof.Machine.execCellarPortFail p s
  | .cellarPortRestore p => Sys2Proof.Machine.execCellarPortRestore p s
  | .stallFault st c => Sys2Proof.Machine.execStallFault st c s
  | .weightWithdraw st u => Sys2Proof.Machine.execWeightWithdraw st u s
  | .faultNotify st => Sys2Proof.Machine.execFaultNotify st s
  | .fwWatchdogExpire p us d => Sys2Proof.Machine.execFwWatchdogExpire p us d s
  | .fwTrap p us d => Sys2Proof.Machine.execFwTrap p us d s
  | .fwRestartComplete p => Sys2Proof.Machine.execFwRestartComplete p s
  | .crashDumpCopy => Sys2Proof.Machine.execCrashDumpCopy s
  | .cdumpSelect fn seq => Sys2Proof.Machine.execCdumpSelect fn seq s
  | .fwActivate fn image => Sys2Proof.Machine.execFwActivate fn image s
  | .fwHandoverReady p us body failed => Sys2Proof.Machine.execFwHandoverReady p us body failed s
  | .fwCommit => Sys2Proof.Machine.execFwCommit s
  | .junctionTrip t => Sys2Proof.Machine.execJunctionTrip t s
  | .inputOvercurrent ma us => Sys2Proof.Machine.execInputOvercurrent ma us s
  | .limiterRelease ma ms => Sys2Proof.Machine.execLimiterRelease ma ms s
  | .inputShort ma us => Sys2Proof.Machine.execInputShort ma us s
  | .inputUndervoltage mv us => Sys2Proof.Machine.execInputUndervoltage mv us s
  | .inputOvervoltage mv us => Sys2Proof.Machine.execInputOvervoltage mv us s
  | .inputLoss mv => Sys2Proof.Machine.execInputLoss mv s
  | .vinPrsntBreak => Sys2Proof.Machine.execVinPrsntBreak s
  | .regulationLoss d => Sys2Proof.Machine.execRegulationLoss d s
  | .regulationTimeout d us => Sys2Proof.Machine.execRegulationTimeout d us s
  | .coldReset fn => Sys2Proof.Machine.execColdReset fn s
  | .powerUpStart mv => Sys2Proof.Machine.execPowerUpStart mv s
  | .standbyRelease mv ms => Sys2Proof.Machine.execStandbyRelease mv ms s
  | .bootVerify p => Sys2Proof.Machine.execBootVerify p s
  | .rampStart mv cal => Sys2Proof.Machine.execRampStart mv cal s
  | .domainRamp ms => Sys2Proof.Machine.execDomainRamp ms s
  | .phyTraining stks ports cap => Sys2Proof.Machine.execPhyTraining stks ports cap s
  | .runReached => Sys2Proof.Machine.execRunReached s
  | .powerLoopPeriod mw mv clus dies => Sys2Proof.Machine.execPowerLoopPeriod mw mv clus dies s
  | .thermalModelPopulated c ms => Sys2Proof.Machine.execThermalModelPopulated c ms s
  | .emergencySet e => Sys2Proof.Machine.execEmergencySet e s
  | .emergencyClear e ms => Sys2Proof.Machine.execEmergencyClear e ms s
  | .nvInhibitStart mv sb => Sys2Proof.Machine.execNvInhibitStart mv sb s
  | .nvInhibitRelease mv sb ms => Sys2Proof.Machine.execNvInhibitRelease mv sb ms s
  | .nvEarlyWarning mv sb => Sys2Proof.Machine.execNvEarlyWarning mv sb s
  | .nvWriteComplete sb => Sys2Proof.Machine.execNvWriteComplete sb s
  | .hopperDoorbell fn h v => Sys2Proof.Machine.execHopperDoorbell fn h v s
  | .hopperPop fn h => Sys2Proof.Machine.execHopperPop fn h s
  | .hopperCountRead fn h => Sys2Proof.Machine.execHopperCountRead fn h s
  | .functionLevelReset fn => Sys2Proof.Machine.execFunctionLevelReset fn s
  | .hotReset => Sys2Proof.Machine.execHotReset s
  | .logSelect fn seq => Sys2Proof.Machine.execLogSelect fn seq s
  | .eventLogWrite us => Sys2Proof.Machine.execEventLogWrite us s
  | .sensorRefresh ms v => Sys2Proof.Machine.execSensorRefresh ms v s
  | .mctpControl b m => Sys2Proof.Machine.execMctpControl b m s
  | .setNumericEffecter b v => Sys2Proof.Machine.execSetNumericEffecter b v s
  | .logRead b seq => Sys2Proof.Machine.execLogRead b seq s
  | .meter b cmd => Sys2Proof.Machine.execMeter b cmd s
  | .mctpColdReset b => Sys2Proof.Machine.execMctpColdReset b s
  | .updateComponent b image data => Sys2Proof.Machine.execUpdateComponent b image data s
  | .verifyComplete b image => Sys2Proof.Machine.execVerifyComplete b image s
  | .activateFirmware b => Sys2Proof.Machine.execActivateFirmware b s
  | .getStatus b => Sys2Proof.Machine.execGetStatus b s
  | .presentOperator cmd => Sys2Proof.Machine.execPresentOperator cmd s
  | .fuseOperator cmd => Sys2Proof.Machine.execFuseOperator cmd s
  | .enrollStall cmd => Sys2Proof.Machine.execEnrollStall cmd s
  | .removeStall cmd => Sys2Proof.Machine.execRemoveStall cmd s
  | .raiseFloor cmd => Sys2Proof.Machine.execRaiseFloor cmd s
  | .testUnlock cmd => Sys2Proof.Machine.execTestUnlock cmd s
  | .getVersion b req => Sys2Proof.Machine.execGetVersion b req s
  | .getCapabilities b req => Sys2Proof.Machine.execGetCapabilities b req s
  | .negotiateAlgorithms b req => Sys2Proof.Machine.execNegotiateAlgorithms b req s
  | .getDigests b req => Sys2Proof.Machine.execGetDigests b req s
  | .getCertificate b req slot off len => Sys2Proof.Machine.execGetCertificate b req slot off len s
  | .challenge b req slot => Sys2Proof.Machine.execChallenge b req slot s
  | .getMeasurements b req idx => Sys2Proof.Machine.execGetMeasurements b req idx s
  | .chunkGet b off len => Sys2Proof.Machine.execChunkGet b off len s
  | .linkFrameRx n rx bytes => Sys2Proof.Machine.execLinkFrameRx n rx bytes s
  | .linkArbitrate n => Sys2Proof.Machine.execLinkArbitrate n s
  | .laneLockLoss n => Sys2Proof.Machine.execLaneLockLoss n s
  | .linkRetrain ms => Sys2Proof.Machine.execLinkRetrain ms s
  | .linkTrainingTimeout n ms => Sys2Proof.Machine.execLinkTrainingTimeout n ms s
  | .linkUp n => Sys2Proof.Machine.execLinkUp n s
  | .req => Sys2Proof.Machine.execReq s
  | .grant => Sys2Proof.Machine.execGrant s
  | .wait => Sys2Proof.Machine.execWait s
  | .stale => Sys2Proof.Machine.execStale s
  | .absent => Sys2Proof.Machine.execAbsent s
  | .rosterRewrite fn st group => Sys2Proof.Machine.execRosterRewrite fn st group s
  | .rosterRewriteDone st => Sys2Proof.Machine.execRosterRewriteDone st s
  | .quirePrepare fn st epoch => Sys2Proof.Machine.execQuirePrepare fn st epoch s
  | .quireStage st rank deltas => Sys2Proof.Machine.execQuireStage st rank deltas s
  | .quirePrepared st => Sys2Proof.Machine.execQuirePrepared st s
  | .quireCommit fn st => Sys2Proof.Machine.execQuireCommit fn st s
  | .quireCommitComplete st => Sys2Proof.Machine.execQuireCommitComplete st s
  | .quireAbort fn st => Sys2Proof.Machine.execQuireAbort fn st s
  | .quireRestore fn st => Sys2Proof.Machine.execQuireRestore fn st s
  | .quireReconstruct fn st rank epoch from_ => Sys2Proof.Machine.execQuireReconstruct fn st rank epoch from_ s
  | .quireResumeCommit st => Sys2Proof.Machine.execQuireResumeCommit st s
  | .meterPoll mv => Sys2Proof.Machine.execMeterPoll mv s
  | .senseReply src poll good charges us => Sys2Proof.Machine.execSenseReply src poll good charges us s
  | .meterMap => Sys2Proof.Machine.execMeterMap s
  | .testPulse => Sys2Proof.Machine.execTestPulse s
  | .close => Sys2Proof.Machine.execClose s
  | .meterRecordCommit => Sys2Proof.Machine.execMeterRecordCommit s
  | .ack => Sys2Proof.Machine.execAck s
  | .enroll => Sys2Proof.Machine.execEnroll s
  | .revoke => Sys2Proof.Machine.execRevoke s
  | .verified => Sys2Proof.Machine.execVerified s
  | .read => Sys2Proof.Machine.execRead s
  | .getCert => Sys2Proof.Machine.execGetCert s
  | .meterStateWrite mv sb ends => Sys2Proof.Machine.execMeterStateWrite mv sb ends s
  | .meterInhibitStart mv sb => Sys2Proof.Machine.execMeterInhibitStart mv sb s
  | .meterInhibitRelease mv sb ms => Sys2Proof.Machine.execMeterInhibitRelease mv sb ms s
  | .meterPowerUp trace => Sys2Proof.Machine.execMeterPowerUp trace s
  | .sealBreak broken => Sys2Proof.Machine.execSealBreak broken s
  | .meterFwLoad image sig => Sys2Proof.Machine.execMeterFwLoad image sig s
  | .cartRemove => Sys2Proof.Machine.execCartRemove s
  | .frontEndSample ma mv => Sys2Proof.Machine.execFrontEndSample ma mv s
  | .meterProcessorRestart => Sys2Proof.Machine.execMeterProcessorRestart s
  | .hostLinkDown => Sys2Proof.Machine.execHostLinkDown s
  | .hostLinkReturn vf msix => Sys2Proof.Machine.execHostLinkReturn vf msix s
  | .verificationKeyEnrol key => Sys2Proof.Machine.execVerificationKeyEnrol key s
  | .tapInstruction n => Sys2Proof.Machine.execTapInstruction n s

end Sys2Proof.Machine
end

