-- ==== Sys2Proof/Safety.lean ====
section
/-!
DEFINITION. What a safe run is, and the invariant that steps keep.
-/
namespace Sys2Proof.Machine

/-- The command runs: it answers a next state in which the module stands as `d`, the meter and the queue as before. -/
def Runs (c : Instr) (s : State) (d : Dev) : Prop := exec c s = .next { s with toDev := d }

/-- The command runs on the meter: it answers a next state in which the meter stands as `m`, the module as `d`, the queue as
before. -/
def RunsMeter (c : Instr) (s : State) (d : Dev) (m : MeterSt) : Prop := exec c s = .next { s with toDev := d, meter := m }

/-- `d` is `s` but for looms, counters, free draws and messages. -/
def Dev.loomsOnly (s d : Dev) : Prop := d = { s with looms := d.looms, units := d.units, freeCtr := d.freeCtr, out := d.out }

/-- Every loom but one stands as it stood. -/
def Dev.otherLooms (s d : Dev) (l : Nat) : Prop := ∀ i, i ≠ l → d.loom i = s.loom i

/-- The loom's word at its pc is of opcode `o` and can issue, in its context. -/
def Dev.issues (s : Dev) (l o : Nat) (c : Ctx) (w : Nat) : Prop := s.ctx l = some c ∧ (s.loom l).word = some w ∧ opc w = o

/-- The slot holds an output tile: its bytes, its selvedge, and it can be read. -/
def LoomSt.holds (x : LoomSt) (i stall : Nat) (o : OutTile) : Prop :=
  benchBytes x (8192 * i) o.data.length = o.data ∧ (x.slot i).tag = o.tag stall ∧ readable x i = true

/-- The slots that tiles which wait to be written go to. -/
def Ctx.pendSlots (c : Ctx) (os : List PendTile) : List Nat := os.map fun o => match c.st.desc o.t with
  | some d => ringSlot d o.coord
  | none => 0

/-- Every waiting tile can be written now by the port: it has its descriptor and no more than a slot's bytes, and the slots are
distinct and can be claimed. -/
def LoomSt.canTake (x : LoomSt) (c : Ctx) (port : Nat) (os : List PendTile) : Prop :=
  (∀ o ∈ os, (c.st.desc o.t).isSome = true ∧ o.tile.data.length ≤ 8192) ∧ (c.pendSlots os).Nodup ∧ wrSlots x port (c.pendSlots os) = .ready

/-- The first of the waiting tiles must still wait for its slot. -/
def LoomSt.mustWait (x : LoomSt) (c : Ctx) (port : Nat) (os : List PendTile) : Prop :=
  ∃ o rest d, os = o :: rest ∧ c.st.desc o.t = some d ∧ wrSlot x port (ringSlot d o.coord) = .wait

/-- The tiles stand in their slots. -/
def LoomSt.took (x : LoomSt) (c : Ctx) (os : List PendTile) : Prop :=
  ∀ o ∈ os, ∀ d, c.st.desc o.t = some d → benchBytes x (8192 * ringSlot d o.coord) o.tile.data.length = o.tile.data ∧
    (x.slot (ringSlot d o.coord)).tag = o.tile.tag ∧ readable x (ringSlot d o.coord) = true

/-- The word at the loom's pc, if it can issue, is of another opcode than `o`, or the array has one waiting: an array operation
that goes on issues nothing beside it (R135). -/
def LoomSt.noArrIssue (x : LoomSt) (o : Nat) : Prop := x.arrNext ≠ none ∨ ∀ w, x.word = some w → opc w ≠ o

/-- The same of the picker and PICK's function `fn`. -/
def LoomSt.noPickIssue (x : LoomSt) (fn : Nat) : Prop := x.pickNext ≠ none ∨ ∀ w, x.word = some w → ¬(opc w = 0x60 ∧ pickFN w = fn)

/-- A run of `n` steps from `s` that does not stop. -/
def SafeRun (n : Nat) (s : State) : Prop := ∃ t, core.run n s = .next t

/-- The tiers' bytes stand in their canonical form: keys rise strictly, and no listed byte is 0, which an unlisted byte reads. -/
def Memory.wf (m : MemSt) : Bool := twf 0 m.store && twf 0 m.cellar

/-- The meter's working values keep R402's two key slots, and R409's rule that a record is overwritten only once it has been
acknowledged: of the 96 places, none holds an unacknowledged record that a newer one displaced. -/
def MtrWork.ok (w : MtrWork) : Bool := decide (w.acked ≤ w.seq) && decide (w.seq ≤ w.acked + 96) && w.authKeys.length == 2

/-- Every stored record lies at the place that its sequence number gives it (R409). -/
def MeterSt.placed (m : MeterSt) : Bool := m.records.all (fun e => match e.2 with
  | some r => e.1 == r.1 % 96
  | none => false)

/-- The meter's invariant: the working values and both state banks are in order; records lie at their places; a CLOSE under way
has the eight free places that R403 asked for; and while the trace of a serving meter is broken, SEAL_BROKEN is set (R416). -/
def MeterSt.ok (m : MeterSt) : Bool :=
  m.work.ok && m.bank0.work.ok && m.bank1.work.ok && m.placed &&
  (m.closing.isNone || decide (m.work.seq + 8 ≤ m.work.acked + 96)) &&
  (!(m.ready && m.traceBroken) || m.work.sealBroken)

/-- The invariant of the block. -/
def Inv (s : State) : Prop := s.meter.ok = true

end Sys2Proof.Machine
end

