-- ==== Sys2Proof/Certificates/Slice0/Obligations.lean ====
section
/-!
DEFINITION. The statements for the provers.
-/
open Sys2Proof Sys2Proof.Machine

/-- A step runs the command at the front of the queue: With a command at the front of the queue, a step is that
command's execution on the state with the queue's rest. The queue and its order are the model's (log entry 7). -/
def Obligations.StepRunsTheFrontCommand : Prop :=
  ∀ (c : Instr) (s : State), step { s with pending := c :: s.pending } = exec c s

/-- No command of the table stops the block: Every command of the opcode table, whatever its operands and the state,
answers a next state: there is no fault and no refusal. That a command whose condition does not hold leaves the state is
the model's choice (log entry 8). -/
def Obligations.NoCommandStops : Prop := ∀ (c : Instr) (s : State), ∃ t, exec c s = .next t

/-- No command touches the queue of those that wait: A command's effect leaves the queue of the commands that wait as it
was (the queue is the model's, log entry 7). -/
def Obligations.CommandsLeaveTheQueue : Prop := ∀ (c : Instr) (s t : State), exec c s = .next t → t.pending = s.pending

/-- Every step keeps the meter's store in order: Over every state, a step that starts from an orderly meter leaves it
orderly: never more than 96 records are unacknowledged, and none is acknowledged that was not written; both state banks
say the same of what they hold; each record lies at the place its sequence number gives it; a CLOSE under way has eight
free places; two key slots stand; and while a serving meter's seal trace is broken, SEAL_BROKEN is set. -/
def Obligations.MeterInvariantIsKept : Prop := ∀ s t : State, Inv s → step s = .next t → Inv t

/-- The meter's store is in order at reset: The invariant of the meter's store holds of the state right after reset. -/
def Obligations.MeterInvariantAtReset : Prop := Inv State.reset

/-- Nothing but the front end's samples moves the cumulative energy register: Every command of the module leaves the
meter's cumulative input energy as it is, but for a sample of the front end, the meter's own power-up, which takes the
register from its store, and the cartridge's removal. -/
def Obligations.OnlySamplesMoveTheRegister : Prop :=
  ∀ (c : Instr) (s t : State), exec c s = .next t →
    (∀ ma mv, c ≠ .frontEndSample ma mv) → (∀ b, c ≠ .meterPowerUp b) → c ≠ .cartRemove →
    t.meter.work.reg = s.meter.work.reg

/-- No store write begins while the meter's inhibit holds: While store writes are inhibited, every command leaves the
records and both state banks as they are, but for the inhibit's release, the meter's power-up and the cartridge's
removal. -/
def Obligations.InhibitStopsStoreWrites : Prop :=
  ∀ (c : Instr) (s t : State), s.meter.inhibit = true → exec c s = .next t →
    (∀ mv sb ms, c ≠ .meterInhibitRelease mv sb ms) → (∀ b, c ≠ .meterPowerUp b) → c ≠ .cartRemove →
    t.meter.records = s.meter.records ∧ t.meter.bank0 = s.meter.bank0 ∧ t.meter.bank1 = s.meter.bank1

/-- The registers whose reset value is not zero read it after reset: Read through the physical function, HUB_ID,
SCH_TALLY_CTRL, SCH_TALLY_GAP, SCH_TALLY_TIMEOUT, PWR_STATUS, PWR_CTRL, PWR_LIMIT, each PWR_VMAX and PWR_CLU_V, each
LNK_PORT_STATUS, and each loom's LOM_EXC_CTRL and K_INDEX read the reset values that the register index lists. -/
def Obligations.ResetRegisters : Prop :=
  let r (o : Nat) : Nat := State.reset.bar0Read 0 o false
  r 0 = 0x013072 ∧ r 0x30000 = 2 ∧ r 0x30010 = 0x3E8 ∧ r 0x30014 = 0x2710 ∧ r 0x60000 = 1 ∧ r 0x60008 = 0x2EE ∧
  r 0x60010 = 0xED8 + 0x62 * 4096 ∧ (∀ k : StallId, r (0x60100 + 4 * k.val) = 0x384) ∧ (∀ c : ClusterId, r (0x60400 + 4 * c.val) = 0x226) ∧
  (∀ p : LPortId, r (0x280000 + 0x1000 * p.val) = 7 * 4) ∧
  (∀ (c : ClusterId) (i : Fin 12), r (0x1000000 + 0x40000 * c.val + 0x10000 + 0x2000 * i.val + 4) = 2 ∧
    r (0x1000000 + 0x40000 * c.val + 0x10000 + 0x2000 * i.val + 12) = 0xFFFFFFFF)

/-- A wave's request is recorded: While the host link is up, a request for a wave by the physical function or for a
stall is recorded as pending, and nothing else changes. It says of each of these commands that exec answers a next
state, and which: TALLY_REQUEST_PF, TALLY_REQUEST_STALL. -/
def Obligations.TallyRequestsAreRecorded : Prop :=
  ∀ s : State, s.hub.linkUp = true →
    Runs .tallyRequestPf s (s.modTally fun t => { t with pendPf := true }) ∧
    ∀ st : StallId, Runs (.tallyRequestStall st) s (s.modTally fun t => { t with pendStalls := sinsert st.val t.pendStalls })

/-- A wave is injected with the next number: With injection enabled, no wave in progress, the scheduler core running,
the gap elapsed, and a request pending from the physical function, a wave with the next number (never 0) begins; the
physical function's request is met, requests of withdrawn stalls stay; the timeout in force is captured; every shared
unit gets the controller's marker, and of the looms of the stalls that take part those without an aligned input; no
counter changes, and nothing but the tally and the tally units does. It says of each of these commands that exec answers
a next state, and which: TALLY_INJECT. -/
def Obligations.TallyWaveBegins : Prop :=
  ∀ (us : Nat) (s : State), s.tally.enable = true → s.tally.busy = false → s.coreUp 2 = true → s.tally.pendPf = true →
    max s.tally.gap.toNat 10 ≤ us →
    ∃ d, Runs (.tallyInject us) s d ∧ d.tally.busy = true ∧ d.tally.injected = nextWave s.tally.injected ∧ d.tally.injected ≠ 0 ∧
      d.tally.pendPf = false ∧ d.tally.pendStalls = s.tally.pendStalls.filter s.withdrawn ∧
      d.tally.timeoutNow = max s.tally.timeout.toNat 100 ∧ d.tally.participants = s.tallyStalls ∧ d.tally.done = s.tally.done ∧
      (∀ c < 96, c ∈ d.tally.loose ↔ s.clusterStall c = none) ∧
      (∀ k ∈ sharedKeys, (d.unit k).ctlMarker = true) ∧ (∀ k, (d.unit k).live = (s.unit k).live) ∧
      (∀ k ∈ s.tallyStalls, ∀ l ∈ s.stallLooms k, (d.unit l).ctlMarker = (s.inputsOf l true).isEmpty) ∧
      d = { s.toDev with tally := d.tally, units := d.units }

/-- A unit that accepts its marker snapshots its counters: While wave N is in progress, a unit that accepts the
controller's marker, or a loom that accepts the marker of its last aligned input, copies its live counters into bank N
mod 2, tags that bank with N, and clears ABANDONED; its live counters and its other bank stay; a loom presents the
marker on every channel output, and each unit presents it to every shared unit, of which only what it has marked of the
wave and its in-flight records change; every other unit stays as it was. A marker on another input is taken and noted. A
loom must be neither frozen nor faulted. It says of each of these commands that exec answers a next state, and which:
TALLY_MARKER_ACCEPT. -/
def Obligations.TallySnapshotIsTaken : Prop :=
  ∀ s : State, s.tally.busy = true →
    let n := s.tally.injected
    let snapped (u : Nat) (d : Dev) : Prop :=
      (let x := s.unit u
       let y := d.unit u
       y.live = x.live ∧ y.snap = n ∧ y.abandoned = false ∧ y.ctlMarker = false ∧
       (n.toNat % 2 = 0 → y.bank0 = x.live ∧ y.wave0 = n ∧ y.bank1 = x.bank1 ∧ y.wave1 = x.wave1) ∧
       (n.toNat % 2 = 1 → y.bank1 = x.live ∧ y.wave1 = n ∧ y.bank0 = x.bank0 ∧ y.wave0 = x.wave0)) ∧
      (∀ k, k ≠ u → k ∉ sharedKeys → d.unit k = s.unit k) ∧
      (∀ k ∈ sharedKeys, k ≠ u → ((s.unit k).markWave = n → u ∈ (d.unit k).marked) ∧
        d.unit k = { s.unit k with marked := (d.unit k).marked, rec0 := (d.unit k).rec0, rec1 := (d.unit k).rec1 }) ∧
      d = { s.toDev with units := d.units, net := d.net }
    (∀ u : TUnit, (s.unit (unitKey u)).ctlMarker = true → (∀ l, u = .loom l → (s.loom l.val).live = true) →
      ∃ d, Runs (.tallyMarkerAccept u none) s d ∧ snapped (unitKey u) d ∧
        (∀ l, u = .loom l → (s.outputsOf l.val).Nodup → ∀ k, d.stream k = if k ∈ s.outputsOf l.val then s.stream k ++ [.marker n] else s.stream k)) ∧
    (∀ (snd l : LoomId) (op ip : Fin 16) (rest : List Token),
      let k := streamKey snd.val op.val l.val ip.val
      let x := s.unit l.val
      let al := s.inputsOf l.val true
      s.stream k = .marker n :: rest → (s.loom l.val).live = true → x.markWave = n → x.snap ≠ n → n.toNat ∉ s.tally.lost →
      ((k ∈ al ∧ ∀ i ∈ al, i = k ∨ i ∈ x.marked) → ∃ d, Runs (.tallyMarkerAccept (.loom l) (some (snd, op, ip))) s d ∧ snapped l.val d) ∧
      (¬(k ∈ al ∧ ∀ i ∈ al, i = k ∨ i ∈ x.marked) → Runs (.tallyMarkerAccept (.loom l) (some (snd, op, ip))) s
        ((s.setStream k rest).modUnit l.val fun x => { x with marked := sinsert k x.marked })))

/-- A report that is the last one completes the wave for the module: A unit of the wave that has taken its snapshot
reports it once; where every shared unit has then reported and the wave is complete for every participating stall, the
wave completes: SCH_TALLY_DONE names it, BUSY and PARTIAL clear. Counters and looms stay. That a wave without a
participating stall completes with its shared units is the model's choice (log entry 74). It says of each of these
commands that exec answers a next state, and which: TALLY_REPORT. -/
def Obligations.TallyReportIsTaken : Prop :=
  ∀ (u : TUnit) (s : State), s.tally.busy = true → (s.unit (unitKey u)).snap = s.tally.injected →
    s.tally.reported.contains (unitKey u) = false →
    (2000 ≤ unitKey u ∨ s.tally.members.any (fun m => m.2 == unitKey u) = true ∨ s.tally.looseUnit (unitKey u) = true) →
    ∃ d, Runs (.tallyReport u) s d ∧ d.tally.reported = sinsert (unitKey u) s.tally.reported ∧ d.units = s.units ∧ d.looms = s.looms ∧
      ((sharedKeys.all (fun k => d.tally.reported.contains k) = true ∧
        s.tally.participants.all (fun k => TallySt.stallComplete { s.tally with reported := d.tally.reported } k) = true) →
        d.tally.done = s.tally.injected ∧ d.tally.busy = false ∧ d.tally.partialWave = false)

/-- A wave that outlasts its timeout is abandoned: Once the timeout captured at injection has elapsed, the controller
writes the wave's number into SCH_TALLY_DONE, sets PARTIAL, writes the number of units without a snapshot, looms of
unassigned clusters among them, into SCH_TALLY_LAG and clears BUSY; each such unit keeps its banks and counters and sets
ABANDONED; no stall's entry advances. How station instances count in SCH_TALLY_LAG is the model's choice (log entry 75).
It says of each of these commands that exec answers a next state, and which: TALLY_ABANDON. -/
def Obligations.TallyAbandonment : Prop :=
  ∀ (us : Nat) (s : State), s.tally.busy = true → s.tally.timeoutNow ≤ us →
    ∃ d, Runs (.tallyAbandon us) s d ∧ d.tally.done = s.tally.injected ∧ d.tally.busy = false ∧ d.tally.partialWave = true ∧
      d.tally.stallDone = s.tally.stallDone ∧
      (let late := (s.tally.members.map (fun m : Nat × Nat => m.2) ++ (s.tally.loose.flatMap (fun c => (List.range 12).map (12 * c + ·)) ++ sharedKeys)).filter
         (fun k => (s.unit k).snap != s.tally.injected)
       d.tally.lag = BitVec.ofNat 12 (late.length + s.lateStations late) ∧ (∀ k ∈ late, (d.unit k).abandoned = true) ∧
       (∀ k, k ∉ late → d.unit k = s.unit k)) ∧
      (∀ k, (d.unit k).live = (s.unit k).live ∧ (d.unit k).bank0 = (s.unit k).bank0 ∧ (d.unit k).bank1 = (s.unit k).bank1) ∧ d.looms = s.looms

/-- The array fills its windows and shadows, swaps warp, takes weft and retires beats: For a matrix operation in
progress on a live loom: a feeder with room and a ready, well-tagged slot accepts the next quarter-vector of Bench
(without a Bench error) into its window; the warp port fills the next free shadow, in row order, from a ready,
well-tagged tile; a row-quarter whose current warp is used up and whose shadow is complete makes it current; a
row-quarter with warp in hand, room for a quarter sum and its next quarter-vector in the window takes it; and once every
row-quarter has taken the next beat, the beat is retired and counted. Other looms, stalls and tiers stay as they are. It
says of each of these commands that exec answers a next state, and which: FEEDER_FILL, WARP_SHADOW_SWAP,
WEFT_BEAT_ACCEPT, BEAT_RETIRE. -/
def Obligations.ArrayTakesAndRetires : Prop :=
  ∀ (l : LoomId) (s : State) (c : Ctx) (g : MmGeo) (j : ArrJob), s.ctx l.val = some c → (s.loom l.val).arr = some j →
    (s.loom l.val).live = true → mmGeo c j.smp.w = some g →
    let x := s.loom l.val
    (∀ q : Fin 4,
      let t := tget 0 j.fed q.val
      let slot := feedSlot c s.toDev g j q.val t
      let k0 := g.k0 q.val (t % g.bpc)
      t < g.beats → (tget [] j.win q.val).length < 16 → quartersReady (x.slot slot) k0 g.qk = true →
      spent x slot (feedBehind c s.toDev g j q.val t) = false → tagCheckCause c.stall (x.slot slot).tag = none →
      ∃ d j', Runs (.feederFill l q .clean) s d ∧ (d.loom l.val).arr = some j' ∧ tget 0 j'.fed q.val = t + 1 ∧
        tget [] j'.win q.val = tget [] j.win q.val ++ [readQVec x slot t (t % g.perKb / g.bpc % 64) k0 g.qk] ∧
        s.loomsOnly d ∧ s.otherLooms d l.val) ∧
    (let kb := j.filled / 256
     let rq := j.filled % 256
     let slot := ringSlot g.da (c.at_ s.toDev g.da j.smp 0 (g.kcol kb (rq % 4)) 0)
     let v := x.slot slot
     kb < g.kb → tget none j.shadow rq = none → quartersReady v (g.k0 (rq % 4) 0) g.qk = true →
     (g.cls = 3 → quartersReady v (g.k0 (rq % 4) 1) g.qk = true) → spent x slot 0 = false → tagCheckCause c.stall v.tag = none →
     ∃ d j', warpFillOne s.toDev l.val = some d ∧ (d.loom l.val).arr = some j' ∧ j'.filled = j.filled + 1 ∧
       (g.cls ≠ 3 → tget none j'.shadow rq = some (readQVec x slot 0 (rq / 4) (g.k0 (rq % 4) 0) g.qk)) ∧
       (∀ i, i ≠ rq → tget none j'.shadow i = tget none j.shadow i) ∧ s.loomsOnly d ∧ s.otherLooms d l.val) ∧
    (∀ (r : Fin 64) (q : Fin 4) (wv : QVec),
      let rq := 4 * r.val + q.val
      let wk := tget 0 j.warpKb rq
      wk < g.kb → tget 0 j.taken rq = wk * g.perKb → tget none j.shadow rq = some wv →
      (g.kb ≤ j.filled / 256 ∨ (tget none j.shadow (j.filled % 256)).isSome = true) →
      ∃ d j', Runs (.warpShadowSwap l r q) s d ∧ (d.loom l.val).arr = some j' ∧ tget 0 j'.warpKb rq = wk + 1 ∧ j'.taken = j.taken ∧
        tget none j'.shadow rq = none ∧ tget ⟨0, [], [], [], 0⟩ j'.warp rq = wv ∧
        (∀ i, i ≠ rq → tget 0 j'.warpKb i = tget 0 j.warpKb i) ∧ s.loomsOnly d ∧ s.otherLooms d l.val) ∧
    (∀ (r : Fin 64) (q : Fin 4) (v : QVec),
      let rq := 4 * r.val + q.val
      let t := tget 0 j.taken rq
      t < tget 0 j.warpKb rq * g.perKb → (tget [] j.qsum rq).length < 16 → (tget [] j.win q.val).find? (fun v => v.beat == t) = some v →
      ∃ d j', Runs (.weftBeatAccept l [(r, q)]) s d ∧ (d.loom l.val).arr = some j' ∧ tget 0 j'.taken rq = t + 1 ∧
        (∀ i, i ≠ rq → tget 0 j'.taken i = tget 0 j.taken i) ∧ s.loomsOnly d ∧ s.otherLooms d l.val) ∧
    ((List.range 256).all (fun rq => decide (j.retired < tget 0 j.taken rq)) = true →
      Runs (.beatRetire l) s ((s.setArr l { j with retired := j.retired + 1 }).count l 0 1))

/-- Finished results go through the tile buffers into an output tile: The collector takes the oldest drained result of a
row into its place in the tile buffer while that buffer is free; and once every row has delivered the tile, and the tile
that a FIN reads is ready, the converter writes it into its Bench slot, with the output's coordinates, once that slot
can be claimed; with the span's last tile the operation is over. It says of each of these commands that exec answers a
next state, and which: COLLECT_RESULT, CONVERT_TILE. -/
def Obligations.ResultsAreCollectedAndConverted : Prop :=
  ∀ (l : LoomId) (s : State) (c : Ctx) (g : MmGeo) (j : ArrJob), s.ctx l.val = some c → (s.loom l.val).arr = some j →
    (s.loom l.val).live = true → mmGeo c j.smp.w = some g →
    (∀ (r : Fin 64) (e : BitVec 24 × Option (Nat × Nat)) (rest : List (BitVec 24 × Option (Nat × Nat))),
      let n := tget 0 j.collected r.val
      tget [] j.drain r.val = e :: rest → n / 64 < j.converted + 2 →
      ∃ d j', Runs (.collectResult l r) s d ∧ (d.loom l.val).arr = some j' ∧ tget 0 j'.collected r.val = n + 1 ∧
        tget (0, none) (d.loom l.val).tbuf (4096 * (n / 64 % 2) + 64 * r.val + n % 64) = e ∧ s.loomsOnly d ∧ s.otherLooms d l.val) ∧
    (let x := s.loom l.val
     let coord := cvtCoord c s.toDev g j
     let conv := j.converted + cvtTiles x j
     (List.range 64).all (fun r => decide (64 * conv ≤ tget 0 j.collected r)) = true →
     rdSlots c.stall x (cvtTy c s.toDev g j) = .ready → wrSlots x 2 [ringSlot g.dc coord] = .ready →
     (cvtTy c s.toDev g j).contains (ringSlot g.dc coord) = false →
     ∃ d, Runs (.convertTile l) s d ∧ (d.loom l.val).holds (ringSlot g.dc coord) c.stall (cvtOut c s.toDev g j s.freeCtr) ∧
       (cvtOut c s.toDev g j s.freeCtr).coord = coord ∧
       ((d.loom l.val).arr = if 64 * conv = g.span then none else some { j with converted := conv }) ∧
       s.loomsOnly d ∧ s.otherLooms d l.val)

/-- An MM word is issued, and the array takes it: An MM word is taken by a free array, if the tiles that it preloads, if
any, stand ready: the operation's sample is taken, the width class is set, the accumulators it will use that no preload
fills are zero, and the draft goes on past the word and its FIN. While the array is at work on another operation and
none waits, the word is issued: it is sampled, the draft goes on, and the free array then takes it as it was sampled. It
says of each of these commands that exec answers a next state, and which: MM. -/
def Obligations.MatrixOperationStarts : Prop :=
  ∀ (l : LoomId) (s : State) (c : Ctx), s.ctx l.val = some c →
    let x := s.loom l.val
    let starts (d : Dev) (p : Sample) (g : MmGeo) : Prop := Runs (.mm l) s d ∧ (∃ j, (d.loom l.val).arr = some j ∧ j.smp = p ∧
        (mmPre p.w = false → j = { smp := p })) ∧ (d.loom l.val).width = BitVec.ofNat 2 g.cls ∧ (d.loom l.val).arrNext = none ∧
      (mmPre p.w = false → ∀ r n, n < 256 → n < g.span → tget (0, none) (d.loom l.val).acc (256 * r + n) = (0, none)) ∧
      s.loomsOnly d ∧ s.otherLooms d l.val
    (∀ (w : Nat) (g : MmGeo), s.issues l.val 0x20 c w → w < 2 ^ 64 → mmGeo c w = some g → x.arr = none → x.att = none → x.arrNext = none →
      rdSlots c.stall x (mmPres c s.toDev (sampleOf x) w g) = .ready →
      ∃ d, starts d (sampleOf x) g ∧ (d.loom l.val).pc = (x.goto (nextPc x)).pc) ∧
    (∀ (p : Sample) (g : MmGeo), x.arrNext = some p → opc p.w = 0x20 → x.live = true → mmGeo c p.w = some g → x.arr = none → x.att = none →
      rdSlots c.stall x (mmPres c s.toDev p p.w g) = .ready → ∃ d, starts d p g ∧ (d.loom l.val).pc = x.pc) ∧
    (∀ w : Nat, s.issues l.val 0x20 c w → x.arrBusy = true → x.arrNext = none →
      ∃ d, Runs (.mm l) s d ∧ (d.loom l.val).arrNext = some (sampleOf x) ∧ (d.loom l.val).arr = x.arr ∧ (d.loom l.val).att = x.att ∧
        (d.loom l.val).pc = (x.goto (nextPc x)).pc ∧ s.loomsOnly d ∧ s.otherLooms d l.val)

/-- The events of a Bench slot: A claim by a port that writes takes an EMPTY slot of a live loom to FILLING with its
reader count and tag; its claim of a RAW slot faults the loom, and any other claim waits; the feeders and the warp port
claim nothing. A completed quarter of a FILLING slot is written and marked, and the fourth makes the slot FULL, or
PINNED at reader count 255. A whole-tile read of the array that completes lowers the reader count, and at zero the slot
is EMPTY; what the code finds in the tile that another unit reads goes unnoticed, or faults the loom where it cannot be
corrected; a corrected word's value is written back in its turn. It says of each of these commands that exec answers a
next state, and which: SLOT_CLAIM, QUARTER_FILL, TILE_READ_COMPLETE, BENCH_CE_WRITEBACK. -/
def Obligations.BenchSlotEvents : Prop :=
  ∀ (l : LoomId) (slot : SlotId) (s : State),
    let x := s.loom l.val
    let v := x.slot slot.val
    (∀ (port : Port) (n : Byte) (tag : Tag), x.live = true →
      (portWrites port = false → Runs (.slotClaim l port slot n tag) s s.toDev) ∧
      (portWrites port = true →
        (v.state = .empty → Runs (.slotClaim l port slot n tag) s (s.setLoom l (x.setSlot slot.val
          { state := .filling, setReaders := n, tag := tag, tagWritten := true, claimant := portCode port }))) ∧
        (v.state = .raw → Runs (.slotClaim l port slot n tag) s (s.faultLoom l 1 slot.val (portCode port) 0 x.pc)) ∧
        (v.state ≠ .empty → v.state ≠ .raw → Runs (.slotClaim l port slot n tag) s s.toDev))) ∧
    (∀ (q : Fin 4) (data : List Byte), v.state = .filling → v.quarters.getLsbD q.val = false → data.length = 2048 →
      ∃ d, Runs (.quarterFill l slot q data) s d ∧ benchBytes (d.loom l.val) (8192 * slot.val + 2048 * q.val) 2048 = data ∧
        ((d.loom l.val).slot slot.val).quarters = setBit v.quarters q.val ∧
        (v.tagWritten = true → setBit v.quarters q.val = 15 →
          ((d.loom l.val).slot slot.val).state = if v.setReaders = 255 then .pinned else .full) ∧
        s.loomsOnly d ∧ s.otherLooms d l.val) ∧
    (∀ port : Port, portReads port = true →
      (x.rdDone.contains slot.val = true →
        ∃ d, Runs (.tileReadComplete l port slot .clean) s d ∧ (d.loom l.val).rdDone = x.rdDone.erase slot.val ∧
          (v.state = .full → (d.loom l.val).slot slot.val = if v.readers ≤ 1 then {} else { v with readers := v.readers - 1 }) ∧
          (v.state = .pinned → (d.loom l.val).slot slot.val = v) ∧ s.loomsOnly d ∧ s.otherLooms d l.val) ∧
      (x.rdDone.contains slot.val = false → x.live = true → v.state ≠ .empty →
        Runs (.tileReadComplete l port slot .clean) s s.toDev ∧
        ∀ n, Runs (.tileReadComplete l port slot (.uncorrectable n)) s (s.faultLoom l 3 slot.val (portCode port) n.val x.pc))) ∧
    Runs (.benchCeWriteback l) s (s.modLoom l.val fun x => { x with ceList := x.ceList.drop 1 })

/-- Who clears a loom's exception record, and with which SEQ: A clear by a function that reaches the loom empties the
record if it carries the record's SEQ, which stays, and does nothing otherwise. The service by a running cluster control
core first ends the interrupt and leaves an event-log entry, the record standing; with OWNER = 0 its next step empties
the record, or, where an event has come between so that SEQ has moved, leaves it and logs it again. It says of each of
these commands that exec answers a next state, and which: EXC_CLEAR, CCC_EXC_SERVICE. -/
def Obligations.ExceptionRecordIsCleared : Prop :=
  ∀ (l : LoomId) (s : State),
    let x := s.loom l.val
    (∀ (fn : FnId) (seq : Byte), s.hub.linkUp = true → s.fnReaches fn.val l.val = true →
      Runs (.excClear fn l seq) s (s.setLoom l.val (if x.exc.seq = seq then { x with exc := { seq := x.exc.seq } } else x))) ∧
    (s.coreUp (16 + l.val / 12) = true →
      ((x.excIrq = true ∧ x.excCopied = none ∨ ∃ q, x.excCopied = some q ∧ x.excOwner = false ∧ x.exc.seq ≠ q) →
        ∃ d, Runs (.cccExcService l) s d ∧ (d.loom l.val).excIrq = false ∧ (d.loom l.val).exc = x.exc ∧
          (d.loom l.val).excCopied = (if x.excOwner then none else some x.exc.seq) ∧
          (s.coreUp 3 = true → s.power.nvInh = false → ∃ e : LogEntry, d.hub.logQueue = s.hub.logQueue ++ [e] ∧ e.code = 0x0011 ∧
            e.source = BitVec.ofNat 16 (16 + l.val / 12)) ∧ s.otherLooms d l.val) ∧
      (x.excCopied = some x.exc.seq → x.excOwner = false →
        Runs (.cccExcService l) s (s.setLoom l.val { x with exc := { seq := x.exc.seq }, excCopied := none })))

/-- Runs are dispatched, completed and posted: With the stall LOADED and the scheduler core running, every station bound
to a run hopper that is ready begins the run of the hopper's oldest entry, or of the entry taken before that it has
still to begin: its member looms run with the entry's STEP and VERSION. Stations that are not ready begin it later; that
the entry leaves the hopper with the first of them is the model's reading (log entry 86). A station's oldest run ends
once every member has executed END and its units and channel rings are done with it: its record goes, and with CPL = 1
its completion is held. A held completion, if no earlier one is held for the same hopper, enters the hopper in the
layout of a completion entry once there is room. It says of each of these commands that exec answers a next state, and
which: RUN_DISPATCH, RUN_COMPLETE, COMPLETION_POST. -/
def Obligations.RunsBeginAndEnd : Prop :=
  (∀ (st : StallId) (hop : HopId) (s : State) (p : StallPlan) (h : Nat),
    let k := st.val
    let ts := p.stations.filter (fun t => t.runHop == hop.val)
    let cur := tget {} (s.stall k).hopCur hop.val
    let begins (e : W64) (left : List Station) (d : Dev) : Prop :=
      let go := left.filter (fun t => s.stationReady k t)
      let rest := left.filter (fun t => !s.stationReady k t)
      Runs (.runDispatch st hop) s d ∧ d.counter hubKey 1 = s.counter hubKey 1 + BitVec.ofNat 64 go.length ∧
      tget {} (d.stall k).hopCur hop.val = (if rest = [] then {} else { entry := e, left := rest.map (·.num) }) ∧
      (∀ t ∈ go, ∀ l ∈ t.looms, (d.loom l).running = true ∧ (d.loom l).step = e.setWidth 32 ∧ (d.loom l).version = (e >>> 32).setWidth 32) ∧
      (∀ l, (∀ t ∈ go, l ∉ t.looms) → d.loom l = s.loom l) ∧ d.mem = s.mem
    (s.stall k).plan = some p → s.hopOf k hop.val = some h → (s.stall k).blk.state = .loaded → s.coreUp 2 = true →
    (∀ (e : W64) (rest : List W64), (∀ t ∈ ts, t.num ∉ cur.left) → s.hopper h = e :: rest → (∃ t ∈ ts, s.stationReady k t = true) →
      ∃ d, begins e ts d ∧ d.hopper h = rest) ∧
    ((∃ t ∈ ts, t.num ∈ cur.left ∧ s.stationReady k t = true) →
      ∃ d, begins cur.entry (ts.filter (fun t => cur.left.contains t.num)) d ∧ d.hopper h = s.hopper h)) ∧
  (∀ (st : StallId) (n : LoomId) (s : State) (p : StallPlan) (t : Station) (r : RunRec) (rs : List RunRec),
    (s.stall st.val).plan = some p → p.station n.val = some t → ((s.stall st.val).station n.val).runs = r :: rs →
    t.looms.all (fun l => r.ended.contains l && !(s.loom l).busyFor r.seq) = true →
    ∃ d, Runs (.runComplete st n) s d ∧
      ((d.stall st.val).station n.val).runs = (r :: rs).filter (fun q => q.seq != r.seq) ∧
      ((d.stall st.val).station n.val).held = ((s.stall st.val).station n.val).held ++
        (if bit (t.draft.getLast?.getD 0) 55 then [⟨r.step, s.runStatus st.val t r.seq, (s.stall st.val).cplSeq⟩] else [])) ∧
  (∀ (st : StallId) (n : LoomId) (s : State) (p : StallPlan) (t : Station) (c : CplRec) (rest : List CplRec) (h : Nat),
    (s.stall st.val).plan = some p → p.station n.val = some t → ((s.stall st.val).station n.val).held = c :: rest →
    t.cplHop.bind (s.hopOf st.val) = some h → s.coreUp 2 = true → (s.hopper h).length < 8 →
    (∀ u ∈ p.stations, u.cplHop = t.cplHop → ∀ q ∈ ((s.stall st.val).station u.num).held, c.seq ≤ q.seq) →
    ∃ d, Runs (.completionPost st n) s d ∧ d.hopper h = s.hopper h ++ [cplEntry n.val c] ∧ d.looms = s.looms ∧
      ((d.stall st.val).station n.val).held = rest ∧ d.counter hubKey 2 = s.counter hubKey 2 + 1)

/-- LOOP, ENDLOOP and END: LOOP opens a loop at counter 0 and goes to the next word. ENDLOOP repeats the body with the
counter one higher while iterations remain, and else leaves the loop. END ends the loom's run of its draft, and the
station's run learns of it. It says of each of these commands that exec answers a next state, and which: LOOP, ENDLOOP,
END. -/
def Obligations.StructuralWords : Prop :=
  ∀ (l : LoomId) (s : State) (w : Nat), (s.loom l.val).word = some w →
    let x := s.loom l.val
    (opc w = 0x01 → Runs (.loopOpen l) s (s.setLoom l.val
      (({ x with loops := { ctr := loopCtr w, val := 0, count := loopCount w, at_ := x.pc } :: x.loops } : LoomSt).goto (x.pc + 1)))) ∧
    (∀ (f : LoopFrame) (fs : List LoopFrame), opc w = 0x02 → x.loops = f :: fs →
      (f.val + 1 < f.count → Runs (.loopClose l) s (s.setLoom l.val
        (({ x with loops := { f with val := f.val + 1 } :: fs } : LoomSt).goto (f.at_ + 1)))) ∧
      (f.count ≤ f.val + 1 → Runs (.loopClose l) s (s.setLoom l.val (({ x with loops := fs } : LoomSt).goto (x.pc + 1))))) ∧
    (∀ (k n : Nat), opc w = 0x03 → s.loomStall l.val = some k → x.station = some n →
      ∃ d, Runs (.endRun l) s d ∧ d.loom l.val = { x with running := false } ∧
        ((d.stall k).station n).runs = ((s.stall k).station n).runs.map (fun r => if r.seq = x.runSeq then { r with ended := sinsert l.val r.ended } else r) ∧
        s.otherLooms d l.val ∧ d.mem = s.mem)

/-- Every FUL function reads its tiles, computes and writes its outputs: A FUL word of each of the 22 functions issues
when the fuller is free and its source tiles stand ready, no two of its sources in one slot. The draft then goes on;
where its output slots can be claimed and are none of its sources, each holds the output tile that the function's
values, converted under the word's descriptors, make. Where the first of them is not EMPTY its tiles wait, and a waiting
tile is written once its slot can be claimed. Other looms, stalls and tiers stay as they are. Where sources are not
ready the word waits. It says of each of these commands that exec answers a next state, and which: FUL_COPY, FUL_SCALE,
FUL_BIAS, FUL_RELU, FUL_GELU, FUL_SILU, FUL_SIGMOID, FUL_TANH, FUL_EXP, FUL_SOFTMAX, FUL_RMSNORM, FUL_LAYERNORM,
FUL_MUL, FUL_ADD, FUL_RSUM, FUL_RMAX, FUL_RSSQ, FUL_CSUM, FUL_CMAX, FUL_DROPOUT, FUL_GLU, FUL_TRANSPOSE. -/
def Obligations.FullerWords : Prop :=
  ∀ (l : LoomId) (s : State) (c : Ctx) (i : Instr) (fn : Nat), s.ctx l.val = some c →
    (i, fn) ∈ [(Instr.fulCopy l, 0x00), (.fulScale l, 0x01), (.fulBias l, 0x02), (.fulRelu l, 0x03), (.fulGelu l, 0x04),
      (.fulSilu l, 0x05), (.fulSigmoid l, 0x06), (.fulTanh l, 0x07), (.fulExp l, 0x08), (.fulSoftmax l, 0x09), (.fulRmsnorm l, 0x0A),
      (.fulLayernorm l, 0x0B), (.fulMul l, 0x0C), (.fulAdd l, 0x0D), (.fulRsum l, 0x0E), (.fulRmax l, 0x0F), (.fulRssq l, 0x10),
      (.fulCsum l, 0x11), (.fulCmax l, 0x12), (.fulDropout l, 0x13), (.fulGlu l, 0x14), (.fulTranspose l, 0x15)] →
    let x := s.loom l.val
    (∀ (w : Nat) (dx dz : Desc), s.issues l.val 0x30 c w → fulFN w = fn → c.st.desc (fulTX w) = some dx → c.st.desc (fulTZ w) = some dz →
      x.ful = none →
      let p := sampleOf x
      let reads := fulXs c s.toDev p w dx ++ fulYs fn c s.toDev p w dx
      let zs := fulZs fn c s.toDev p w dz
      let out (k : Nat) : OutTile := fulOut fn c s.toDev p w dx dz s.freeCtr k
      (rdSlots c.stall x reads = .wait → Runs i s s.toDev) ∧
      ((fulXs c s.toDev p w dx).Nodup → rdSlots c.stall x reads = .ready →
        (wrSlots x 3 zs = .ready → zs.Nodup → (∀ z ∈ zs, z ∉ reads) →
          ∃ d, Runs i s d ∧ (d.loom l.val).pc = (x.goto (nextPc x)).pc ∧ (d.loom l.val).ful = none ∧
            (∀ k < zs.length, (d.loom l.val).holds (zs.getD k 0) c.stall (out k)) ∧ s.loomsOnly d ∧ s.otherLooms d l.val) ∧
        (wrSlot x 3 (zs.headD 0) = .wait → zs.headD 0 ∉ reads →
          ∃ d, Runs i s d ∧ (d.loom l.val).pc = (x.goto (nextPc x)).pc ∧
            (d.loom l.val).ful = some { smp := p, outs := (List.range zs.length).map fun k => (out k).pend c.stall } ∧
            s.loomsOnly d ∧ s.otherLooms d l.val))) ∧
    (∀ j : FulJob, x.ful = some j → opc j.smp.w = 0x30 → fulFN j.smp.w = fn → x.live = true →
      (x.canTake c 3 j.outs → ∃ d, Runs i s d ∧ (d.loom l.val).ful = none ∧ (d.loom l.val).took c j.outs ∧ s.loomsOnly d ∧ s.otherLooms d l.val) ∧
      (x.mustWait c 3 j.outs → ∃ d, Runs i s d ∧ (d.loom l.val).ful = some j ∧ s.loomsOnly d ∧ s.otherLooms d l.val))

/-- What the pointwise FUL functions compute: On one source tile, COPY gives the tile, SCALE each element times IMM,
RELU each element or +0 where it is not above zero and no NaN, MUL and ADD the product and the sum with TY's element at
the same place. -/
def Obligations.FullerFunctions : Prop :=
  ∀ (dir : Bool) (imm : XV) (dr : Nat) (ty : Nat → List (List XV)) (keep : Nat → Nat → Nat → Bool) (x : Nat → Nat → XV) (a k : Nat), a < 64 → k < 64 →
    let out (fn : Nat) : XV := matGet ((fullerFn fn dir imm dr ty keep [matBuild x]).headD []) a k
    out 0x00 = x a k ∧ out 0x01 = xmul imm (x a k) ∧ out 0x0C = xmul (x a k) (matGet (ty 0) a k) ∧
    out 0x0D = xadd (x a k) (matGet (ty 0) a k) ∧ ((x a k).v.isNan = true → out 0x03 = x a k) ∧
    ((x a k).v.isNan = false → out 0x03 = if fvLt .zero (x a k).v then x a k else .ok .zero)

/-- CAST converts one tile in each of its forms: A CAST issues when the fuller is free, its tiles stand ready, a
gradient's tiles carry the output's coordinates, and its overflow-map entry, where it uses one, can be read and written;
where its output slots can be claimed and are none of its sources, the output slot holds the conversion of the source
(of the source plus the residual for a gradient) with supplied scale codes raised by the map, a gradient's residual slot
holds the residual tile, and the draft goes on. Where the output slot is not EMPTY the tile waits for it. A gradient
CAST whose tags differ, or a map record that does not fit, faults the loom with CAUSE 5. It says of each of these
commands that exec answers a next state, and which: CAST. -/
def Obligations.CastWord : Prop :=
  ∀ (l : LoomId) (s : State) (c : Ctx) (w : Nat) (dx dz : Desc), s.issues l.val 0x31 c w → c.st.desc (castTX w) = some dx →
    c.st.desc (castTZ w) = some dz →
    let x := s.loom l.val
    let p := sampleOf x
    let reads := castReads c s.toDev p w dx dz
    let writes := castWrites c s.toDev p w dz
    x.ful = none → rdSlots c.stall x reads = .ready →
    ((castTagsOk c s.toDev p w dx dz = false ∨ castMapOk c s.toDev p w dz = false) → Runs (.cast l) s (s.faultLoom l.val 5 0 0 0 p.op)) ∧
    (castTagsOk c s.toDev p w dx dz = true → castMapOk c s.toDev p w dz = true →
      (castOmap w = false →
        (wrSlots x 3 writes = .ready → writes.Nodup → (∀ z ∈ writes, z ∉ reads) →
          (castGrad w = true → c.st.desc (castTZ w + 2) ≠ none) →
          ∃ d, Runs (.cast l) s d ∧ (d.loom l.val).pc = (x.goto (nextPc x)).pc ∧ (d.loom l.val).ful = none ∧
            (let o := castOut c s.toDev p w dx dz [] s.freeCtr
             (d.loom l.val).holds (castSlot c s.toDev p dz) c.stall o ∧
             (castGrad w = true → let dr := castDesc c (castTZ w + 2) dz
               (d.loom l.val).holds (castSlot c s.toDev p dr) c.stall (castResidual c s.toDev p (castTZ w + 2) dr (castVals c s.toDev p w dx dz) o
                 (tagEpoch (x.slot (castSlot c s.toDev p dx)).tag) (s.freeCtr * 256 + 1)))) ∧
            s.loomsOnly d ∧ s.otherLooms d l.val) ∧
        (castGrad w = false → wrSlot x 3 (castSlot c s.toDev p dz) = .wait → castSlot c s.toDev p dz ∉ reads →
          ∃ d, Runs (.cast l) s d ∧ (d.loom l.val).pc = (x.goto (nextPc x)).pc ∧
            (d.loom l.val).ful = some { smp := p, outs := [(castOut c s.toDev p w dx dz [] s.freeCtr).pend c.stall] } ∧
            s.loomsOnly d ∧ s.otherLooms d l.val)) ∧
      (∀ (entry : List Byte) (s1 s3 : Dev), castOmap w = true → wrSlots x 3 writes = .ready → writes.Nodup → (∀ z ∈ writes, z ∉ reads) →
        (castGrad w = true → c.st.desc (castTZ w + 2) ≠ none) →
        castRead c s.toDev p w dz = .ok entry s1 →
        castMapWrite c s.toDev (s1.resumes l.val p.op).draw.2 p w dz
          (castOut c s.toDev p w dx dz entry s.freeCtr) = .ok () s3 →
        ∃ d, Runs (.cast l) s d ∧ (d.loom l.val).pc = (x.goto (nextPc x)).pc ∧ d.mem = s3.mem ∧ s.otherLooms d l.val ∧
          (d.loom l.val).holds (castSlot c s.toDev p dz) c.stall (castOut c s.toDev p w dx dz entry s.freeCtr)))

/-- A host's register write: While the link is up, an aligned 8-byte write to HUB_HOSTTIME sets it whole and a 4-byte
write half of it, 4-byte writes to SCH_TALLY_GAP, SCH_TALLY_TIMEOUT and PWR_LIMIT set them, all by the physical
function; a virtual function's write there is discarded and latched with KIND 2, a misaligned write by any function is
discarded and latched with KIND 1; nothing else changes. With the link down a write does nothing. It says of each of
these commands that exec answers a next state, and which: REGISTER_WRITE. -/
def Obligations.HostRegistersAreWritten : Prop :=
  ∀ (s : State) (v : W64),
    (s.hub.linkUp = true →
      Runs (.registerWrite 0 0x10 true v) s (s.modHub fun h => { h with hostTime := v, hostTimeSet := true }) ∧
      Runs (.registerWrite 0 0x10 false v) s (s.modHub fun h =>
        { h with hostTime := h.hostTime >>> 32 <<< 32 ||| (v.setWidth 32).setWidth 64, hostTimeSet := true }) ∧
      Runs (.registerWrite 0 0x30010 false v) s (s.modTally fun t => { t with gap := v.setWidth 24 }) ∧
      Runs (.registerWrite 0 0x30014 false v) s (s.modTally fun t => { t with timeout := v.setWidth 24 }) ∧
      Runs (.registerWrite 0 0x60010 false v) s (s.modPower fun w => { w with pcap := v.setWidth 12, tlim := (v >>> 12).setWidth 7 }) ∧
      (∀ (fn : FnId) (off : BitVec 26), fn ≠ 0 → off ∈ [0x30010#26, 0x30014#26, 0x60010#26] →
        Runs (.registerWrite fn off false v) s (s.latchAcc fn.val 0 2 off.toNat)) ∧
      (∀ (fn : FnId) (off : BitVec 26), off.toNat % 4 ≠ 0 → Runs (.registerWrite fn off false v) s (s.latchAcc fn.val 0 1 off.toNat)) ∧
      (∀ (fn : FnId) (off : BitVec 26), off.toNat % 8 ≠ 0 → Runs (.registerWrite fn off true v) s (s.latchAcc fn.val 0 1 off.toNat))) ∧
    (s.hub.linkUp = false → ∀ (fn : FnId) (off : BitVec 26) (eight : Bool), Runs (.registerWrite fn off eight v) s s.toDev)

/-- HUB_ACC_ERR latches the first erroneous access and clears on ones: An access to BAR0 or BAR2 of a wrong size or
alignment is latched in the function's own HUB_ACC_ERR if nothing is latched there; a read then returns zeros, a write
is discarded. So is a write outside a virtual function's view, with KIND 2; a read there returns zeros and is not
latched. Ones written to VALID, WRITE_LOST and READ_ABORT clear those, zeros leave them. Nothing else changes. It says
of each of these commands that exec answers a next state, and which: BAR0_ACCESS_ERROR, ACC_ERR_CLEAR. -/
def Obligations.AccessErrorsAreLatched : Prop :=
  ∀ (fn : FnId) (s : State), s.hub.linkUp = true →
    (∀ (bar : Bar) (off : W32) (size : Nat), size ∉ [4, 8] ∨ off.toNat % size ≠ 0 ∨ bar = .bar2 ∧ size ≠ 8 →
      let b := if bar = .bar0 then 0 else 1
      let latched := s.setFn fn.val (let f := s.fn fn.val
        if f.acc.valid then f else { f with acc := { f.acc with valid := true, bar := b, kind := 1, offset := off } })
      Runs (.bar0AccessError fn bar true off size) s latched ∧
      Runs (.bar0AccessError fn bar false off size) s (latched.emit (.readData fn.val (List.replicate size 0)))) ∧
    (∀ off : W32, off.toNat % 4 = 0 → s.sees fn.val off.toNat true = false →
      Runs (.bar0AccessError fn .bar0 true off 4) s (s.latchAcc fn.val 0 2 off.toNat)) ∧
    (∀ off : W32, off.toNat % 4 = 0 → s.sees fn.val off.toNat false = false →
      Runs (.bar0AccessError fn .bar0 false off 4) s (s.emit (.readData fn.val (List.replicate 4 0)))) ∧
    (∀ mask : BitVec 3, ∃ d, Runs (.accErrClear fn mask) s d ∧ d = s.setFn fn.val (d.fn fn.val) ∧
      (let a := (s.fn fn.val).acc
       d.fn fn.val = { s.fn fn.val with acc := { a with valid := a.valid && !mask.getLsbD 0, writeLost := a.writeLost && !mask.getLsbD 1, readAbort := a.readAbort && !mask.getLsbD 2 } }))

/-- Function resets, and the host link's loss and return: A Function Level Reset puts the function's HUB_ACC_ERR,
HUB_WIN and MSI-X state at their reset values and leaves other functions', every stall, plan, hopper and loom alone; of
the physical function it also clears VF Enable, and a hot reset does so for every function. That buffered writes go on
is the model's choice. The link's loss leaves running work alone; in RUN it returns, with the enables that the host
gives. It says of each of these commands that exec answers a next state, and which: FUNCTION_LEVEL_RESET, HOT_RESET,
HOST_LINK_DOWN, HOST_LINK_RETURN. -/
def Obligations.FunctionsAreReset : Prop :=
  ∀ s : State,
    (s.hub.linkUp = true →
      (∀ fn : FnId, ∃ d, Runs (.functionLevelReset fn) s d ∧ d.fn fn.val = { wbuf := (s.fn fn.val).wbuf } ∧
        (∀ f, f ≠ fn.val → d.fn f = s.fn f) ∧ d.hub.vfEnable = (if fn = 0 then false else s.hub.vfEnable) ∧
        d = { s.toDev with hub := { s.hub with fns := d.hub.fns, vfEnable := d.hub.vfEnable } }) ∧
      ∃ d, Runs .hotReset s d ∧ d.hub.vfEnable = false ∧ (∀ fn : FnId, d.fn fn.val = { wbuf := (s.fn fn.val).wbuf }) ∧
        d = { s.toDev with hub := { s.hub with fns := d.hub.fns, vfEnable := false } }) ∧
    Runs .hostLinkDown s (s.modHub fun h => { h with linkUp := false }) ∧
    (∀ (vf : Bool) (msix : List FnId), s.power.state = .run →
      ∃ d, Runs (.hostLinkReturn vf msix) s d ∧ d.hub.linkUp = true ∧ d.hub.vfEnable = vf ∧
        (∀ fn : FnId, d.fn fn.val = { s.fn fn.val with msixEnable := decide (fn ∈ msix) }) ∧
        d = { s.toDev with hub := { s.hub with fns := d.hub.fns, vfEnable := vf, linkUp := true } })

/-- Window selections, and the latches that software clears: The physical function's writes of HUB_LOG_SEL and
HUB_CDUMP_SEL select what the windows show. A function that reaches the loom clears its picker's OOB latch, its
attention MISS latch and its tier-fault latch; the physical function or the stall's own clears STC_STALL_HOSTF; the
physical function alone clears STC_UE. Each changes nothing else. It says of each of these commands that exec answers a
next state, and which: LOG_SELECT, CDUMP_SELECT, PICK_OOB_CLEAR, ATT_MISS_CLEAR, TIER_FAULT_CLEAR, HOSTF_CLEAR,
STC_UE_CLEAR. -/
def Obligations.LatchesAreCleared : Prop :=
  ∀ (fn : FnId) (s : State), s.hub.linkUp = true →
    (∀ seq : W64, Runs (.logSelect 0 seq) s (s.modHub fun h => { h with logSel := seq }) ∧
      Runs (.cdumpSelect 0 seq) s (s.modFw fun f => { f with cdumpSel := seq })) ∧
    (∀ l : LoomId, s.fnReaches fn.val l.val = true →
      let x := s.loom l.val
      Runs (.pickOobClear fn l) s (s.setLoom l.val { x with pickOob := false }) ∧
      Runs (.attMissClear fn l) s (s.setLoom l.val { x with attMiss := false }) ∧
      Runs (.tierFaultClear fn l) s (s.setLoom l.val { x with tierFault := { x.tierFault with valid := false } })) ∧
    (∀ st : StallId, Runs (.hostfClear fn st) s (if fn.val = 0 ∨ fn.val = st.val + 1 then
      s.setStall st.val { s.stall st.val with hostfValid := false } else s.toDev)) ∧
    (∀ k : StackId, ∃ d, Runs (.stcUeClear fn k) s d ∧
      (fn = 0 → d.mem.stack k.val = { s.mem.stack k.val with ueValid := false } ∧ ∀ i, i ≠ k.val → d.mem.stack i = s.mem.stack i) ∧
      (fn ≠ 0 → d = s.toDev) ∧ d = { s.toDev with mem := { s.mem with stks := d.mem.stks } })

/-- The device window reaches staging and the tiers: Through its staging aperture a stall's function writes and reads
the stall's staging bytes, while no plan load or roster rewrite locks them; a locked write is discarded and sets
STAGE_LOST. Through the movable aperture, a write waits behind earlier writes of its function, line by line; one within
a line, with none before it, lands in the tiers once they accept it. A write that the 64 KiB buffer cannot hold is
discarded with WRITE_LOST; a read returns only once no write of its function waits, and after 4 ms of waiting is ended
with READ_ABORT and not performed; an unmapped VA reads zeros. It says of each of these commands that exec answers a
next state, and which: BAR4_WRITE, BAR4_READ, BAR4_READ_TIMEOUT. -/
def Obligations.DeviceWindow : Prop :=
  ∀ (st : StallId) (off : W32) (data : List Byte) (ecc : LineEcc) (s : State) (va : Nat), s.hub.linkUp = true →
    let fn : FnId := ⟨st.val + 1, by omega⟩
    let k := st.val
    let f := s.fn fn.val
    s.window fn.val off.toNat = .va k va →
    (∀ o, s.xlate k va = .staging o →
      (f.buffered + data.length ≤ 65536 →
        (s.stageLocked k = false → Runs (.bar4Write fn off (data, ecc)) s (s.setStall k { s.stall k with stage := tsetRange 0 (s.stall k).stage o data })) ∧
        (s.stageLocked k = true → Runs (.bar4Write fn off (data, ecc)) s (s.setStall k { s.stall k with blk := { (s.stall k).blk with stageLost := true } }))) ∧
      (f.wbuf = [] → Runs (.bar4Read fn off (data.length, ecc)) s (s.emit (.readData fn.val (tgetRange 0 (s.stall k).stage o data.length))))) ∧
    ((∀ o, s.xlate k va ≠ .staging o) →
      (f.buffered + data.length ≤ 65536 →
        Runs (.bar4Write fn off (data, ecc)) s (s.drainFn fn.val (f.wbuf ++ hostLines k ecc (piecesOf va data.length) data))) ∧
      (f.wbuf = [] → data ≠ [] →
        (va % 64 + data.length ≤ 64 →
          (∀ (u : Unit) (s1 : Dev), s.tierWrite k none none true va data = .ok u s1 →
            Runs (.bar4Write fn off (data, .clean)) s (s1.setFn fn.val { s1.fn fn.val with wbuf := [] })) ∧
          (∀ c, s.tierWrite k none none true va data = .wait c →
            Runs (.bar4Write fn off (data, .clean)) s (s.setFn fn.val { f with wbuf := [{ stall := k, va := va, data := data, ecc := .clean }] }))) ∧
        (∀ (b : List Byte) (s1 : Dev), s.tierRead k none none va data.length = .ok b s1 →
          Runs (.bar4Read fn off (data.length, .clean)) s (s1.emit (.readData fn.val b))) ∧
        (s.xlate k va = .unmapped → ∃ d, Runs (.bar4Read fn off (data.length, ecc)) s d ∧
          d.out = s.out ++ [.readData fn.val (List.replicate data.length 0)]))) ∧
    (65536 < f.buffered + data.length →
      Runs (.bar4Write fn off (data, ecc)) s (s.setFn fn.val { f with acc := { f.acc with writeLost := true } })) ∧
    (f.wbuf ≠ [] → Runs (.bar4Read fn off (data.length, ecc)) s s.toDev ∧
      (∀ us, 4000 ≤ us → Runs (.bar4ReadTimeout fn off data.length us) s
        ((s.setFn fn.val { f with acc := { f.acc with readAbort := true } }).emit (.abort fn.val))))

/-- Hoppers are FIFOs of eight entries: A doorbell write by a function that reaches the hopper appends its value, after
every earlier BAR4 write of the function; onto eight entries it is discarded, LOST of the owning stall goes up, FULL is
set and the stall's vector 6 raised. A read takes the oldest entry of a completion hopper or plain queue, all ones if
empty; of a run hopper a read returns the number of entries and takes none; outside every range it returns zero. Nothing
else changes. It says of each of these commands that exec answers a next state, and which: HOPPER_DOORBELL, HOPPER_POP,
HOPPER_COUNT_READ. -/
def Obligations.Hoppers : Prop :=
  ∀ (fn : FnId) (h : HopId) (s : State), s.hub.linkUp = true →
    let ret (v : Nat) : Dev := s.emit (.readData fn.val (natLe 8 v))
    (∀ v : W64, (s.fn fn.val).wbuf = [] → s.reachesHop fn.val h.val = true → (s.hopKind h.val = .plain → v ≠ 0xFFFFFFFFFFFFFFFF) →
      ((s.hopper h.val).length < 8 → ∃ d, Runs (.hopperDoorbell fn h v) s d ∧ d.hopper h.val = s.hopper h.val ++ [v] ∧
        (∀ i, i ≠ h.val → d.hopper i = s.hopper i) ∧ d.counter hubKey 0 = s.counter hubKey 0 + 1 ∧ d.looms = s.looms ∧ d.stalls = s.stalls ∧ d.mem = s.mem) ∧
      (8 ≤ (s.hopper h.val).length → ∀ k i, s.hopOwner h.val = some (k, i) → ∃ d, Runs (.hopperDoorbell fn h v) s d ∧
        (∀ i, d.hopper i = s.hopper i) ∧ (d.stall k).hopLost = (s.stall k).hopLost + 1 ∧ (d.stall k).hopFull = true ∧
        (∀ i, i ≠ k → d.stall i = s.stall i) ∧ d.looms = s.looms ∧ d.mem = s.mem)) ∧
    (s.reachesHop fn.val h.val = true → (s.hopKind h.val = .completion ∨ s.hopKind h.val = .plain) →
      (s.hopper h.val = [] → Runs (.hopperPop fn h) s (ret 0xFFFFFFFFFFFFFFFF)) ∧
      (∀ (v : W64) (rest : List W64), s.hopper h.val = v :: rest →
        Runs (.hopperPop fn h) s ((s.setHopper h.val rest).emit (.readData fn.val (natLe 8 v.toNat))))) ∧
    (s.hopKind h.val = .outside → Runs (.hopperPop fn h) s (ret 0)) ∧
    (s.reachesHop fn.val h.val = true → s.hopKind h.val = .run →
      Runs (.hopperCountRead fn h) s (ret ((s.hopper h.val).length + 3 * 2 ^ 62)) ∧ Runs (.hopperPop fn h) s s.toDev)

/-- The management core writes the oldest waiting entry under the next SEQ: While the management core runs and no supply
inhibit holds, it writes the oldest waiting event with the next sequence number and the time since HUB_HOSTTIME was last
written, all ones if never; the entry leaves the queue, and the entry that it displaces from the log's 131,072 places is
gone. From WARNING up a PlatformEventMessage is sent. Looms, stalls and tiers stay as they are. It says of each of these
commands that exec answers a next state, and which: EVENT_LOG_WRITE. -/
def Obligations.EventLogEntriesAreWritten : Prop :=
  ∀ (us : W64) (s : State) (e : LogEntry) (rest : List LogEntry), s.hub.logQueue = e :: rest → s.coreUp 3 = true → s.power.nvInh = false →
    ∃ d, Runs (.eventLogWrite us) s d ∧ d.hub.logSeq = s.hub.logSeq + 1 ∧ d.hub.logQueue = rest ∧
      (131072 < d.hub.logSeq.toNat → tget none d.hub.log (d.hub.logSeq.toNat - 131072) = none) ∧
      (0 < d.hub.logSeq.toNat → tget none d.hub.log d.hub.logSeq.toNat =
        some { e with seq := d.hub.logSeq, since := if s.hub.hostTimeSet then us else 0xFFFFFFFFFFFFFFFF }) ∧
      (1 ≤ e.severity.toNat → .mctp 2 0 [d.hub.logSeq.toNat, e.code.toNat, e.severity.toNat] ∈ d.out) ∧
      d.looms = s.looms ∧ d.stalls = s.stalls ∧ d.mem = s.mem ∧ d.units = s.units

/-- UPD's shards: issue, the two passes, the skip, the measurement and the fetch: A UPD whose ledger record, header and
entry are in order begins its shard, in the entry's mode, at the tile that TW's coordinates give; the header is read at
the run's first UPD and its LRS held. In APPLY mode pass 1 takes the gradient tiles one by one; the gate then chooses
pass 2 or the skip; pass 2 forms the next tile's master, moments, running average and working copy, the skip copies, and
the tiles are written as their slots can be claimed; once every tile write is acknowledged the entry is written, which
publishes VERSION. MEASURE takes the gradient tiles alone. FETCH takes a master tile of the run's version, releases an
older one and waits on, and faults on a newer one. It says of each of these commands that exec answers a next state, and
which: UPD, UPD_APPLY, UPD_MEASURE, UPD_FETCH. -/
def Obligations.ParameterUpdates : Prop :=
  ∀ (l : LoomId) (s : State) (c : Ctx), s.ctx l.val = some c →
    let x := s.loom l.val
    (∀ (w : Nat) (d15 dw : Desc) (r : LedgerRec) (b : List Byte), s.issues l.val 0x40 c w → c.st.desc 15 = some d15 →
      c.st.desc (updTW w) = some dw → x.upd = none → ledgerRec x d15 = some r →
      let p := sampleOf x
      let t0 := shardT0 dw (c.at_ s.toDev dw p 0 0 0)
      let e := r.lbase.getD (updTW w) 0 + t0 / r.nt
      let begun (lrs : W16) (d : Dev) : Prop := Runs (.upd l) s d ∧ (d.loom l.val).updEntry = BitVec.ofNat 32 e ∧
        (d.loom l.val).updRun = some (x.runSeq, lrs) ∧ (d.loom l.val).pc = (x.goto (nextPc x)).pc ∧ (d.loom l.val).upd =
        some { smp := p, mode := u8 b 20, va := r.va + 64 + 64 * e, entryNo := e, entry := b, t0 := t0, nt := r.nt, lrs := lrs, fdraw := x.runDraw,
               pass := if u8 b 20 = 2 then 3 else 1, n := extCode .zero }
      t0 % r.nt = 0 → e < r.entries → u8 b 20 ≤ 2 → (u8 b 20 = 0 → (u32 b 0 + 1) % 2 ^ 32 = x.version.toNat) →
      (∀ (lrs : W16) (s2 : Dev), x.updRun = some (x.runSeq, lrs) →
        (s.resumes l.val p.op).tierRead c.stall c.src none (r.va + 64 + 64 * e) 64 = .ok b s2 → ∃ d, begun lrs d) ∧
      (∀ (h : List Byte) (s1 s2 : Dev), (∀ lrs, x.updRun ≠ some (x.runSeq, lrs)) → s.tierRead c.stall c.src none r.va 64 = .ok h s1 →
        ledgerHeadOk h = true →
        (s1.resumes l.val p.op).tierRead c.stall c.src none (r.va + 64 + 64 * e) 64 = .ok b s2 →
        ∃ d, begun (BitVec.ofNat 16 (u16 h 0)) d)) ∧
    (∀ (j : UpdJob) (dw : Desc), x.upd = some j → x.live = true → c.st.desc (updTW j.smp.w) = some dw →
      let e : UpdEnv := { c := c, j := j, w := j.smp.w, dw := dw }
      let goes (i : Instr) (j' : UpdJob) : Prop := ∃ d, Runs i s d ∧ (d.loom l.val).upd = some j' ∧ s.loomsOnly d ∧ s.otherLooms d l.val
      let ends (i : Instr) (published flags skips : Nat) (measured : Bool) : Prop := e.acked x = true → ∀ (u : Unit) (s1 : Dev),
        s.tierWrite c.stall c.src none false j.va (e.entryBytes published flags skips measured) = .ok u s1 →
        ∃ d, Runs i s d ∧ (d.loom l.val).upd = none ∧ d.mem = s1.mem ∧ (d.loom l.val).updFlags = BitVec.ofNat 8 flags
      (∀ i : Instr, (j.mode = 0 ∧ i = .updApply l ∨ j.mode = 2 ∧ i = .updFetch l) → j.outs ≠ [] →
        (x.canTake c 3 j.outs → ∃ d, Runs i s d ∧ (d.loom l.val).upd = some { j with outs := [] } ∧ (d.loom l.val).took c j.outs ∧
          s.loomsOnly d ∧ s.otherLooms d l.val) ∧
        (x.mustWait c 3 j.outs → goes i j)) ∧
      (j.mode = 0 → j.outs = [] →
        (j.pass = 1 → j.i < j.nt → rdSlots c.stall x [e.slot (updTG e.w) j.i] = .ready → goes (.updApply l) (pass1Tile e x s.freeCtr).1) ∧
        (j.pass = 1 → j.nt ≤ j.i → Runs (.updApply l) s
          (s.setUpd l.val { j with i := 0, flags := gateFlags e, pass := if gateFlags e = 0 then 2 else 3 })) ∧
        (j.pass = 2 → j.i < j.nt → rdSlots c.stall x e.reads = .ready → goes (.updApply l) { j with
          i := j.i + 1
          outs := (e.tiles x s.freeCtr).map (·.pend c.stall) ++ if e.keeps then [e.copy x (updTR e.w + 8) j.i (e.slot (updTR e.w) j.i)] else [] }) ∧
        (j.pass = 3 → j.i < j.nt → rdSlots c.stall x e.reads = .ready →
          ∃ os, goes (.updApply l) { j with i := j.i + 1, outs := e.copy x (updTW e.w + 8) j.i (e.masterAt j.i) :: os }) ∧
        (j.pass = 2 → j.nt ≤ j.i → ends (.updApply l) j.smp.version.toNat j.flags (u16 j.entry 14) true) ∧
        (j.pass = 3 → j.nt ≤ j.i → ends (.updApply l) j.smp.version.toNat j.flags (min (u16 j.entry 14 + 1) 65535) true)) ∧
      (j.mode = 1 →
        (j.i < j.nt → rdSlots c.stall x [e.slot (updTG e.w) j.i] = .ready → goes (.updMeasure l) (pass1Tile e x s.freeCtr).1) ∧
        (j.nt ≤ j.i → ends (.updMeasure l) (u32 j.entry 0)
          (u8 j.entry 12 % 2 + 2 * b2n (j.nf != 0 || !finiteV (extVal j.n)) + 4 * (u8 j.entry 12 / 4)) (u16 j.entry 14) true)) ∧
      (j.mode = 2 → j.outs = [] →
        (j.nt ≤ j.i → ends (.updFetch l) j.smp.version.toNat (u8 j.entry 12) (u16 j.entry 14) false) ∧
        (j.i < j.nt →
          let sw := e.masterAt j.i
          let behind := (j.smp.version.toNat % 65536 + 65536 - tagEpoch (x.slot sw).tag) % 65536
          rdSlots c.stall x [sw] = .ready →
          (behind = 0 → ∃ q, goes (.updFetch l) { j with i := j.i + 1, outs := [e.copy x (updTW e.w + 8) j.i sw, q] }) ∧
          (0 < behind → behind < 32768 → Runs (.updFetch l) s ((s.setLoom l.val (readDone x sw)).count l.val 43 1)) ∧
          (32768 ≤ behind → Runs (.updFetch l) s (s.faultLoom l.val 5 0 0 0 j.smp.op)))))

/-- A channel's tile: request, grant, transport, acknowledgement, and spill places: A sender's oldest tile not yet in
the network asks the receiver for its slot; an EMPTY slot is granted to the oldest request and claimed into FILLING, and
a TG slot that is not to be had gives it a free spill place; once every receiver has granted, the tile enters the
network; on arrival it fills the granted slot with its reader count, or its spill place, and is acknowledged; with the
last acknowledgement the sender's slot is EMPTY. A TG slot that is EMPTY is refilled from the oldest tile spilled for
it. It says of each of these commands that exec answers a next state, and which: SLOT_REQUEST, SLOT_GRANT, TILE_SEND,
TILE_ARRIVE, TILE_ACK, SPILL_REFILL. -/
def Obligations.ChannelTokens : Prop :=
  (∀ (l rcv : LoomId) (port rport : Fin 16) (s : State) (c : Conn) (it : OutItem) (p : StallPlan) (t : Station) (d : Desc),
    let q := tget [] (s.loom l.val).outq port.val
    s.conn l.val port.val rcv.val rport.val = some c → q.find? (fun i => !i.sent) = some it → s.stationOf rcv.val = some (p, t) →
    inputDesc t rport.val = some d → (s.loom l.val).live = true → (s.loom rcv.val).live = true → c.key ∉ it.requested →
    ∃ d', Runs (.slotRequest l port rcv rport) s d' ∧
      (let wk := waitKey rcv.val (slotFor p t (s.loom rcv.val) c d it)
       tget [] d'.waiters wk = tget [] s.waiters wk ++ [c.key] ∧ (∀ k, k ≠ wk → tget [] d'.waiters k = tget [] s.waiters k)) ∧
      (∃ j ∈ tget [] (d'.loom l.val).outq port.val, j.slot = it.slot ∧ c.key ∈ j.requested) ∧
      (∀ i, i ≠ l.val → (t.role = 7 ∨ t.role = 5 → i ≠ rcv.val) → d'.loom i = s.loom i) ∧ d'.mem = s.mem) ∧
  (∀ (l : LoomId) (slot : SlotId) (s : State) (key : Nat) (rest : List Nat), tget [] s.waiters (waitKey l.val slot.val) = key :: rest →
    let x := s.loom l.val
    (slotGrantable x slot.val = true →
      ∃ d, Runs (.slotGrant l slot) s d ∧ (d.loom l.val).slot slot.val = { state := .filling, claimant := 5, grantee := some key } ∧
        tget [] d.waiters (waitKey l.val slot.val) = rest ∧ d.mem = s.mem) ∧
    (∀ (p : StallPlan) (t : Station) (q : Nat), slotGrantable x slot.val = false → (x.slot slot.val).state ≠ .raw → s.stationOf l.val = some (p, t) →
      spillFree x = some q → tgSlot t slot.val = true →
      ∃ d, Runs (.slotGrant l slot) s d ∧ (d.loom l.val).spillGranted = x.spillGranted ++ [(q, slot.val)] ∧
        tget [] d.waiters (waitKey l.val slot.val) = rest ∧ d.mem = s.mem) ∧
    ((x.slot slot.val).state = .raw → Runs (.slotGrant l slot) s (s.faultLoom l.val 1 slot.val 5 0 x.pc))) ∧
  (∀ (l : LoomId) (port : Fin 16) (s : State) (it : OutItem) (k : Nat),
    let q := tget [] (s.loom l.val).outq port.val
    q.find? (fun i => !i.sent) = some it → s.loomStall l.val = some k →
    (∀ c ∈ s.connsOf l.val, c.sndLoom = l.val → c.outPort = port.val → c.key ∈ it.granted.map (·.1)) →
    rdSlot k (s.loom l.val) it.slot = .ready → it.granted.Pairwise (fun a b => a.1 ≠ b.1) →
    ∃ d, Runs (.tileSend l port) s d ∧
      (∀ e ∈ it.granted, d.stream e.1 = s.stream e.1 ++ [.tile { tag := it.tag, data := slotBytes (s.loom l.val) it.slot } e.2]) ∧
      (∀ i, i ∉ it.granted.map (·.1) → d.stream i = s.stream i) ∧ s.otherLooms d l.val) ∧
  (∀ (snd rcv : LoomId) (port rport : Fin 16) (s : State) (t : Tile) (slot : Nat) (rest : List Token) (p : StallPlan) (st : Station) (d0 : Desc),
    let k := streamKey snd.val port.val rcv.val rport.val
    let x := s.loom rcv.val
    s.stream k = .tile t slot :: rest → s.stationOf rcv.val = some (p, st) → inputDesc st rport.val = some d0 →
    t.data.length = 8192 → s.dead (rcv.val / 12) = false → s.held rcv.val k = false →
    (slot < 512 → ∃ d, Runs (.tileArrive snd port rcv rport) s d ∧ d.stream k = rest ∧ tget 0 d.acks k = tget 0 s.acks k + 1 ∧
      slotBytes (d.loom rcv.val) slot = t.data ∧ ((d.loom rcv.val).slot slot).tag = t.tag ∧
      ((d.loom rcv.val).slot slot).state = (if d0.readers % 256 = 255 then .pinned else .full) ∧ s.otherLooms d rcv.val) ∧
    (∀ (ks va : Nat) (e : Nat × Nat) (u : Unit) (s1 : Dev), 512 ≤ slot → s.loomStall rcv.val = some ks →
      spillVa p rcv.val x.spillCap.toNat (slot - 512) = some va → x.spillGranted.find? (fun e => e.1 == slot - 512) = some e →
      s.tierWrite ks (some rcv.val) none false va (padTo 4288 (imageBytes t.tag t.data)) = .ok u s1 →
      ∃ d, Runs (.tileArrive snd port rcv rport) s d ∧ d.stream k = rest ∧ tget 0 d.acks k = tget 0 s.acks k + 1 ∧
        (d.loom rcv.val).spills = x.spills ++ [e] ∧ d.mem = s1.mem ∧ s.otherLooms d rcv.val)) ∧
  (∀ (snd rcv : LoomId) (port rport : Fin 16) (s : State) (it : OutItem) (n : Nat),
    let k := streamKey snd.val port.val rcv.val rport.val
    let q := tget [] (s.loom snd.val).outq port.val
    tget 0 s.acks k = n + 1 → q.find? (fun i => i.sent && !i.acked.contains k) = some it →
    (∀ c ∈ s.connsOf snd.val, c.sndLoom = snd.val → c.outPort = port.val → c.key = k ∨ c.key ∈ it.acked) →
    ∃ d, Runs (.tileAck (.chan snd port rcv rport)) s d ∧ (d.loom snd.val).slot it.slot = {} ∧ tget 0 d.acks k = n ∧
      tget [] (d.loom snd.val).outq port.val = q.erase it ∧ s.otherLooms d snd.val) ∧
  (∀ (l : LoomId) (slot : SlotId) (s : State) (e : Nat × Nat) (p : StallPlan) (t : Station) (k va : Nat) (d0 : Desc) (b : List Byte) (s1 : Dev),
    let x := s.loom l.val
    x.spills.find? (fun e => e.2 == slot.val) = some e → s.stationOf l.val = some (p, t) → s.loomStall l.val = some k →
    spillVa p l.val x.spillCap.toNat e.1 = some va →
    (chanDescs t true).find? (fun d => decide (d.base ≤ slot.val) && decide (slot.val < d.base + d.depth)) = some d0 →
    x.live = true → (x.slot slot.val).state = .empty → s.tierRead k (some l.val) none va 4288 = .ok b s1 →
    ∃ d, Runs (.spillRefill l slot) s d ∧ ((d.loom l.val).slot slot.val).tag = (imageTile d0.format d0.handle b).tag ∧
      readable (d.loom l.val) slot.val = true ∧ (d.loom l.val).spills = x.spills.erase e ∧ d.mem = s1.mem ∧ s.otherLooms d l.val)

/-- ATT and its page walks: An ATT is taken by a free array whose query tiles stand ready: the running output's
accumulators are zero and every row's maximum is minus infinity; while the array is at work it is issued and waits. A
taken ATT goes on step by step: key tile after key tile into the logits, the end of the logits pass, value tile after
value tile into the running output, the end of the block, and after the last block the output, which is written as its
slots can be claimed; a paged ATT waits for its walk, forms its page list, and takes the groups that the walk delivers.
A page walk issues when its record is in order, pins the domain's current epoch as it reads the sequence's header,
passes on to the ATT, writes its tiles as their slots can be claimed, and at the end of its page list unpins the epoch.
It says of each of these commands that exec answers a next state, and which: ATT, PICK_PAGE_WALK. -/
def Obligations.AttentionRuns : Prop :=
  ∀ (l : LoomId) (s : State) (c : Ctx), s.ctx l.val = some c →
    let x := s.loom l.val
    let fresh (p : Sample) : AttJob := { smp := p, m := List.replicate 64 0xFF80, l := List.replicate 64 (0, none) }
    let starts (p : Sample) (e : AttEnv) (pc : Nat) : Prop := ∃ d, Runs (.att l) s d ∧ (d.loom l.val).att = some (fresh p) ∧
      (d.loom l.val).arrNext = none ∧ (d.loom l.val).pc = pc ∧
      (∀ r n, 64 * (4 - e.dt) ≤ n → n < 256 → tget (0, none) (d.loom l.val).acc (256 * r + n) = (0, none)) ∧ s.loomsOnly d ∧ s.otherLooms d l.val
    (∀ (w : Nat) (e : AttEnv), s.issues l.val 0x50 c w → x.att = none → x.arr = none → x.arrNext = none →
      attEnv c (fresh (sampleOf x)) = some e → (e.qSlots s.toDev).Nodup → rdSlots c.stall x (e.qSlots s.toDev) = .ready →
      starts (sampleOf x) e (x.goto (nextPc x)).pc) ∧
    (∀ (p : Sample) (e : AttEnv), x.arrNext = some p → opc p.w = 0x50 → x.live = true → x.att = none → x.arr = none →
      attEnv c (fresh p) = some e → (e.qSlots s.toDev).Nodup → rdSlots c.stall x (e.qSlots s.toDev) = .ready → starts p e x.pc) ∧
    (∀ w : Nat, s.issues l.val 0x50 c w → x.att = none → x.arr ≠ none → x.arrNext = none →
      ∃ d, Runs (.att l) s d ∧ (d.loom l.val).arrNext = some (sampleOf x) ∧ (d.loom l.val).arr = x.arr ∧
        (d.loom l.val).pc = (x.goto (nextPc x)).pc ∧ s.loomsOnly d ∧ s.otherLooms d l.val) ∧
    (∀ (j : AttJob) (e : AttEnv), x.att = some j → attEnv c j = some e → x.live = true → x.noArrIssue 0x50 →
      let goes (j' : AttJob) : Prop := ∃ d, Runs (.att l) s d ∧ (d.loom l.val).att = some j' ∧ s.loomsOnly d ∧ s.otherLooms d l.val
      (e.paged = true → (x.walks = [] ∨ ∃ i, x.walks.head? = some i ∧ i.ready = false) → Runs (.att l) s s.toDev) ∧
      (∀ i : WalkInfo, e.paged = true → x.walks.head? = some i → i.ready = true → i.list = none →
        let lists (lst : List Nat) : Prop := ∃ d, Runs (.att l) s d ∧ (d.loom l.val).walks.head? = some { i with list := some lst } ∧
          (d.loom l.val).att = some j ∧ s.loomsOnly d ∧ s.otherLooms d l.val
        (attGnom e.w = false → lists (basicList (attSplit e.w) (attMask e.w) (attWin e.w) (e.qPos s.toDev (some i) 0) x.member c.st.m i)) ∧
        (attGnom e.w = true → i.cands.length ≤ i.scores.length →
          lists ((List.range i.pages).filter fun p => (i.always ++ takeBest (attWin e.w - i.always.length) i.scores).contains p))) ∧
      (∀ wk : Option WalkInfo, (e.paged = false ∧ wk = none ∨
          e.paged = true ∧ ∃ i, x.walks.head? = some i ∧ i.ready = true ∧ i.list ≠ none ∧ wk = some i) →
        (j.out = false → j.done = false →
          (j.closed = false → (j.kt ≠ 0 ∨ e.noMore wk = false ∧ j.gs.length ≠ 4 - e.dt) → ∀ (ks : List Nat) (g : KeyGroup),
            e.nextGroup s.toDev wk = some (ks, g) → rdSlot c.stall x (ks.getD j.kt 0) = .ready →
            ∃ sl st, goes { j with
              gs := if j.kt = 0 then j.gs ++ [g] else j.gs
              kt := if j.kt + 1 = e.dt then 0 else j.kt + 1
              group := if j.kt + 1 = e.dt then j.group + 1 else j.group, sawLast := sl, streams := st }) ∧
          (j.closed = false → j.kt = 0 → (e.noMore wk = true ∨ j.gs.length = 4 - e.dt) →
            ∃ j', goes j' ∧ j'.closed = true ∧ j'.gs = j.gs ∧ j'.vt = 0 ∧ j'.last = e.noMore wk ∧ (j'.skip = true → j'.m = j.m ∧ j'.l = j.l)) ∧
          (∀ g : KeyGroup, j.closed = true → j.vt < j.gs.length * e.dt → j.gs[j.vt / e.dt]? = some g →
            rdSlot c.stall x (g.vs.getD (j.vt % e.dt) 0) = .ready → goes { j with vt := j.vt + 1 }) ∧
          (j.closed = true → j.gs.length * e.dt ≤ j.vt → goes { j with
            gs := [], kt := 0, sawLast := false, closed := false, skip := false, alpha := [], ps := [], vt := 0, done := j.last })) ∧
        (j.out = false → j.done = true →
          let o := attOut s.toDev e wk
          rdSlots c.stall x ((List.range o.n).filterMap (attTy s.toDev e o)) = .ready →
          ∃ outs, goes { j with out := true, outs := outs } ∧ outs.length = o.n + if attSplit e.w then e.dt else 0) ∧
        (j.out = true →
          (x.canTake c 2 j.outs → (∀ i, wk = some i → i.summaries = []) →
            ∃ d, Runs (.att l) s d ∧ (d.loom l.val).att = none ∧ (d.loom l.val).took c j.outs ∧
              (d.loom l.val).walks = (if wk.isSome then x.walks.drop 1 else x.walks) ∧ s.loomsOnly d ∧ s.otherLooms d l.val) ∧
          (x.mustWait c 2 j.outs → goes j)))) ∧
    (∀ (w : Nat) (e : WalkEnv), s.issues l.val 0x60 c w → pickFN w = 4 → w < 2 ^ 64 → x.pick = none → x.pickNext = none →
      walkEnv c (walkJob s.toDev x c (sampleOf x)) = some e → e.r.type = 4 → (c.at_ s.toDev e.dd (sampleOf x) 0 0 0).1 < e.r.nseq →
      e.r.dt = pairedDt c x →
      ∃ d, Runs (.pickPageWalk l) s d ∧ (d.loom l.val).pick = some (walkJob s.toDev x c (sampleOf x)) ∧ (d.loom l.val).pickFn = 4 ∧
        (d.loom l.val).walkRun = (x.runSeq, x.walkNo + 1) ∧ (d.loom l.val).pc = (x.goto (nextPc x)).pc ∧ s.loomsOnly d ∧ s.otherLooms d l.val) ∧
    (∀ (j : PickJob) (e : WalkEnv), x.pick = some j → pickFN j.smp.w = 4 → x.live = true → walkEnv c j = some e → x.noPickIssue 4 →
      let dom := tget {} (s.stall c.stall).epochs e.r.dom
      (j.outs ≠ [] →
        (x.canTake c 4 j.outs → ∃ d, Runs (.pickPageWalk l) s d ∧ (d.loom l.val).pick = some { j with outs := [] } ∧ (d.loom l.val).took c j.outs ∧
          s.loomsOnly d ∧ s.otherLooms d l.val) ∧
        (x.mustWait c 4 j.outs → ∃ d, Runs (.pickPageWalk l) s d ∧ (d.loom l.val).pick = some j ∧ s.loomsOnly d ∧ s.otherLooms d l.val)) ∧
      (j.outs = [] → j.phase = .pin →
        let co := c.at_ s.toDev e.dd j.smp 0 0 0
        let seqVa := u64 (j.recs.getD 4 []) 0 % 2 ^ 52
        let s1 := (s.modStall c.stall fun y => { y with epochs := tset {} y.epochs e.r.dom { dom with pinCur := dom.pinCur + 1 } }).modLoom l.val
          fun y => { y with attEpoch := dom.epoch, attPinned := true, attPinDom := e.r.dom }
        ∀ (h : List Byte) (s2 : Dev), s1.tierRead c.stall c.src none seqVa 64 = .ok h s2 →
          u16 h 16 = 5 → co.2.2 < u16 h 10 → u32 h 0 + u32 h 4 ≤ 256 * u16 h 8 →
          ∃ d i, Runs (.pickPageWalk l) s d ∧ (d.loom l.val).pick = some { j with phase := .append } ∧
            (d.loom l.val).walks = x.walks ++ [i] ∧ i.epoch = dom.epoch ∧ i.sigma = co.1 ∧ i.plane = co.2.2 ∧
            i.len = u32 h 0 ∧ i.new_ = u32 h 4 ∧ tget {} (d.stall c.stall).epochs e.r.dom = { dom with pinCur := dom.pinCur + 1 }) ∧
      (∀ i : WalkInfo, j.outs = [] → x.walks.getLast? = some i →
        (j.phase = .append → (pickTSRC e.w = 0 ∨ i.new_ = 0) →
          ∃ d, Runs (.pickPageWalk l) s d ∧ (d.loom l.val).pick = some { j with phase := .deliver, next := 0 } ∧
            (d.loom l.val).walks.getLast? = some { i with ready := true, appended := [], summaries := [] } ∧ s.loomsOnly d ∧ s.otherLooms d l.val) ∧
        (∀ lst : List Nat, j.phase = .deliver → i.list = some lst → lst.length ≤ j.next / 4 →
          ∃ d, Runs (.pickPageWalk l) s d ∧ (d.loom l.val).pick = none ∧ (d.loom l.val).attPinned = false ∧
            tget {} (d.stall c.stall).epochs e.r.dom =
              (if dom.epoch = i.epoch then { dom with pinCur := dom.pinCur - 1 } else { dom with pinPrev := dom.pinPrev - 1 }) ∧
            d.mem = s.mem ∧ s.otherLooms d l.val)))

/-- A publication advances a domain's epoch only when no pin of the previous one is left: A write of E + 1 to
SCH_PGE_PUBLISH by a function that reaches an existing stall takes effect if PIN_PREV is zero: the value becomes E, the
old E's pins become PIN_PREV and PIN_CUR is zero. Any other write is discarded and REFUSED is set. Neither happens while
an earlier BAR4 write of the function has not landed. Other domains, stalls, looms and tiers stay as they are. It says
of each of these commands that exec answers a next state, and which: PGE_PUBLISH. -/
def Obligations.PageTablePublication : Prop :=
  ∀ (fn : FnId) (st : StallId) (dom : Fin 16) (v : W32) (s : State), (fn.val = 0 ∨ fn.val = st.val + 1) → s.hub.linkUp = true →
    let old := tget {} (s.stall st.val).epochs dom.val
    ((s.fn fn.val).wbuf = [] → (s.stallRec st.val ≠ none →
      ∃ d, Runs (.pgePublish fn st dom v) s d ∧
        (v = old.epoch + 1 ∧ old.pinPrev = 0 →
          tget {} (d.stall st.val).epochs dom.val = { old with epoch := v, pinPrev := old.pinCur, pinCur := 0 }) ∧
        (¬(v = old.epoch + 1 ∧ old.pinPrev = 0) → tget {} (d.stall st.val).epochs dom.val = { old with refused := true }) ∧
        (∀ i, i ≠ dom.val → tget {} (d.stall st.val).epochs i = tget {} (s.stall st.val).epochs i) ∧
        (∀ k, k ≠ st.val → d.stall k = s.stall k) ∧ d = { s.toDev with stalls := d.stalls }) ∧
      (s.stallRec st.val = none → Runs (.pgePublish fn st dom v) s s.toDev)) ∧
    ((s.fn fn.val).wbuf ≠ [] → Runs (.pgePublish fn st dom v) s s.toDev)

/-- PICK's gather, scatter-add, segment reduce and de-duplication: A PICK of each function is issued when its records
are in order, and the free picker takes it, with the member's share of the stream; while the picker is at work it waits.
A gather begins its next tile row once the row's first slot can be claimed and its index words are read, and ends when
every row is started and claimed and no line is outstanding; each line that arrives is counted and no longer
outstanding. A scatter-add passes over a padding tile row and ends after its last; a segment reduce opens the next
segment with the next offset; a de-duplication writes the block of a window with at most 192 distinct indices. It says
of each of these commands that exec answers a next state, and which: PICK_GATHER, PICK_SCATTER_ADD, PICK_SEGMENT_REDUCE,
PICK_DEDUPLICATE, PICK_LINE_ARRIVE. -/
def Obligations.PickerWords : Prop :=
  ∀ (l : LoomId) (s : State) (c : Ctx), s.ctx l.val = some c →
    let x := s.loom l.val
    (∀ (w : Nat) (di dd : Desc) (r : StreamRec), s.issues l.val 0x60 c w → w < 2 ^ 64 → x.pickNext = none → c.st.desc (pickTIDX w) = some di →
      streamRec (recLine x di) = some r → c.st.desc (pickTDST w) = some dd →
      let j : PickJob :=
        { smp := sampleOf x, recs := pickRecs x c w, b := pickBound r.count x.member c.st.m, e := pickBound r.count (x.member + 1) c.st.m,
          rows := ((r.count + 63) / 64 + c.st.m - 1) / c.st.m, pos := pickBound r.count x.member c.st.m }
      let starts (i : Instr) : Prop :=
        (x.pick = none → ∃ d, Runs i s d ∧ (d.loom l.val).pick = some j ∧ (d.loom l.val).pickFn = BitVec.ofNat 4 (pickFN w) ∧
          (d.loom l.val).pickRange = BitVec.ofNat 40 j.b ∧ (d.loom l.val).pc = (x.goto (nextPc x)).pc ∧ s.loomsOnly d ∧ s.otherLooms d l.val) ∧
        (∀ j0, x.pick = some j0 → pickFN j0.smp.w ≠ pickFN w → ∃ d, Runs i s d ∧ (d.loom l.val).pick = some j0 ∧ (d.loom l.val).pickNext = some j ∧
          (d.loom l.val).pc = (x.goto (nextPc x)).pc ∧ s.loomsOnly d ∧ s.otherLooms d l.val)
      (∀ ds t, pickFN w = 0 → c.st.desc (pickTSRC w) = some ds → tableRec (recLine x ds) = some t → dd.fmt = t.f.code → dd.scale = t.scale →
        starts (.pickGather l)) ∧
      (∀ t, pickFN w = 1 → tableRec (recLine x dd) = some t → t.plain = true → starts (.pickScatterAdd l)) ∧
      (∀ ds t dg g, pickFN w = 2 → c.st.desc (pickTSEG w) = some dg → streamRec (recLine x dg) = some g → tableRec (recLine x dd) = some t →
        c.st.desc (pickTSRC w) = some ds → (ds.kind ≠ 2 ∨ ∃ u, tableRec (recLine x ds) = some u ∧ u.colt = t.colt) → starts (.pickSegmentReduce l)) ∧
      (pickFN w = 3 → (dedupTable c j = false ∨ j.src ≠ none) → starts (.pickDeduplicate l))) ∧
    (∀ (i : Instr) (fn : Nat) (j : PickJob), (i, fn) ∈ [(Instr.pickGather l, 0), (.pickScatterAdd l, 1), (.pickSegmentReduce l, 2), (.pickDeduplicate l, 3)] →
      x.pick = none → x.pickNext = some j → pickFN j.smp.w = fn → x.live = true → Runs i s (s.startPick l.val j)) ∧
    (∀ (j : PickJob) (e : PickEnv), x.pick = some j → x.live = true → pickEnv c j = some e → x.noPickIssue (pickFN j.smp.w) →
      (∀ t : TableRec, pickFN j.smp.w = 0 → j.src = some t →
        (j.rows ≤ j.next → (t.colt ≤ j.cols ∨ j.rows = 0 ∧ j.next = 0) → j.todo = [] → j.pend = [] →
          ∃ d, Runs (.pickGather l) s d ∧ (d.loom l.val).pick = none ∧ s.loomsOnly d ∧ s.otherLooms d l.val) ∧
        (∀ (b : List Byte) (s1 : Dev), j.next < j.rows → (j.next = 0 ∨ t.colt ≤ j.cols) → gatherClaim x j (s.gatherSlot e j.next 0) = .ready →
          j.b + 64 * j.next < j.e →
          s.tierRead c.stall c.src none (e.idx.va + 4 * (j.b + 64 * j.next)) (4 * min 64 (j.e - (j.b + 64 * j.next))) = .ok b s1 →
          ∃ d, Runs (.pickGather l) s d ∧ ((d.loom l.val).pick = none ∨ ∃ j', (d.loom l.val).pick = some j' ∧ j'.next = j.next + 1)) ∧
        (∀ (k n ln : Nat) (b : List Byte) (s1 : Dev), j.pend[k]? = some (n, ln) → j.todo = [] → j.next < j.rows →
          s.tierRead c.stall c.src none ((tget {} j.fetches n).va + 64 * ln) 64 = .ok b s1 →
          ∃ d j', Runs (.pickLineArrive l k) s d ∧ (d.loom l.val).pick = some j' ∧ j'.pend = j.pend.eraseIdx k ∧
            d.counter l.val 16 = s1.counter l.val 16 + 1)) ∧
      (∀ t : TableRec, pickFN j.smp.w = 1 → j.dst = some t →
        (j.rows ≤ j.next → Runs (.pickScatterAdd l) s (s.setLoom l.val { x with pick := none })) ∧
        (j.next + 1 < j.rows → j.e ≤ j.b + 64 * j.next → j.winAcc = [] → rdSlots c.stall x (ringSlots s.toDev e t.colt j.next) = .ready →
          ∃ d, Runs (.pickScatterAdd l) s d ∧ (d.loom l.val).pick = some { j with next := j.next + 1 } ∧ s.loomsOnly d ∧ s.otherLooms d l.val)) ∧
      (∀ (t : TableRec) (dg : Desc) (g : StreamRec) (b : List Byte) (s1 : Dev), pickFN j.smp.w = 2 → j.dst = some t → c.st.desc (pickTSEG j.smp.w) = some dg →
        j.offs = some g → j.phase = .append → j.open_ = false →
        (if x.member + 1 = c.st.m then j.seg < g.count - 1 else max j.lo j.b < j.e) →
        s.tierRead c.stall c.src none (g.va + 4 * (j.seg + 1)) 4 = .ok b s1 → j.lo ≤ u32 b 0 →
        (x.member + 1 = c.st.m → j.seg + 1 = g.count - 1 → u32 b 0 = e.idx.count) → (j.split j.lo (u32 b 0) = true → t.plain = true) →
        ∃ d, Runs (.pickSegmentReduce l) s d ∧ (d.loom l.val).pick =
          some { j with open_ := true, hi := u32 b 0, terms := 0, acc := segInit (pickRED j.smp.w) t.cols }) ∧
      (∀ (b : List Byte) (s1 : Dev),
        let p0 := j.b + 256 * j.next
        let n := min 256 (j.e - p0)
        let ws := (List.range n).map fun i => let w := u32 b (4 * i); if w = 0xFFFFFFFF ∨ dedupRows c j ≤ w then none else some w
        pickFN j.smp.w = 3 → 0 < n → p0 + 256 < j.e → s.tierRead c.stall c.src none (e.idx.va + 4 * p0) (4 * n) = .ok b s1 →
        ((ws.filterMap id).eraseDups).length ≤ 192 →
        ∃ d, Runs (.pickDeduplicate l) s d ∧ (d.loom l.val).pick = some { j with next := j.next + 1, block := j.block + 1 } ∧
          benchBytes (d.loom l.val) (8192 * e.ddst.base + 64 + 1088 * (j.block % ((8192 * e.ddst.depth - 64) / 1088))) 1088 = dedupBlock j.next 0 ws))

/-- Line accesses of a loom: A line reduce by a loom of a stall, to a writable and mapped line that can be read, is
carried out: the tiers then hold the combined line, and the reduce is counted. So is a write of part of a line. A Store
line is read through its Shelf, or written whole, and then holds what was written; an uncorrectable line that no Shelf
holds, read by a loom, is poisoned and faults the loom with LOM_TIER_FAULT kind 4. An unmapped VA faults the loom with
kind 1, a write to a read-only region with kind 2, and changes no memory. It says of each of these commands that exec
answers a next state, and which: LINE_REDUCE, LINE_PARTIAL_WRITE, STORE_LINE_ACCESS, SHELF_ACCESS. -/
def Obligations.LineAccesses : Prop :=
  ∀ (l : LoomId) (va : BitVec 52) (s : State) (k : Nat), s.loomStall l.val = some k →
    let src := some l.val
    let op := s.accessOp l.val
    let calm (t : Dev) : Dev := t.resumes l.val op
    (∀ (r : Region) (b g : Nat) (loc : Loc) (red : RedOp) (fp16 : Bool) (contrib : List W16) (line : List Byte) (s1 : Dev),
      s.xlate k va.toNat = .at_ r b g loc → r.write = true → quireBusy (s.stall k).quire.state = false → s.locRead k r loc r.hint = (some line, s1) →
      line.length = 64 → va.toNat % 64 + 2 * contrib.length ≤ 64 →
      ∃ d, Runs (.lineReduce l va red fp16 (contrib, .clean)) s d ∧ (∀ i, (d.loom i).fault = (s1.loom i).fault) ∧
        d.counter l.val 17 = s1.counter l.val 17 + 1 ∧
        (let f : Fmt := if fp16 then .fp16 else .bf16
         d.peekLine loc = some (reduceLine red f (headSpecial ((s.loom l.val).draft.headD 0)) line (va.toNat % 64)
           (contrib.map fun c => .ok (f.value false c.toNat))).1)) ∧
    (∀ (data : List Byte) (ecc : LineEcc) (u : Unit) (s1 : Dev), ecc = .clean ∨ data.length = 64 → s.tierWrite k src none false va.toNat data = .ok u s1 →
      Runs (.linePartialWrite l va (data, ecc)) s (calm s1)) ∧
    (∀ (r : Region) (b g st a : Nat), s.xlate k va.toNat = .at_ r b g (.store st a) → va.toNat % 64 = 0 →
      (∀ (data : List Byte) (ecc : LineEcc), r.write = true → quireBusy (s.stall k).quire.state = false → data.length = 64 →
        ∃ d, Runs (.storeLineAccess l va (some data) ecc) s d ∧ (d.peekLine (.store st a)).map (·.take 64) = some data ∧
          ∀ i, (d.loom i).fault = (s.loom i).fault) ∧
      (r.write = false → ∀ (data : List Byte) (ecc : LineEcc), data ≠ [] → Runs (.storeLineAccess l va (some data) ecc) s (s.tierFault l.val op va.toNat 2)) ∧
      (∀ (line : List Byte) (s1 : Dev), s.shelfRead k r st (a / 64) r.hint = (some line, s1) →
        Runs (.storeLineAccess l va none .clean) s (calm (s1.lineTraffic k src (.store st a) false))) ∧
      (storePoisoned s.mem st (a / 64) = false → (s.shelfLines (st / 3)).any (fun x => x.line == shelfLineKey st (a / 64) && !x.released) = false →
        reserveFrame st (64 * (a / 64) / frameSz) = false → (s.loom l.val).fault.faulted = false → (s.loom l.val).tierFault.valid = false →
        ∃ d, Runs (.storeLineAccess l va none .uncorrectable) s d ∧ storePoisoned d.mem st (a / 64) = true ∧
          (d.loom l.val).fault.faulted = true ∧ (d.loom l.val).fault.cause = 6 ∧ (d.loom l.val).tierFault = { va := va, kind := 4, valid := true }) ∧
      (∀ (hint : BitVec 2) (line : List Byte) (s1 : Dev), s.shelfRead k r st (a / 64) hint.toNat = (some line, s1) →
        Runs (.shelfAccess l va hint none .clean) s (calm (s1.lineTraffic k src (.store st a) false))) ∧
      (∀ (hint : BitVec 2) (data : List Byte) (s1 : Dev), r.write = true → quireBusy (s.stall k).quire.state = false → data.length = 64 →
        s.shelfWrite k r st (a / 64) hint.toNat 0 data = (true, s1) →
        Runs (.shelfAccess l va hint (some data) .clean) s (calm ((s1.markWrite k r b g).lineTraffic k src (.store st a) true)))) ∧
    (s.xlate k va.toNat = .unmapped → ∀ (hint : BitVec 2) (ecc : ShelfEcc),
      Runs (.shelfAccess l va hint none ecc) s (s.tierFault l.val op va.toNat 1))

/-- APX takes its partial number and combines P partials into one tile: An APX issues when none is in progress, with the
next partial number of its run. Once its P partials (and their (m, l) tiles) stand ready, name one output tile and its
slot can be claimed, the output slot holds what the apex makes of them, with V, O, U and X of the partials in its
selvedge, LOM_CNT_APX_PARTIALS counts P, and the APX is over; partials that name different tiles fault the loom with
CAUSE 5. It says of each of these commands that exec answers a next state, and which: APX, APX_COMBINE. -/
def Obligations.ApexWords : Prop :=
  ∀ (l : LoomId) (s : State) (c : Ctx), s.ctx l.val = some c →
    let x := s.loom l.val
    (∀ w, s.issues l.val 0x70 c w → x.apx = none →
      let run := tget (0, 0) x.apxRun (apxTIN w)
      let n := if run.1 = x.runSeq + 1 then run.2 else 0
      ∃ d, Runs (.apx l) s d ∧ (d.loom l.val).apx = some { smp := sampleOf x, j := n } ∧ (d.loom l.val).pc = (x.goto (nextPc x)).pc ∧
        tget (0, 0) (d.loom l.val).apxRun (apxTIN w) = (x.runSeq + 1, n + 1) ∧ s.loomsOnly d ∧ s.otherLooms d l.val) ∧
    (∀ (j : ApxJob) (di dz : Desc), x.apx = some j → x.live = true → c.st.desc (apxTIN j.smp.w) = some di → c.st.desc (apxTOUT j.smp.w) = some dz →
      let dm := (c.st.desc (apxTML j.smp.w)).getD di
      let ins := apxIns di j
      let read := ins ++ apxMls di dm j
      let slot := ringSlot dz (c.at_ s.toDev dz j.smp 0 0 0)
      let same := ins.all (fun i => tagCoord (x.slot i).tag == tagCoord (x.slot (ins.headD 0)).tag)
      rdSlots c.stall x read = .ready →
      (same = false → Runs (.apxCombine l) s (s.faultLoom l.val 5 0 0 0 j.smp.op)) ∧
      (same = true → wrSlots x 3 [slot] = .ready →
        let o := apxOut c { s.toDev with freeCtr := s.freeCtr + 1 } di dm dz j s.freeCtr
        ∃ d, Runs (.apxCombine l) s d ∧ (d.loom l.val).apx = none ∧ readable (d.loom l.val) slot = true ∧
          benchBytes (d.loom l.val) (8192 * slot) o.data.length = o.data ∧
          ((d.loom l.val).slot slot).tag = apxTag o c.stall (read.map fun i => (x.slot i).tag) ∧
          d.counter l.val 58 = s.counter l.val 58 + BitVec.ofNat 64 (apxP j.smp.w) ∧ s.loomsOnly d ∧ s.otherLooms d l.val))

/-- Each XFER collective issues, goes on step by step, and ends or aborts: An XFER of each of the seven collectives
issues when its group is in force with a route to every rank it sends to, and starts the sends and writes that the
collective gives this member. A granted tile is sent and counted; with nothing left it ends; the acknowledgement of its
last send of a slot completes that slot's read. If its group is no longer in force it is aborted and counted. It says of
each of these commands that exec answers a next state, and which: XFER_SEND, XFER_RECV, XFER_ALL_REDUCE,
XFER_REDUCE_SCATTER, XFER_ALL_GATHER, XFER_BROADCAST, XFER_ALL_TO_ALL, TILE_ACK. -/
def Obligations.XferWords : Prop :=
  ∀ (l : LoomId) (s : State) (c : Ctx), s.ctx l.val = some c →
    let x := s.loom l.val
    (∀ (i : Instr) (coll : Nat), (i, coll) ∈ [(Instr.xferSend l, 0), (.xferRecv l, 1), (.xferAllReduce l, 2), (.xferReduceScatter l, 3),
        (.xferAllGather l, 4), (.xferBroadcast l, 5), (.xferAllToAll l, 6)] →
      (∀ (w : Nat) (e : XferEnv), s.issues l.val 0x80 c w → xferColl w = coll → x.xfer = none → s.xferEnv c (sampleOf x) = some e →
        (coll = 5 → if e.rank = 0 then xferTX w ≠ 0 else xferTZ w ≠ 0) → e.g.axis = xferAxis w → (∀ r, (e.g.routes.getD r (some (false, 0))).isSome = true) →
        ∃ d, Runs i s d ∧ (d.loom l.val).xfer = some (e.job s.toDev) ∧ (d.loom l.val).pc = (x.goto (nextPc x)).pc ∧
          s.loomsOnly d ∧ s.otherLooms d l.val) ∧
      (∀ j : XferJob, x.xfer = some j → xferColl j.smp.w = coll → x.live = true → j.aborted = false →
        (s.xferEnv c j.smp = none → ∃ d, Runs i s d ∧ (∃ j', (d.loom l.val).xfer = some j' ∧ j'.aborted = true ∧ j'.outs = []) ∧
          d.counter l.val 57 = s.counter l.val 57 + 1 ∧ j.smp.runSeq ∈ (d.loom l.val).excRuns) ∧
        (∀ e, s.xferEnv c j.smp = some e → x.xferIn = [] → j.own = [] →
          (j.outs = [] → j.toWrite = [] → Runs i s (s.setLoom l.val { x with xfer := none })) ∧
          (∀ o, j.outs.find? (fun o => o.st == SendSt.granted) = some o → ∃ d, Runs i s d ∧
            (d.loom l.val).xfer = some { j with outs := j.outs.map (fun q => if q = o then { o with st := .sent } else q) } ∧
            d.counter l.val 55 = s.counter l.val 55 + 1)))) ∧
    (∀ (minus : Bool) (j : XferJob) (o : XferOut) (i : Nat), x.xfer = some j → j.outs.find? (fun o => o.st == .sent && o.minus == minus) = some o →
      o.tx = some i → (j.outs.erase o).any (fun q => q.tx == some i) = false → (x.slot i).state = .full → (x.slot i).readers ≤ 1 →
      ∃ d, Runs (.tileAck (.remote l minus)) s d ∧ (d.loom l.val).xfer = some { j with outs := j.outs.erase o, rel := j.rel.erase i } ∧
        (d.loom l.val).slot i = {} ∧ s.loomsOnly d ∧ s.otherLooms d l.val)

/-- TIER words and the route card's walk: A TIER word of each function issues when none is in progress and its fields
are in order; FOLLOW joins or begins its station's pass. A raw FETCH copies the region's bytes into Bench and ends;
WRITE_BACK ends when no granule of its region is being written back, MIGRATE when no block of its region is called up.
The walker starts the lowest position within its entry's lead of the frontier; an entry whose every member has done its
share is complete, and the last one ends the pass on every member. It says of each of these commands that exec answers a
next state, and which: TIER_FOLLOW, TIER_FETCH, TIER_WRITE_BACK, TIER_MIGRATE, ROUTE_ENTRY_START, ROUTE_ENTRY_COMPLETE.
-/
def Obligations.TierWords : Prop :=
  ∀ (l : LoomId) (s : State) (c : Ctx), s.ctx l.val = some c →
    let x := s.loom l.val
    (∀ w, s.issues l.val 0x90 c w → x.tier = none →
      let starts (i : Instr) : Prop := ∃ d, Runs i s d ∧ (d.loom l.val).tier = some { smp := sampleOf x } ∧
        (d.loom l.val).pc = (x.goto (nextPc x)).pc ∧ d.mem = s.mem ∧ s.otherLooms d l.val
      (tierFN w = 0 → starts (.tierFollow l)) ∧
      (tierFN w = 1 → tierEntry w = 0 → starts (.tierFetch l)) ∧
      (tierFN w = 2 → tierEntry w = 0 → tierTZ w = 0 → tierHint w = 0 → starts (.tierWriteBack l)) ∧
      (tierFN w = 3 → tierEntry w = 0 → tierTZ w = 0 → tierHint w = 0 → (∃ r, c.plan.region (tierRegion w) = some r ∧ r.cellar = true) →
        starts (.tierMigrate l))) ∧
    (∀ (j : TierJob) (r : Region), x.tier = some j → x.live = true → s.regionOf c.stall (tierRegion j.smp.w) = some r →
      (∀ (dz : Desc) (b : List Byte) (s1 : Dev), tierFN j.smp.w = 1 → c.st.desc (tierTZ j.smp.w) = some dz → dz.kind = 2 →
        s.tierRead c.stall c.src (some (tierHint j.smp.w)) r.va (min r.len (8192 * dz.depth)) = .ok b s1 →
        ∃ d, Runs (.tierFetch l) s d ∧ (d.loom l.val).tier = none ∧ benchBytes (d.loom l.val) (8192 * dz.base) b.length = b) ∧
      (tierFN j.smp.w = 2 → j.next ≠ 0 → s.noneMoving c.stall r .writingBack = true →
        Runs (.tierWriteBack l) s (s.setLoom l.val { x with tier := none })) ∧
      (tierFN j.smp.w = 3 → s.noGuests c.stall r = true → Runs (.tierMigrate l) s (s.setLoom l.val { x with tier := none }))) ∧
    (∀ (k : Nat) (q : PassSt) (p : StallPlan) (i e : Nat), s.passOf l.val = some (k, q) → (s.stall k).plan = some p → x.live = true →
      routeAt p (passEntry p q) i = some e → (∀ re, p.route[e]? = some re → re.action < 2 ∧ i < q.frontier + leadOf (s.stall k) e re) →
      (∃ re, p.route[e]? = some re) → i < passLen p (passEntry p q) →
      (∀ m, m ≤ i → (m = i ↔ ∀ y ∈ q.entries, y.pos ≠ m)) →
      Runs (.routeEntryStart l) s (s.setPass k { q with entries := q.entries ++ [{ pos := i, entry := e, late := decide (i < q.frontier) }] })) ∧
    (∀ (k : Nat) (q : PassSt) (p : StallPlan) (t : Station) (y : RoutePos) (re : RouteEntry), s.passOf l.val = some (k, q) → (s.stall k).plan = some p →
      p.station q.station = some t → q.entries.find? (fun y => !y.complete && t.looms.all (fun m => y.done.contains m)) = some y →
      p.route[y.entry]? = some re →
      ∃ d, Runs (.routeEntryComplete l) s d ∧ d.mem = s.mem ∧
        (let lead := leadOf (s.stall k) y.entry re
         tget 0 (d.stall k).leads y.entry = if y.late then re.lead else if q.frontier < y.pos then max 1 (lead - 1) else lead) ∧
        (passLen p (passEntry p q) ≤ ((q.entries.map fun z => if z.pos = y.pos then { z with complete := true } else z).filter (·.complete)).length →
          ∀ m ∈ t.looms, (d.loom m).tier = none))

/-- Plan commands are accepted, or discarded with CMD_LOST: A load of a stall's plan or of the device plan, by a
function that reaches it and whose earlier BAR4 writes have landed, is accepted while no command of that target is held:
it waits, in order, behind the commands already accepted; otherwise it is discarded and CMD_LOST is set. A stall's
unload with no device command and no wave in progress and the scheduler core running goes through at once: the stall
holds no plan, its fault is clear and its runs' hoppers are empty. A device unload goes through when no stall holds,
releases or changes a plan and no command is held. It says of each of these commands that exec answers a next state, and
which: PLAN_LOAD, PLAN_UNLOAD, DPLAN_LOAD, DPLAN_UNLOAD. -/
def Obligations.PlanCommandsAreAccepted : Prop :=
  ∀ s : State, s.hub.linkUp = true →
    (∀ (fn : FnId) (st : StallId), (fn.val = 0 ∨ fn.val = st.val + 1) → (s.fn fn.val).wbuf = [] →
      let x := s.stall st.val
      (x.blk.state.busy = true →
        Runs (.planLoad fn st) s (s.setStall st.val { x with blk := { x.blk with cmdLost := true } }) ∧
        Runs (.planUnload fn st) s (s.setStall st.val { x with blk := { x.blk with cmdLost := true } })) ∧
      (x.blk.state.busy = false →
        Runs (.planLoad fn st) s ((s.setStall st.val { x with blk := { x.blk with state := .waiting, prev := x.blk.state, issuer := fn.val } }).modHub
          fun h => { h with held := h.held ++ [{ tgt := st.val + 1, unload := false }] })) ∧
      (∀ p, x.blk.state = .loaded → x.plan = some p → s.devInProgress = false → s.tally.busy = false → s.coreUp 2 = true →
        s.links.grants = [] → s.links.reqs = [] →
        ∃ d, Runs (.planUnload fn st) s d ∧ (d.stall st.val).plan = none ∧ (d.stall st.val).blk.state = .none ∧ (d.stall st.val).blk.digest = 0 ∧
          (d.stall st.val).faulted = false ∧ (∀ h ∈ (runHops p).filterMap (s.hopOf st.val), d.hopper h = []) ∧
          (∀ l ∈ s.stallLooms st.val, (d.loom l).draft = [] ∧ (d.loom l).running = false) ∧ (∀ l, l ∉ s.stallLooms st.val → d.loom l = s.loom l) ∧
          (∀ c ∈ d.hub.held, c.tgt ≠ st.val + 1) ∧ d.mem.store = s.mem.store)) ∧
    ((s.fn 0).wbuf = [] →
      (s.hub.dblk.state.busy = false →
        Runs .dplanLoad s (s.modHub fun h => { h with
          dblk := { h.dblk with state := .waiting, prev := h.dblk.state, issuer := 0 }, held := h.held ++ [{ tgt := 0, unload := false }] })) ∧
      (s.hub.dblk.state.busy = true → Runs .dplanLoad s (s.modHub fun h => { h with dblk := { h.dblk with cmdLost := true } })) ∧
      (s.hub.dblk.state = .loaded → s.hub.held = [] →
        (∀ e ∈ s.stalls, e.2.blk.state ≠ .loaded ∧ e.2.blk.state ≠ .failed ∧ e.2.blk.state.busy = false ∧ e.2.zeroing = []) →
        ∃ d, Runs .dplanUnload s d ∧ d.hub.devPlan = none ∧ d.hub.dblk.state = .none ∧ d.hub.dblk.planId = 0 ∧ d.looms = s.looms ∧ d.mem = { s.mem with regs := d.mem.regs }))

/-- A waiting plan is checked and either refused or verified: When both cores run and no earlier command holds it back,
a waiting load is checked against the conditions of the loader: refused, its target goes back to its former state with
the first failing condition in SCH_PLAN_FAIL and is no longer held; in order, it is VERIFYING with the parsed plan at
hand. Nothing of the stall's plan, looms or memory changes. It says of each of these commands that exec answers a next
state, and which: PLAN_VERIFY. -/
def Obligations.PlanChecksDecide : Prop :=
  ∀ (st : StallId) (s : State),
    let t : PlanTarget := .stall st
    let x := s.stall st.val
    x.blk.state = .waiting → (∃ c ∈ s.hub.held, c.tgt = st.val + 1 ∧ c.unload = false ∧ c.verified = false) → s.mayVerify t = true →
    s.coreUp 0 = true → s.coreUp 2 = true →
    (∀ f, planRefuse (s.planEnv t) (s.staged t) = some f →
      ∃ d, Runs (.planVerify t) s d ∧ (d.stall st.val).blk.state = x.blk.prev ∧ (d.stall st.val).blk.fail = f ∧ (d.stall st.val).plan = x.plan ∧
        (∀ c ∈ d.hub.held, c.tgt ≠ st.val + 1) ∧ (∀ k, k ≠ st.val → d.stall k = s.stall k) ∧ d.looms = s.looms ∧ d.mem = s.mem) ∧
    (planRefuse (s.planEnv t) (s.staged t) = none →
      ∃ d, Runs (.planVerify t) s d ∧ (d.stall st.val).blk.state = .verifying ∧ (d.stall st.val).cand = some (parseStallPlan (s.staged t)) ∧
        (d.stall st.val).plan = x.plan ∧ (∀ c ∈ d.hub.held, c.tgt = st.val + 1 → c.verified = true) ∧
        (∀ k, k ≠ st.val → d.stall k = s.stall k) ∧ d.looms = s.looms ∧ d.mem = s.mem)

/-- A verified plan is placed and takes force; released capacity is zeroed: A verified stall plan enters placement once
no wave is in progress, out of the tally. When its regions can be placed and no draft is refused it takes force: the
stall is LOADED with the plan's digest, not faulted, its card has no history, and every loom of its stations holds its
station's draft. A verified device plan takes force with its digest. Released capacity becomes zero and free once the
regulators have served its traffic. It says of each of these commands that exec answers a next state, and which:
PLAN_PLACE, PLAN_REGIONS, CAPACITY_ZERO_COMPLETE. -/
def Obligations.PlansTakeForce : Prop :=
  (∀ (st : StallId) (s : State) (c : HeldCmd), s.hub.held.find? (fun c => c.tgt == st.val + 1) = some c → c.unload = false → c.verified = true →
    (s.stall st.val).blk.state = .verifying → s.tally.busy = false → s.coreUp 2 = true → (s.stall st.val).plan = none →
    Runs (.planPlace (.stall st)) s (s.setStall st.val
      { s.stall st.val with outOfTally := true, blk := { (s.stall st.val).blk with state := .placing } })) ∧
  (∀ (s : State) (c : HeldCmd) (p : DevPlan), s.hub.held.find? (fun c => c.tgt == 0) = some c → c.unload = false → c.verified = true →
    s.coreUp 2 = true → s.hub.dcand = some p →
    ∃ d, Runs (.planPlace .device) s d ∧ d.hub.devPlan = some p ∧ d.hub.dblk.state = .loaded ∧ d.hub.dblk.digest = p.digest ∧ d.mem.store = s.mem.store) ∧
  (∀ (st : StallId) (s : State) (p : StallPlan) (bs : List (Nat × Block)) (m : MemSt),
    let k := st.val
    (s.stall k).cand = some p → (s.stall k).blk.state = .placing → s.coreUp 2 = true →
    (∀ r, s.stallRec k = some r → ∀ c, c < 96 → r.clusters.getLsbD c = true → s.coreUp (16 + c) = true) →
    placeRegions (s.newRegions k p.regions)
      (((s.regions k).filter (fun r => !p.regions.any (sameRegion r))).foldl (fun t r => t.releaseRegion k r) s.toDev).mem = some (bs, m) →
    draftFailures p = [] → s.hub.moduleFault = false → s.power.dark = [] → s.fw.held = [] →
    ∃ d, Runs (.planRegions st) s d ∧ (d.stall k).plan = some p ∧ (d.stall k).blk.state = .loaded ∧ (d.stall k).blk.digest = p.digest ∧
      (d.stall k).faulted = false ∧ (d.stall k).leads = [] ∧ (∀ c ∈ d.hub.held, c.tgt ≠ k + 1) ∧
      ((p.stations.flatMap (·.looms)).Nodup → ∀ t ∈ p.stations, ∀ l ∈ t.looms,
        (d.loom l).draft = t.draft ∧ (d.loom l).station = some t.num ∧ (d.loom l).role = t.role ∧ (d.loom l).fault = {}) ∧
      (∀ i, i ≠ k → d.stall i = s.stall i)) ∧
  (∀ (st : StallId) (s : State), (s.stall st.val).zeroing ≠ [] → s.zeroServed st.val = true → s.hub.dblk.state ≠ .unloading →
    ∃ d, Runs (.capacityZeroComplete st) s d ∧ (d.stall st.val).zeroing = [] ∧ (∀ k, k ≠ st.val → d.stall k = s.stall k) ∧
      d.mem = (s.stall st.val).zeroing.foldl (fun m z => freePlace (zeroPlace m z) z.1 z.2.1 z.2.2.1 z.2.2.2) s.mem ∧ d.looms = s.looms)

/-- A regulator is work-conserving and serves by weight: At every regulator but a link's, and outside the Store
regulator's device slice, a unit goes to a stall that has one waiting and a weight there whenever such a stall exists;
only that stall's count falls, by one. With no such stall a device unit is served if one waits, and nothing changes
otherwise. A faulted stall with nothing left waiting at a regulator leaves it. It says of each of these commands that
exec answers a next state, and which: REGULATOR_SERVE, WEIGHT_WITHDRAW. -/
def Obligations.RegulatorsServeInTurn : Prop :=
  ∀ (u : RegUnit) (s : State), (∀ i, u ≠ .link i) →
    let i := regKey u
    let r := s.reg i
    let wants (k : Nat) : Prop := k < 96 ∧ 0 < tget 0 r.waiting k ∧ 0 < s.weightAt u k
    (r.sinceDevice < 65536 →
      ((∃ k, wants k) → ∃ d k, wants k ∧ Runs (.regulatorServe u) s d ∧ tget 0 (d.reg i).waiting k = tget 0 r.waiting k - 1 ∧
        (∀ j, j ≠ k → tget 0 (d.reg i).waiting j = tget 0 r.waiting j) ∧ (d.reg i).pos = k ∧ (∀ j, j ≠ i → d.reg j = s.reg j) ∧
        d.mem.store = s.mem.store ∧ d.looms = s.looms ∧ d.stalls = s.stalls) ∧
      ((∀ k, ¬wants k) → 0 < tget 0 r.waiting 96 → ∃ d, Runs (.regulatorServe u) s d ∧ tget 0 (d.reg i).waiting 96 = tget 0 r.waiting 96 - 1 ∧
        (∀ j, j ≠ 96 → tget 0 (d.reg i).waiting j = tget 0 r.waiting j)) ∧
      ((∀ k, ¬wants k) → tget 0 r.waiting 96 = 0 → Runs (.regulatorServe u) s s.toDev)) ∧
    (∀ st : StallId, (s.stall st.val).faulted = true → tget 0 r.waiting st.val = 0 → st.val ∉ r.withdrawn →
      ∃ d, Runs (.weightWithdraw st u) s d ∧ st.val ∈ (d.reg i).withdrawn ∧ (∀ j, j ≠ i → d.reg j = s.reg j) ∧
        ((∀ j ∈ allRegs, j ≠ i → st.val ∈ (s.reg j).withdrawn) → i ∈ allRegs → (d.stall st.val).withdrawn = true))

/-- Granules are called up, written back, put down and relocated: With no host write waiting: the lowest granule being
called up, from a port in service, becomes present and clean, and every line of it that can be read in Cellar stands in
its guest frame; a granule being written back becomes clean and still; one being put down becomes absent. A block on a
retiring frame that may migrate has its next granule moved to its fresh home. It says of each of these commands that
exec answers a next state, and which: CALLUP_GRANULE, GRANULE_WRITEBACK, GRANULE_PUT_DOWN, FRAME_RELOCATE. -/
def Obligations.CalledUpGranules : Prop :=
  ∀ (st : StallId) (region : BitVec 12) (block : BitVec 32) (s : State) (r : Region),
    let k := st.val
    let b := block.toNat
    let x := s.block k r.num b
    s.regionOf k region.toNat = some r → (∀ e ∈ s.hub.fns, e.2.wbuf = []) →
    (∀ (g gs gf : Nat) (hp : Place), x.waitPool = false → r.cellar = true → (List.range 32).find? (fun g => tget .still x.moving g == .callingUp) = some g →
      x.home = some hp → x.guest = some (gs, gf) → s.mem.portUp (celPortOf s.mem r b) = true →
      ∃ d, Runs (.callupGranule st region block) s d ∧
        d.block k r.num b = { x with present := setBit x.present g, dirty := clrBit x.dirty g, moving := tset .still x.moving g .still } ∧
        (∀ (i : Nat) (line : List Byte), i < 1024 → s.peekLine (homeLoc s.mem r b hp (65536 * g + 64 * i)) = some line →
          lineOfStore d.mem gs ((frameSz * gf + (65536 * g + 64 * i)) / 64) = line) ∧
        d.mem.cellar = s.mem.cellar ∧ d.looms = s.looms ∧ (∀ j, j ≠ k → d.stall j = s.stall j)) ∧
    (∀ g : Fin 32, tget .still x.moving g.val = .writingBack → s.mem.portUp (celPortOf s.mem r b) = true → x.home.isSome = true → x.guest.isSome = true →
      ∃ d, Runs (.granuleWriteback st region block g) s d ∧
        d.block k r.num b = { x with dirty := clrBit x.dirty g.val, moving := tset .still x.moving g.val .still } ∧ d.looms = s.looms ∧
        (∀ j, j ≠ k → d.stall j = s.stall j)) ∧
    (∀ g : Fin 32, tget .still x.moving g.val = .puttingDown → x.dirty.getLsbD g.val = false → clrBit x.present g.val ≠ 0 →
      ∃ d, Runs (.granulePutDown st region block g) s d ∧
        d.block k r.num b = { x with present := clrBit x.present g.val, moving := tset .still x.moving g.val .still } ∧ d.mem.store = s.mem.store ∧
        d.looms = s.looms) ∧
    (∀ (hp fp : Place) (g : Nat), x.home = some hp → x.fresh = some fp → r.cellar = false → r.migrate = true → onRetiring s.mem r b hp = true →
      (List.range 32).find? (fun g => !x.moved.getLsbD g) = some g → setBit x.moved g ≠ BitVec.allOnes 32 →
      ∃ d, Runs (.frameRelocate st region block) s d ∧ d.block k r.num b = { x with moved := setBit x.moved g } ∧ d.looms = s.looms)

/-- The scrub, a stack going out of service, and Cellar ports: The scrub of a stack in service goes on to its next line,
and back to the first after the last, and a clean line leaves memory as it is. A stack that goes out of service is a
module fault. A Cellar port in service fails; a failed one is put back into service by the running management core. It
says of each of these commands that exec answers a next state, and which: SCRUB_LINE, STACK_OUT, CELLAR_PORT_FAIL,
CELLAR_PORT_RESTORE. -/
def Obligations.TierUnitEvents : Prop :=
  ∀ s : State,
    (∀ (st : StackId) (n : Nat), (s.mem.stack st.val).state = .inService →
      (∃ d, Runs (.scrubLine st .clean n) s d ∧ (d.mem.stack st.val).scrubAt = (if (s.mem.stack st.val).scrubAt + 1 = 2 ^ 31 then 0 else (s.mem.stack st.val).scrubAt + 1) ∧
        d.mem.store = s.mem.store ∧ (d.mem.stack st.val).poison = (s.mem.stack st.val).poison ∧ (∀ i, i ≠ st.val → d.mem.stack i = s.mem.stack i) ∧ d.looms = s.looms) ∧
      (∃ d, Runs (.stackOut st) s d ∧ (d.mem.stack st.val).state = .out ∧ d.hub.moduleFault = true ∧ d.mem.store = s.mem.store ∧
        (∀ p, s.hub.devPlan = some p → ∀ r ∈ p.stalls, (d.stall r.stall).faulted = true))) ∧
    (∀ p : CelPortId,
      (s.mem.portUp p.val = true → ∃ d, Runs (.cellarPortFail p) s d ∧ tget .absent d.mem.celState p.val = .failed ∧ d.mem.cellar = s.mem.cellar ∧ d.looms = s.looms) ∧
      (tget .absent s.mem.celState p.val = .failed → s.coreUp 3 = true → (∀ e ∈ s.hub.fns, e.2.wbuf = []) →
        Runs (.cellarPortRestore p) s (s.modMem fun m => { m with celState := tset .absent m.celState p.val .inService })))

/-- A stall fault freezes the stall, ends its runs with status 2 and is logged: A cause of R363 that holds for an
existing stall that is not faulted latches FAULTED and the cause and freezes every loom of the stall and no other. A
module fault that comes newly, of a base die or ring stretch lost, faults every existing stall. A running scheduler core
then ends the faulted stall's runs in progress and notifies once; memory and plan stay. It says of each of these
commands that exec answers a next state, and which: STALL_FAULT, FAULT_NOTIFY. -/
def Obligations.StallFaults : Prop :=
  ∀ (st : StallId) (s : State),
    (∀ c : StallCause, s.stallExists st.val = true → s.causeHolds st.val c = true → (s.stall st.val).faulted = false →
      ∃ d, Runs (.stallFault st c) s d ∧ (d.stall st.val).faulted = true ∧ (d.stall st.val).cause = BitVec.ofNat 3 (causeCode c).1 ∧
        (∀ l ∈ s.stallLooms st.val, (d.loom l).frzFault = true) ∧ (∀ l, l ∉ s.stallLooms st.val → d.loom l = s.loom l) ∧
        (d.stall st.val).plan = (s.stall st.val).plan ∧ (∀ k, k ≠ st.val → d.stall k = s.stall k) ∧ d.mem.store = s.mem.store ∧ d.mem.cellar = s.mem.cellar) ∧
    (s.hub.moduleFault = false →
      ∃ d, Runs (.stallFault st .moduleFault) s d ∧ d.hub.moduleFault = true ∧ d.mem.store = s.mem.store ∧
        (∀ p, s.hub.devPlan = some p → ∀ r ∈ p.stalls, (d.stall r.stall).faulted = true)) ∧
    ((s.stall st.val).faulted = true → (s.stall st.val).notified = false → s.coreUp 2 = true →
      ∃ d, Runs (.faultNotify st) s d ∧ (d.stall st.val).notified = true ∧ (d.stall st.val).faulted = true ∧ (d.stall st.val).plan = (s.stall st.val).plan ∧
        d.mem = s.mem ∧ (∀ p, (s.stall st.val).plan = some p → ∀ t ∈ p.stations, ((d.stall st.val).station t.num).runs = []))

/-- A processor's crash, its restart, its first start and its dump: A running processor whose watchdog expires or which
traps is away: its restarts are counted, a dump is kept where the buffer has room, and the fourth crash within 600 s
holds it; memory and other processors go on. A restart that completes, or a processor's first start, takes it up from
its active slot where that verifies. The running management core copies the oldest waiting dump into the store of the
newest 32. It says of each of these commands that exec answers a next state, and which: FW_WATCHDOG_EXPIRE, FW_TRAP,
FW_RESTART_COMPLETE, BOOT_VERIFY, CRASH_DUMP_COPY. -/
def Obligations.FirmwareCrashesAndRestarts : Prop :=
  (∀ (p : Proc) (us : Nat) (c : CrashInfo) (s : State) (i : Instr), (i = .fwWatchdogExpire p us c ∨ i = .fwTrap p us c) → s.alive (procNum p) = true →
    let n := procNum p
    let recent := (tget [] s.fw.times n).filter (fun t => decide (us ≤ t + 600000000))
    ∃ d, Runs i s d ∧ tget 0 d.fw.restarts n = satInc (tget 0 s.fw.restarts n) ∧ d.coreUp n = false ∧
      (recent.length < 3 → n ∈ d.fw.down ∧ d.fw.held = s.fw.held) ∧ (3 ≤ recent.length → n ∈ d.fw.held ∧ n ∉ d.fw.down) ∧
      (s.fw.dumpBuf.length < 4 → d.fw.dumpSeq = s.fw.dumpSeq + 1 ∧ ∃ b, d.fw.dumpBuf = s.fw.dumpBuf ++ [(s.fw.dumpSeq + 1, b)]) ∧
      (4 ≤ s.fw.dumpBuf.length → d.fw.dumpBuf = s.fw.dumpBuf ∧ d.fw.dumpsLost = satInc s.fw.dumpsLost) ∧
      d.mem.store = s.mem.store ∧ (∀ q, q ≠ n → s.fw.handing = [] → d.coreUp q = s.coreUp q)) ∧
  (∀ (p : Proc) (s : State),
    let n := procNum p
    let key := s.fw.activeKey (imageOf n)
    s.canBoot n = true → s.slotOk (imageOf n) key = true → n ∉ s.fw.held → n ∉ s.fw.handing → s.sec.waiting = none →
    (n ∈ s.fw.down → ∃ d, Runs (.fwRestartComplete p) s d ∧ d.coreUp n = true ∧ d.mem = s.mem ∧ d.stalls = s.stalls) ∧
    (n ∉ s.fw.released → ∃ d, Runs (.bootVerify p) s d ∧ d.coreUp n = true ∧ d.mem = s.mem ∧ d.stalls = s.stalls)) ∧
  (∀ (s : State) (n : Nat) (b : List Byte) (rest : List (Nat × List Byte)), s.fw.dumpBuf = (n, b) :: rest → s.coreUp 3 = true →
    s.power.nvInh = false → s.power.nvWarn = false →
    ∃ d, Runs .crashDumpCopy s d ∧ d.fw.dumpBuf = rest ∧ tget none d.fw.crashes n = some b ∧
      (∀ i, i + 32 ≤ n → tget none d.fw.crashes i = none) ∧ d = { s.toDev with fw := d.fw })

/-- Activations go through their steps, and the supply inhibit holds writes back: An activation that nothing refuses
stops its image's processors at their quiet point; a refused one changes the result alone and is logged. The new image
of each adopts the hand-over record of the old; with the last the boot record's write begins, unless the inhibit holds.
The commit ends the activation with result 0. A flash write ends, with standby above 2.90 V, with what it wrote. The
inhibit starts below 40.0 V or 3.05 V and is released after 100 ms at 40.5 V and 3.10 V; the early warning holds below
42.0 V or 3.15 V and re-arms at 43.0 V and 3.20 V. It says of each of these commands that exec answers a next state, and
which: FW_ACTIVATE, FW_HANDOVER_READY, FW_COMMIT, NV_WRITE_COMPLETE, NV_INHIBIT_START, NV_INHIBIT_RELEASE,
NV_EARLY_WARNING. -/
def Obligations.ActivationAndFlash : Prop :=
  ∀ s : State,
    (∀ image : BitVec 3, s.hub.linkUp = true →
      let t := s.modFw fun f => { f with actImage := image }
      let code := t.activationCode image.toNat false
      (code = 0 → ∃ d, Runs (.fwActivate 0 image) s d ∧ d.fw.act = some { image := image.toNat, wait := procsOf image.toNat } ∧ d.fw.actResult = 0 ∧
        (∀ p ∈ procsOf image.toNat, p ∈ d.fw.handing) ∧ d = { s.toDev with fw := d.fw }) ∧
      (code ≠ 0 → Runs (.fwActivate 0 image) s ((s.modFw fun f => { f with actImage := image, actResult := BitVec.ofNat 8 code }).logEvent 0 0x0041 255 0 [image.toNat, code]))) ∧
    (∀ (p : Proc) (us : Nat) (body : List Byte) (a : ActJob), s.fw.act = some a → procNum p ∈ a.wait → body.length ≤ 65472 →
      let n := procNum p
      ∃ d, Runs (.fwHandoverReady p us body none) s d ∧
        tget [] d.fw.handover n = handoverRecord a.image (imageVersion (s.fw.image (2 * a.image + b2n (s.fw.slotB.contains n))))
          (imageVersion (s.fw.image (s.fw.otherKey a.image))) body ∧
        (let wait := a.wait.filter (· != n)
         d.fw.act = some { a with wait := wait, writing := wait.isEmpty && !s.power.nvInh }) ∧ d = { s.toDev with fw := d.fw }) ∧
    (∀ a : ActJob, s.fw.act = some a → a.wait = [] → a.writing = true → a.pldm = false → s.mgt.activating = false →
      ∃ d, Runs .fwCommit s d ∧ d.fw.act = none ∧ d.fw.actResult = 0 ∧ (∀ p ∈ procsOf a.image, p ∉ d.fw.handing) ∧ d.mem = s.mem ∧ d.looms = s.looms) ∧
    (∀ (sb : Nat) (w : NvWrite) (rest : List NvWrite), s.fw.nv = w :: rest → 2900 < sb → (∀ b, w ≠ .boot b) →
      Runs (.nvWriteComplete sb) s (s.modFw fun f => { f with nv := rest })) ∧
    (∀ mv sb ms : Nat,
      (s.power.state ≠ .off → mv < 40000 ∨ sb < 3050 → Runs (.nvInhibitStart mv sb) s (s.modPower fun w => { w with nvInh := true })) ∧
      (40500 ≤ mv → 3100 ≤ sb → 100 ≤ ms → s.power.nvInh = true → s.hub.logLost = 0 → s.fw.bootHeld = none → s.fw.act = none →
        Runs (.nvInhibitRelease mv sb ms) s (s.modPower fun w => { w with nvInh := false })) ∧
      (s.power.state ≠ .off → mv < 42000 ∨ sb < 3150 → Runs (.nvEarlyWarning mv sb) s (s.modPower fun w => { w with nvWarn := true })) ∧
      (s.power.state ≠ .off → 43000 ≤ mv → 3200 ≤ sb → Runs (.nvEarlyWarning mv sb) s (s.modPower fun w => { w with nvWarn := false })))

/-- Limits, trips, supply loss and cold reset: A junction at 105 °C, or 120 A for 2 µs, trips the module, latched with
its cause; an input below 38.0 V for 100 µs or above 62.0 V for 10 µs takes it to STANDBY; each takes every main
domain's state away and leaves the log, the image slots, the fuses and the meter. 90 A for 50 µs forces the limiter
until the input has stayed below 85 A for 10 ms. An input below 30 V, or a broken VIN_PRSNT contact, powers the module
off and stops the meter. A cold reset by the physical function clears trips, dead domains and held processors. It says
of each of these commands that exec answers a next state, and which: JUNCTION_TRIP, INPUT_UNDERVOLTAGE,
INPUT_OVERVOLTAGE, INPUT_OVERCURRENT, INPUT_SHORT, LIMITER_RELEASE, INPUT_LOSS, VIN_PRSNT_BREAK, COLD_RESET. -/
def Obligations.SupplyLimits : Prop :=
  ∀ s : State,
    let keeps (d : Dev) : Prop := d.hub.log = s.hub.log ∧ d.hub.logSeq = s.hub.logSeq ∧ d.fw.slots = s.fw.slots ∧ d.sec.opFuses = s.sec.opFuses ∧
      d.sec.floors = s.sec.floors ∧ d.looms = [] ∧ d.stalls = [] ∧ d.mem = {} ∧ d.tally = {} ∧ d.hub.linkUp = false ∧ d.hub.devPlan = none
    (s.mainOn = true →
      (∀ t : Int, 1050 ≤ t → ∃ d, Runs (.junctionTrip t) s d ∧ d.power.state = .tripped ∧ d.power.trip = 1 ∧ keeps d) ∧
      (∀ mv us : Nat, mv < 38000 → 100 ≤ us → ∃ d, Runs (.inputUndervoltage mv us) s d ∧ d.power.state = .standby ∧ keeps d) ∧
      (∀ mv us : Nat, 62000 < mv → 10 ≤ us → ∃ d, Runs (.inputOvervoltage mv us) s d ∧ d.power.state = .standby ∧ keeps d) ∧
      (∀ ma us : Nat, 90000 ≤ ma → 50 ≤ us → Runs (.inputOvercurrent ma us) s (s.modPower fun w => { w with limiter := true }))) ∧
    (∀ ma us : Nat, 120000 ≤ ma → 2 ≤ us → s.power.state ≠ .off → ∃ d, Runs (.inputShort ma us) s d ∧ d.power.state = .tripped ∧ d.power.trip = 2 ∧ keeps d) ∧
    (∀ ma ms : Nat, ma < 85000 → 10 ≤ ms → Runs (.limiterRelease ma ms) s (s.modPower fun w => { w with limiter := false })) ∧
    (∀ (c : Instr) (mv : Nat), (c = .inputLoss mv ∧ mv < 30000 ∨ c = .vinPrsntBreak) →
      ∃ d, RunsMeter c s d { s.meter with ready := false } ∧ d.power.state = .off ∧ d.looms = [] ∧ d.mem = {} ∧
        d.hub.logSeq = s.hub.logSeq ∧ d.sec.opKey = none ∧ d.fw.released = []) ∧
    (s.hub.linkUp = true → s.power.state = .run ∨ s.power.state = .standby ∨ s.power.state = .tripped →
      ∃ d, Runs (.coldReset 0) s d ∧ keeps d ∧ d.power.state = .standby ∧ d.power.trip = 0 ∧ d.power.dark = [] ∧ d.power.stay = s.power.stay ∧
        d.fw.held = [] ∧ d.hub.moduleFault = false ∧ d.sec.opKey = s.sec.opKey ∧ d.sec.stallKeys = s.sec.stallKeys)

/-- Power-up goes through its steps: From OFF the auxiliary converter starts at 38.0 V and standby is released after 10
ms at 3.20 V; from STANDBY the ramp starts at 40.5 V once the power and management cores serve, calibration is found, no
trip is latched and STAY is 0; the domains ramp after 1 ms; once every core is released or held the PHYs train, fixing
the Cellar capacity, in which each populated port counts as the smallest, its configuration and each stack's state, and
a stack that did not train is a module fault; then RUN is reached with the host port answering and the loops at their
first-use point. It says of each of these commands that exec answers a next state, and which: POWER_UP_START,
STANDBY_RELEASE, RAMP_START, DOMAIN_RAMP, PHY_TRAINING, RUN_REACHED. -/
def Obligations.PowerUpSteps : Prop :=
  ∀ s : State,
    (∀ mv, 38000 ≤ mv → s.power.state = .off → Runs (.powerUpStart mv) s (s.modPower fun w => { w with aux := true })) ∧
    (∀ mv ms, 3200 ≤ mv → 10 ≤ ms → s.power.state = .off → s.power.aux = true →
      ∃ d, Runs (.standbyRelease mv ms) s d ∧ d.power = { s.power with state := .standby } ∧ d = { s.toDev with power := d.power, sec := d.sec }) ∧
    (∀ mv, 40500 ≤ mv → s.power.state = .standby → s.power.trip = 0 → s.power.stay = false → s.coreUp 1 = true →
      (3 ∈ s.fw.released ∨ 3 ∈ s.fw.held) → Runs (.rampStart mv true) s (s.modPower fun w => { w with state := .ramp })) ∧
    (∀ ms, 1 ≤ ms → s.power.state = .ramp → Runs (.domainRamp ms) s (s.modPower fun w => { w with ramped := true, target := [] })) ∧
    (∀ (stks : List StackId) (ports : List (CelPortId × Bool)) (cap : List W32), s.power.state = .ramp → s.power.ramped = true → s.power.trained = false →
      s.coresSettled = true →
      ∃ d, Runs (.phyTraining stks ports cap) s d ∧ d.power.trained = true ∧ d.mem.store = s.mem.store ∧
        (∀ k : StackId, (d.mem.stack k.val).state = if k ∈ stks then .inService else .out) ∧
        (ports = [] → d.mem.celMode = 0) ∧
        (∀ least : W32, least ∈ cap → (∀ c ∈ cap, least.toNat ≤ c.toNat) →
          d.mem.celCap = BitVec.ofNat 32 (((List.range 4).filter fun p => ports.any fun e => e.1.val == p).length * least.toNat) ∧
          ((∀ p : CelPortId, ∃ e ∈ ports, e.1 = p ∧ e.2 = true) → 4194304 ≤ 4 * least.toNat → d.mem.celMode = 2)) ∧
        ((∃ k, k ∉ stks) → d.hub.moduleFault = true)) ∧
    (s.power.state = .ramp → s.power.trained = true → (∀ k : StackId, (s.mem.stack k.val).state ≠ .training) →
      ∃ d, Runs .runReached s d ∧ d.power.state = .run ∧ d.hub.linkUp = true ∧ d.power.vth = [] ∧ d.power.rail = [] ∧ d.power.model = [] ∧
        d.mem = s.mem ∧ d.looms = s.looms)

/-- The control loops keep every target within its range; emergencies and lost regulation: In RUN, a period of the
running power core's loop leaves every regulating cluster's target between 0.55 V and 0.90 V, at 0.55 V where the
cluster executes nothing; it lowers the power loop's voltage by 5 mV while the input is above the cap, and nothing but
those voltages changes. A cluster that has executed drafts for 20 s has its model populated. A domain that loses
regulation drops to 0.65 V and faults its stall, or the module; after 1 ms it is switched off and the cluster's looms
hold nothing. An emergency's condition sets its flag, and its absence for 1 s clears it. It says of each of these
commands that exec answers a next state, and which: POWER_LOOP_PERIOD, THERMAL_MODEL_POPULATED, REGULATION_LOSS,
REGULATION_TIMEOUT, EMERGENCY_SET, EMERGENCY_CLEAR. -/
def Obligations.PowerLoopsAndEmergencies : Prop :=
  ∀ s : State,
    (∀ (mw mv : Nat) (clus dies : List Int), s.power.state = .run → s.coreUp 1 = true →
      ∃ d, Runs (.powerLoopPeriod mw mv clus dies) s d ∧
        (∀ c : ClusterId, c.val ∉ s.power.lost → c.val ∉ s.power.dark →
          let v := (tget 550 d.power.target c.val).toNat
          550 ≤ v ∧ v ≤ 900 ∧ (s.active c.val = false → v = 550)) ∧
        (min (10000 * min 3800 s.power.pcap.toNat) (882 * mv) < 10 * mw → d.power.vpw = s.power.vpw - 5) ∧
        d = { s.toDev with power := { s.power with vpw := d.power.vpw, vth := d.power.vth, rail := d.power.rail, target := d.power.target } }) ∧
    (∀ (c : ClusterId) (ms : Nat), 20000 ≤ ms → s.coreUp 1 = true → s.power.state = .run →
      Runs (.thermalModelPopulated c ms) s (s.modPower fun w => { w with model := sinsert c.val w.model })) ∧
    (∀ r : DomainId, s.mainOn = true → r.val ∉ s.power.lost → r.val ∉ s.power.dark →
      ∃ d, Runs (.regulationLoss r) s d ∧ r.val ∈ d.power.lost ∧ d.mem.store = s.mem.store ∧
        (r.val < 96 → tget 550 d.power.target r.val = 650 ∧ ∀ k, s.clusterStall r.val = some k → (d.stall k).faulted = true) ∧
        (96 ≤ r.val → d.hub.moduleFault = true)) ∧
    (∀ (r : DomainId) (us : Nat), r.val ∈ s.power.lost → 1000 ≤ us →
      ∃ d, Runs (.regulationTimeout r us) s d ∧ r.val ∈ d.power.dark ∧ r.val ∉ d.power.lost ∧ d.mem = s.mem ∧
        (∀ k, s.clusterStall r.val ≠ some k → d.stall k = s.stall k) ∧ (∀ k, { d.stall k with discard := 0 } = { s.stall k with discard := 0 }) ∧
        (r.val < 96 → ∀ i < 12, d.loom (12 * r.val + i) = { frzFault := (s.loom (12 * r.val + i)).frzFault })) ∧
    (∀ e : EmergCond, s.power.state ≠ .off →
      (s.emergHolds e = true → s.power.emerg.getLsbD (emergBit e) = false →
        ∃ d, Runs (.emergencySet e) s d ∧ d.power.emerg = setBit s.power.emerg (emergBit e) ∧ d.mem = s.mem ∧ d.looms = s.looms) ∧
      (∀ ms, s.emergHolds e = false → s.power.emerg.getLsbD (emergBit e) = true → 1000 ≤ ms →
        ∃ d, Runs (.emergencyClear e ms) s d ∧ d.power.emerg = clrBit s.power.emerg (emergBit e) ∧ d.mem = s.mem ∧ d.looms = s.looms))

/-- What Ozsol does on its management bindings: While the management core serves and the binding works: the bus owner's
endpoint ID is taken and told; the numeric effecter sets PCAP; LOG_READ answers the entry of a SEQ; COLD_RESET resets
the module; an update transfer writes the component's inactive slot, unless that image is being activated or flash
writes may not begin; VERIFY_COMPLETE says whether the slot verifies; ACTIVATE begins with the first updated component
in the order 5, 3, 2, 4, 1; GET_STATUS answers. Sensors take their readings after 100 ms. It says of each of these
commands that exec answers a next state, and which: MCTP_CONTROL, SET_NUMERIC_EFFECTER, LOG_READ, MCTP_COLD_RESET,
UPDATE_COMPONENT, VERIFY_COMPLETE, ACTIVATE_FIRMWARE, GET_STATUS, SENSOR_REFRESH. -/
def Obligations.ManagementMessages : Prop :=
  ∀ (b : Binding) (s : State), s.mctpUp b = true →
    (∀ e : Byte, ∃ d, Runs (.mctpControl b (.setEid e)) s d ∧ (b = .i3c → d.mgt.eidI3c = e) ∧ (b = .vdm → d.mgt.eidPcie = e) ∧
      d.out = s.out ++ [.mctp (bindNum b) 1 [e.toNat]] ∧ d = { s.toDev with mgt := d.mgt, out := d.out }) ∧
    (∀ v : BitVec 12, Runs (.setNumericEffecter b v) s (s.modPower fun w => { w with pcap := v })) ∧
    (∀ seq : W64, Runs (.logRead b seq) s (s.respond b 4 ((s.hub.logBytes seq).map BitVec.toNat))) ∧
    (s.power.state = .run ∨ s.power.state = .standby ∨ s.power.state = .tripped →
      ∃ d, Runs (.mctpColdReset b) s d ∧ d.power.state = .standby ∧ d.power.trip = 0 ∧ d.looms = [] ∧ d.hub.log = s.hub.log) ∧
    (∀ (image : Fin 6) (data : List Byte), image ≠ 0 → s.fw.act = none → s.power.nvInh = false → s.power.nvWarn = false → data.length ≤ 4194304 →
      ∃ d, Runs (.updateComponent b image data) s d ∧ d.fw.image (s.fw.otherKey image.val) = data ∧
        (∀ k, k ≠ s.fw.otherKey image.val → d.fw.image k = s.fw.image k) ∧ d.out = s.out ++ [.mctp (bindNum b) 6 [image.val, 0]] ∧
        d = { s.toDev with fw := d.fw, mgt := d.mgt, out := d.out }) ∧
    (∀ image : Fin 6, image ≠ 0 → Runs (.verifyComplete b image) s (s.respond b 7 [image.val, b2n (s.slotOk image.val (s.fw.otherKey image.val))])) ∧
    (∀ (i : Nat) (rest : List Nat), s.mgt.activating = false → [5, 3, 2, 4, 1].filter (fun i => s.mgt.updated.contains i) = i :: rest →
      s.activationCode i true = 0 →
      ∃ d, Runs (.activateFirmware b) s d ∧ d.fw.act = some { image := i, wait := procsOf i, pldm := true } ∧ d.mgt.queue = rest ∧
        d.mgt.activating = true ∧ d = { s.toDev with fw := d.fw, mgt := d.mgt }) ∧
    Runs (.getStatus b) s (s.respond b 8 [b2n s.mgt.activating, (s.mgt.refused.getD (0, 0)).1, (s.mgt.refused.getD (0, 0)).2]) ∧
    (∀ (ms : Nat) (v : List (Nat × Int)), 100 ≤ ms →
      ∃ d, Runs (.sensorRefresh ms v) s d ∧ tget 0 d.mgt.sensors 240 = (powerCode s.power.state : Int) ∧ tget 0 d.mgt.sensors 241 = (s.power.emerg.toNat : Int) ∧
        (∀ c : ClusterId, tget 0 d.mgt.sensors (137 + c.val) = ((s.targetNow c.val).toNat : Int)) ∧ d = { s.toDev with mgt := d.mgt })

/-- The security core's commands, its SPDM responder and the test access port: With the security core running and no
command in hand, a command of each type is served: refused, it changes nothing of the keys, fuses and floors but its
code; accepted, it does what its type does. The SPDM responder answers in order: version, capabilities, algorithms, then
digests, certificate, challenge, measurements and chunks. Before TEST_OPEN the test port executes IDCODE, SAMPLE and
BYPASS, and EXTEST in STANDBY alone; any other instruction is BYPASS. It says of each of these commands that exec
answers a next state, and which: PRESENT_OPERATOR, FUSE_OPERATOR, ENROLL_STALL, REMOVE_STALL, RAISE_FLOOR, TEST_UNLOCK,
GET_VERSION, GET_CAPABILITIES, NEGOTIATE_ALGORITHMS, GET_DIGESTS, GET_CERTIFICATE, CHALLENGE, GET_MEASUREMENTS,
CHUNK_GET, TAP_INSTRUCTION. -/
def Obligations.SecurityCoreCommands : Prop :=
  ∀ s : State,
    (∀ (c : List Byte) (i : Instr), (i, u16 c 0) ∈ [(Instr.presentOperator c, 0x301), (.fuseOperator c, 0x302), (.enrollStall c, 0x303),
        (.removeStall c, 0x304), (.raiseFloor c, 0x305), (.testUnlock c, 0x306)] → s.sec.state ≠ 1 → s.coreUp 0 = true →
      let x := s.sec
      let key := slice c 48 1312
      let code := s.secCode c
      ∃ d, Runs i s d ∧ d.sec.state = 2 ∧ d.sec.code = BitVec.ofNat 8 code ∧ d.mem = s.mem ∧ d.looms = s.looms ∧ d.stalls = s.stalls ∧
        (code ≠ 0 → d.sec = { x with state := 2, code := BitVec.ofNat 8 code, waiting := none } ∧ d.fw = s.fw) ∧
        (code = 0 →
          (u16 c 0 = 0x301 → d.sec.opKey = some key ∧ d.sec.opFuses = x.opFuses ∧ d.sec.floors = x.floors) ∧
          (u16 c 0 = 0x302 → d.sec.opKey = some key ∧ d.sec.opFuses = x.opFuses ++ [(keyDigest key, true)]) ∧
          (u16 c 0 = 0x303 → d.sec.stallKeys = x.stallKeys.filter (fun k => keyIdOf k != keyIdOf key) ++ [key] ∧ d.sec.opKey = x.opKey) ∧
          (u16 c 0 = 0x304 → d.sec.stallKeys = x.stallKeys.filter (fun k => (keyIdOf k).toNat != u64 c 8) ∧ d.sec.opKey = x.opKey) ∧
          (u16 c 0 = 0x305 → d.sec.floors = x.floors ++ [(u8 c 8, imageVersion (s.fw.image (s.fw.activeKey (u8 c 8))), true)]) ∧
          (u16 c 0 = 0x306 → d.sec.testOpen = true ∧ d.sec.identity = false ∧ d.sec.opKey = none ∧ d.sec.stallKeys = []))) ∧
    (∀ (b : Binding) (req : List Byte), s.mctpUp b = true → s.coreUp 0 = true →
      let tells (d : Dev) (resp : List Byte) : Prop := d.out = s.out ++ [.bytes (0x500 + bindNum b) resp] ∧ d.mem = s.mem ∧ d.looms = s.looms ∧
        d.sec.opKey = s.sec.opKey ∧ d.sec.stallKeys = s.sec.stallKeys
      (∃ d, Runs (.getVersion b req) s d ∧ tells d [0x13] ∧ d.sec.spdm = 1 ∧ d.sec.transcript = req ++ [0x13]) ∧
      (1 ≤ s.sec.spdm → ∃ d, Runs (.getCapabilities b req) s d ∧ tells d [1, 1, 1, 1] ∧ 2 ≤ d.sec.spdm) ∧
      (2 ≤ s.sec.spdm → ∃ d, Runs (.negotiateAlgorithms b req) s d ∧ tells d [1, 1, 0, 1, 0] ∧ d.sec.spdm = 3) ∧
      (3 ≤ s.sec.spdm →
        (∃ d, Runs (.getDigests b req) s d ∧ tells d (natLe 1 1 ++ digestBytes (Config.sha3_256 Config.certChain))) ∧
        (∀ off len, ∃ d, Runs (.getCertificate b req 0 off len) s d ∧ tells d (slice Config.certChain off len)) ∧
        (∀ off len, ∃ d, Runs (.chunkGet b off len) s d ∧ tells d (slice s.sec.large off len)) ∧
        (s.sec.identity = true →
          (∃ d body, Runs (.challenge b req 0) s d ∧ tells d (s.signed req body) ∧ d.sec.large = s.signed req body) ∧
          (∀ idx, ∃ d body, Runs (.getMeasurements b req idx) s d ∧ tells d (s.signed req body) ∧ d.sec.large = s.signed req body ∧
            slice body 0 (33 * idx.length) = idx.flatMap (fun i => natLe 1 i.val ++ digestBytes (s.measure s.meter.measured i.val)))))) ∧
    (∀ i : Tap, s.power.state ≠ .off →
      let r := if i = .extest ∧ s.power.state ≠ .standby ∧ s.sec.testOpen = false then .bypass
        else if (∃ c, i = .other c) ∧ s.sec.testOpen = false then .bypass else i
      Runs (.tapInstruction i) s (s.emit (.bytes 0x1149 (natLe 2 (tapCode r) ++ (if r = .idcode then natLe 4 idcode else [])))))

/-- Links: states, sending, receiving: An UP link's frame time carries a frame: the next of a replay, else a CONTROL
frame that has a credit, under the next LSEQ and kept for replay, else some frame whenever a stall with a weight there
has one with a credit, else IDLE. A link that loses lane lock goes DOWN, a link in TRAINING goes DOWN after 200 ms or UP
with its sequences at 0, and each DOWN link of a named port trains again after 1,000 ms. An in-order frame advances the
receiver's LSEQ; a gap, a CRC failure and an uncorrectable frame set NAK and advance nothing. It says of each of these
commands that exec answers a next state, and which: LINK_ARBITRATE, LANE_LOCK_LOSS, LINK_TRAINING_TIMEOUT, LINK_RETRAIN,
LINK_UP, LINK_FRAME_RX. -/
def Obligations.LinkCommands : Prop :=
  ∀ (i : LinkId) (s : State),
    let x := s.link i.val
    let n := 96
    let others (d : Dev) : Prop := ∀ j < n, j ≠ i.val → (d.link j).state = (s.link j).state ∧ (d.link j).replay = (s.link j).replay ∧
      (d.link j).txSeq = (s.link j).txSeq ∧ (d.link j).rxSeq = (s.link j).rxSeq
    (x.state = .up → ∀ c : Instr, (c = .linkArbitrate i ∨ c = .regulatorServe (.link i)) →
      (∀ (q : Nat) (f : Frame), x.replay[x.cursor]? = some (q, f) →
        ∃ d b, Runs c s d ∧ d.out = s.out ++ [.frame i.val b] ∧ slice b 24 (min f.payload.length 504) = f.payload.take 504 ∧ u16 b 2 = q % 65536 ∧
          (d.link i.val).cursor = x.cursor + 1 ∧ (d.link i.val).replay = x.replay ∧ (d.link i.val).txSeq = x.txSeq ∧ others d) ∧
      (∀ f : Frame, x.replay[x.cursor]? = none → x.replay.length < 512 → x.ctl.find? x.credit = some f →
        ∃ d, Runs c s d ∧ (d.link i.val).replay = x.replay ++ [(x.txSeq, f)] ∧ (d.link i.val).txSeq = (x.txSeq + 1) % 4096 ∧
          tget 0 (d.link i.val).used f.vc = tget 0 x.used f.vc + 1 ∧ (d.link i.val).ctl = x.ctl.erase f ∧ others d ∧ d.looms = s.looms) ∧
      (∀ (k : Nat) (f : Frame) (rest : List Frame), x.replay[x.cursor]? = none → x.replay.length < 512 → twf [] x.loc = true →
        tget [] x.loc k = f :: rest → x.credit f = true → k < 96 → 0 < s.weightAt (.link i) k →
        ∃ d g, Runs c s d ∧ (d.link i.val).replay = x.replay ++ [(x.txSeq, g)] ∧ (d.link i.val).txSeq = (x.txSeq + 1) % 4096 ∧
          tget 0 x.used g.vc < 64 ∧ others d ∧ d.looms = s.looms) ∧
      (x.replay[x.cursor]? = none → x.ctl = [] → x.loc = [] → (∀ vc, tget [] x.fwd vc = []) →
        ∃ d b, Runs c s d ∧ d.out = s.out ++ [.frame i.val b] ∧ u8 b 0 % 16 = 0 ∧ (d.link i.val).replay = x.replay ∧
          (d.link i.val).txSeq = x.txSeq ∧ others d)) ∧
    (x.state = .up → ∃ d, Runs (.laneLockLoss i) s d ∧ (d.link i.val).state = .down ∧ (d.link i.val).cause = 3 ∧ (d.link i.val).replay = [] ∧
      d.looms = s.looms ∧ d.mem = { s.mem with regs := d.mem.regs }) ∧
    (∀ ms, 200 ≤ ms → x.state = .training → s.coreUp 3 = true →
      ∃ d, Runs (.linkTrainingTimeout i ms) s d ∧ (d.link i.val).state = .down ∧ (d.link i.val).cause = 1 ∧ d.looms = s.looms ∧ d.mem = { s.mem with regs := d.mem.regs }) ∧
    (∀ ms, 1000 ≤ ms → s.coreUp 3 = true →
      ∃ d, Runs (.linkRetrain ms) s d ∧ d = { s.toDev with links := d.links, mem := { s.mem with regs := d.mem.regs } } ∧
        (∀ j : LinkId, (d.link j.val).state =
          if (s.link j.val).state = .down ∧ (s.axesNow.portUse (j.val % 12)).isSome then .training else (s.link j.val).state)) ∧
    (x.state = .training → ∃ d, Runs (.linkUp i) s d ∧ (d.link i.val).state = .up ∧ (d.link i.val).txSeq = 0 ∧ (d.link i.val).rxSeq = 0 ∧
      (∀ j < n, j ≠ i.val → (d.link j).state = (s.link j).state) ∧ d.looms = s.looms ∧ d.mem = { s.mem with regs := d.mem.regs }) ∧
    (x.state = .up → ∀ b : List Byte,
      (∀ rx : FrameRx, (rx = .uncorrectable ∨ ∃ e, rx = .crcFail e) →
        ∃ d, Runs (.linkFrameRx i rx b) s d ∧ d.link i.val = { x with nak := true } ∧ others d ∧ d.looms = s.looms ∧ d.links.inbox = s.links.inbox) ∧
      (∀ e : Nat, bit (u16 b 4) 12 = false →
        let lseq := u16 b 2 % 4096
        let sequenced := u8 b 0 % 16 = 1 ∨ u8 b 0 % 16 = 2
        (sequenced → lseq = x.rxSeq → ∃ d, Runs (.linkFrameRx i (.good e) b) s d ∧ (d.link i.val).rxSeq = (x.rxSeq + 1) % 4096 ∧
          (d.link i.val).state = .up ∧ d.mem = { s.mem with regs := d.mem.regs }) ∧
        (sequenced → lseq ≠ x.rxSeq → ∃ d, Runs (.linkFrameRx i (.good e) b) s d ∧ (d.link i.val).rxSeq = x.rxSeq ∧ others d ∧
          ((lseq + 4096 - x.rxSeq) % 4096 < 2048 → x.naked = false → (d.link i.val).nak = true) ∧ d.links.inbox = s.links.inbox ∧ d.mem = { s.mem with regs := d.mem.regs }) ∧
        (u8 b 0 % 16 = 0 → ∃ d, Runs (.linkFrameRx i (.good e) b) s d ∧ (d.link i.val).rxSeq = x.rxSeq ∧ others d ∧
          (∀ r ∈ (d.link i.val).replay, r ∈ x.replay) ∧ d.links.inbox = s.links.inbox ∧ d.mem = { s.mem with regs := d.mem.regs })))

/-- Control messages are answered; rosters are rewritten: The oldest delivered message of each OP is taken. A REQ of the
group's epoch is granted its slot when that is EMPTY, and waits for it, or for a frozen loom, otherwise; one of another
epoch, or for no station, changes no loom. GRANT and WAIT change the send that they answer; STALE and ABSENT abort its
XFER. A roster rewrite of a LOADED stall is refused with its code, the group standing, or gives the group its new epoch,
axis and members; it is DONE once every aborted XFER of the group has completed. It says of each of these commands that
exec answers a next state, and which: REQ, GRANT, WAIT, STALE, ABSENT, ROSTER_REWRITE, ROSTER_REWRITE_DONE. -/
def Obligations.ControlMessagesAndRosters : Prop :=
  (∀ s : State,
    let oldest (op : Nat) : Option CtlMsg := s.links.inbox.find? (fun m => m.op == op)
    (∀ (op : Nat) (c : Instr), ((op = 1 ∧ c = .req) ∨ (op = 2 ∧ c = .grant) ∨ (op = 3 ∧ c = .wait) ∨ (op = 4 ∧ c = .stale) ∨ (op = 5 ∧ c = .absent)) →
      oldest op = none → Runs c s s.toDev) ∧
    (∀ m : CtlMsg, oldest 1 = some m → (s.stall m.dstStall).settled = false →
      (∀ (l : Nat) (t : Station), s.groupLoom m.dstStall m.group m.member = some (l, t) →
        (∀ dz : Desc, (s.loom l).live = true → s.ctlJudge m = none → s.groupTz l t m.group = some dz →
          let i := ringSlot dz (m.row, m.col, m.plane)
          (((s.loom l).slot i).state = .empty → ∃ d, Runs .req s d ∧ ((d.loom l).slot i).state = .filling ∧
            ((d.loom l).slot i).grantee = some remoteGrant ∧ d.links.grants = s.links.grants ++ [(m, l, i)] ∧ d.links.reqs = s.links.reqs ∧ s.otherLooms d l) ∧
          (((s.loom l).slot i).state ≠ .empty → Runs .req s (s.modLinks fun y => { y with
            inbox := y.inbox.erase m, reqs := y.reqs ++ [(m, l, i)] }))) ∧
        ((s.loom l).live = false → ∃ d i, Runs .req s d ∧ d.links.reqs = s.links.reqs ++ [(m, l, i)] ∧ d.looms = s.looms ∧ d.links.grants = s.links.grants) ∧
        ((s.loom l).live = true → s.ctlJudge m ≠ none → ∃ d, Runs .req s d ∧ d.looms = s.looms ∧ d.links.grants = s.links.grants ∧ d.links.reqs = s.links.reqs)) ∧
      (s.groupLoom m.dstStall m.group m.member = none → ∃ d, Runs .req s d ∧ d.looms = s.looms ∧ d.links.grants = s.links.grants ∧ d.links.reqs = s.links.reqs)) ∧
    (∀ (m : CtlMsg) (l : Nat) (j : XferJob) (o : XferOut), s.replyTo m = some (l, j, o) →
      let told (st : SendSt) (d : Dev) : Prop := (d.loom l).xfer = some { j with outs := j.outs.map fun q => if q = o then { o with st := st } else q } ∧
        d.links.inbox = s.links.inbox.erase m ∧ s.otherLooms d l ∧ d.mem = s.mem
      (oldest 2 = some m → ∃ d, Runs .grant s d ∧ told .granted d) ∧
      (oldest 3 = some m → ∃ d, Runs .wait s d ∧ told .waits d) ∧
      (∀ (op : Nat) (c : Instr), ((op = 4 ∧ c = .stale) ∨ (op = 5 ∧ c = .absent)) → oldest op = some m → (∃ cx, s.ctx l = some cx) → j.aborted = false →
        ∃ d y, Runs c s d ∧ (d.loom l).xfer = some y ∧ y.aborted = true ∧ y.outs = [] ∧ d.links.inbox = s.links.inbox.erase m ∧ s.otherLooms d l))) ∧
  (∀ (fn : FnId) (st : StallId) (group : BitVec 12) (s : State), s.hub.linkUp = true → (s.fn fn.val).wbuf = [] → (fn.val = 0 ∨ fn.val = st.val + 1) →
    let k := st.val
    let g := group.toNat
    let x := s.stall k
    x.rstState ≠ .busy → x.plan.isSome = true → x.blk.state = .loaded →
    (s.coreUp 2 = false → Runs (.rosterRewrite fn st group) s (s.setStall k { x with
      rstState := .busy, rstCode := 0, rstGroup := group, rstEpoch := x.groupEpoch g, rstIssuer := fn.val, rstWaits := true })) ∧
    (∀ code, s.coreUp 2 = true → s.judgeRoster k g = .inl code →
      ∃ d, Runs (.rosterRewrite fn st group) s d ∧ (d.stall k).rstState = .refused ∧ (d.stall k).rstCode = BitVec.ofNat 8 code ∧
        (d.stall k).groups = x.groups ∧ d.looms = s.looms ∧ (∀ i, i ≠ k → d.stall i = s.stall i)) ∧
    (∀ (r : Roster) (av : List Nat), s.coreUp 2 = true → s.judgeRoster k g = .inr (r, av) →
      ∃ d y, Runs (.rosterRewrite fn st group) s d ∧ (d.stall k).rstState = .busy ∧ tget none (d.stall k).groups g = some y ∧
        y.epoch = BitVec.ofNat 32 r.epoch ∧ y.axis = r.axis ∧ y.members = r.members ∧ y.avoid = av ∧
        (∀ i, i ≠ g → tget none (d.stall k).groups i = tget none x.groups i) ∧ (∀ i, i ≠ k → d.stall i = s.stall i) ∧
        (∀ l, l ∉ s.groupXfers k g → (∀ e, s.groupLoom k g 0 = some e → l ∉ e.2.looms) → d.loom l = s.loom l))) ∧
  (∀ (st : StallId) (s : State),
    let x := s.stall st.val
    x.rstState = .busy → x.rstWaits = false → s.coreUp 2 = true →
    ((∀ l ∈ s.groupXfers st.val x.rstGroup.toNat, ∀ j, (s.loom l).xfer = some j → j.aborted = false) →
      ∃ d, Runs (.rosterRewriteDone st) s d ∧ (d.stall st.val).rstState = .done ∧ (d.stall st.val).groups = x.groups ∧ d.looms = s.looms) ∧
    ((∃ l ∈ s.groupXfers st.val x.rstGroup.toNat, ∃ j, (s.loom l).xfer = some j ∧ j.aborted = true) → Runs (.rosterRewriteDone st) s s.toDev))

/-- A parity epoch goes through its steps: A quire command that the State does not accept sets REFUSED and changes
nothing else. With a record that keeps R381 and no commit line pending: PREPARE of the next epoch takes a member to
PREPARING; a parity member stages each data member's deltas once and is PREPARED when it holds them all; COMMIT writes
PHASE 1, copies or applies, and is COMMITTING; its completion takes every member to IDLE at the prepared epoch; ABORT
takes it to IDLE at the old one. RESTORE clears the dirty bits it copies back, RECONSTRUCT takes the member to the given
epoch, and an engine that starts goes on, or completes the commit whose line is pending. It says of each of these
commands that exec answers a next state, and which: QUIRE_PREPARE, QUIRE_COMMIT, QUIRE_ABORT, QUIRE_RESTORE,
QUIRE_RECONSTRUCT, QUIRE_STAGE, QUIRE_PREPARED, QUIRE_COMMIT_COMPLETE, QUIRE_RESUME_COMMIT. -/
def Obligations.QuireCommands : Prop :=
  ∀ (fn : FnId) (st : StallId) (s : State), (∀ e ∈ s.hub.fns, e.2.wbuf = []) →
    let k := st.val
    let x := (s.stall k).quire
    let refused : Dev := s.modQuire k fun x => { x with refused := true }
    (s.hub.linkUp = true → (fn.val = 0 ∨ fn.val = k + 1) →
      (∀ e : W32, (x.state ≠ .idle ∨ e ≠ x.epoch + 1) → Runs (.quirePrepare fn st e) s refused) ∧
      (x.state ≠ .prepared → Runs (.quireCommit fn st) s refused) ∧
      (x.state ≠ .preparing → x.state ≠ .prepared → Runs (.quireAbort fn st) s refused) ∧
      (x.state ≠ .idle → Runs (.quireRestore fn st) s refused ∧ ∀ r e f, Runs (.quireReconstruct fn st r e f) s refused)) ∧
    (∀ (h b : List Byte) (s1 t : Dev) (q : QRec), x.table.toNat % 64 = 0 → s.qread k x.table.toNat 64 = .ok h s1 → s1.qread k (x.table.toNat + 64) (32 * u16 h 4) = .ok b t →
      t.parseQuire k h b = some q → (t.stall k).quire = x → (∀ e ∈ t.hub.fns, e.2.wbuf = []) →
      let leaves (c : Instr) (y : Quire) : Prop := ∃ d, Runs c s d ∧ (d.stall k).quire = y ∧ (d.stall k).plan = (t.stall k).plan ∧
        (∀ i, i ≠ k → d.stall i = t.stall i) ∧ d = { t with stalls := d.stalls }
      let fresh : Quire := { x with resume := false }
      (s.hub.linkUp = true → (fn.val = 0 ∨ fn.val = k + 1) → x.resume = false →
        (x.state = .idle → (q.isData = false ∨ t.dirtyPieces k q = []) →
          leaves (.quirePrepare fn st (x.epoch + 1)) { fresh with state := .preparing, target := x.epoch + 1, staged := [], pieces := [], applied := false }) ∧
        (∀ t1 t2 t3, x.state = .prepared → (t.modQuire k fun x => { x with resume := false }) = t1 →
          t1.qwrites k ((t1.commitVas k q).map fun va => (va, commitLine x.target 1)) = .ok () t2 → t2.quireApply k q = some t3 →
          ∃ d, Runs (.quireCommit fn st) s d ∧ (d.stall k).quire.state = .committing ∧ (d.stall k).quire.epoch = (t3.stall k).quire.epoch ∧ d.mem = t3.mem) ∧
        ((x.state = .preparing ∨ x.state = .prepared) →
          leaves (.quireAbort fn st) { fresh with state := .idle, staged := [], pieces := [], applied := false }) ∧
        (x.state = .idle → q.isData = true → t.dirtyPieces k q = [] → leaves (.quireRestore fn st) fresh) ∧
        (x.state = .idle → q.isData = false → leaves (.quireRestore fn st) fresh) ∧
        (∀ (r : Fin 32) (e : W32) (from_ : List (Nat × List (List Byte))) (ws : List Nat) (t2 : Dev),
          x.state = .idle → from_.length = q.k → (from_.map (·.1)).Nodup → (∀ f ∈ from_, f.1 < q.k + q.p ∧ f.1 ≠ r.val) → q.k ≤ r.val → r.val < q.k + q.p →
          q.isData = false → (∀ f ∈ from_, f.2.map List.length = q.ents.map QEnt.len) → gfWeights q.k q.p r.val (from_.map (·.1)) = some ws →
          (t.modQuire k fun x => { x with resume := false }).qwrites k (q.ents.zipIdx.map fun e' =>
            (t.regionVa k e'.1.par, gfMix e'.1.len ws (from_.map fun f => f.2.getD e'.2 []) ++ commitLine e 2)) = .ok () t2 →
          ∃ d, Runs (.quireReconstruct fn st r e from_) s d ∧ (d.stall k).quire.epoch = e ∧ d.mem = t2.mem)) ∧
      (∀ (r : Fin 32) (ds : List (Nat × Nat × List Byte)) (y : Region) (t2 : Dev), x.state = .preparing → q.isData = false → r.val < q.k → r.val ∉ x.staged →
        (∀ e ∈ ds, ∃ n, q.ents[e.1]? = some n ∧ e.2.1 + e.2.2.length ≤ n.len) → t.regionOf k q.stg = some y →
        let at_ (n : Nat) : Nat := 64 + (x.pieces.map fun e => e.2.2.2.2).sum + ((ds.take n).map fun e => e.2.2.length).sum
        at_ ds.length ≤ y.len → t.qwrites k (ds.zipIdx.map fun e => (y.va + at_ e.2, e.1.2.2)) = .ok () t2 →
        ∃ d, Runs (.quireStage st r ds) s d ∧ d.mem = t2.mem ∧ (d.stall k).quire = { (t2.stall k).quire with
          staged := (t2.stall k).quire.staged ++ [r.val],
          pieces := (t2.stall k).quire.pieces ++ ds.zipIdx.map fun e => (r.val, e.1.1, e.1.2.1, at_ e.2, e.1.2.2.length) }) ∧
      (x.state = .preparing → (q.isData = true ∨ ∀ i < q.k, i ∈ x.staged) → leaves (.quirePrepared st) { x with state := .prepared }) ∧
      (x.state = .preparing → q.isData = false → (∃ i < q.k, i ∉ x.staged) → leaves (.quirePrepared st) x) ∧
      (∀ d, x.state = .committing → t.quireFinish k q x.target = some d → (∀ e ∈ d.hub.fns, e.2.wbuf = []) →
        Runs (.quireCommitComplete st) s d ∧ (d.stall k).quire.state = .idle ∧ (d.stall k).quire.epoch = x.target) ∧
      (x.resume = true → x.state = .idle → (s.stall k).blk.state = .loaded →
        (t.openCommit k q = none → leaves (.quireResumeCommit st) fresh) ∧
        (∀ e t1 d, t.openCommit k q = some e → t.quireApply k q = some t1 → t1.quireFinish k q e = some d →
          Runs (.quireResumeCommit st) s d ∧ (d.stall k).quire.state = .idle ∧ (d.stall k).quire.epoch = e ∧ (d.stall k).quire.resume = false)))

/-- The measured energy is divided among the accounts, exactly: Each account of 97 receives its truncated share of E_IN
in proportion to its attributed energy, and the µJ that remain go one each to the accounts with the largest discarded
fractions, ties to the lower stall and the operator account (96) last; with nothing attributed the operator receives
all. The shares sum to E_IN. The record of a close holds the share of each account of the interval. -/
def Obligations.EnergyApportionment : Prop :=
  (∀ (e : Nat) (a : Nat → Nat),
    let tot := ((List.range 97).map a).sum
    let share (i : Nat) : Nat := (apportion e a).getD i 0
    let frac (i : Nat) : Nat := e * a i % tot
    (apportion e a).length = 97 ∧ (apportion e a).sum = e ∧
    (tot = 0 → share 96 = e ∧ ∀ i < 96, share i = 0) ∧
    (0 < tot → ∀ i < 97, (share i = e * a i / tot ∨ share i = e * a i / tot + 1) ∧
      ∀ j < 97, share i = e * a i / tot + 1 → share j = e * a j / tot → frac j < frac i ∨ (frac j = frac i ∧ i < j))) ∧
  (∀ (m : MeterSt) (w : MtrWork) (seq : Nat) (dg : BitVec 256) (cmd : List Byte) (i : Nat), 48 ≤ cmd.length → w.tsOpen.length ≤ 16 →
    w.stalls.length ≤ 96 → i ≤ w.stalls.length →
    let b := m.intervalRecord w seq dg cmd
    let account := (w.stalls ++ [96]).getD i 96
    u64 b (1288 + 16 * i) = (apportion (uj w.eIn) fun j => tget 0 w.acct j).getD account 0 % 2 ^ 64 ∧
    u8 b (1288 + 16 * i + 8) = if account = 96 then 255 else account % 256)

/-- The meter measures, attributes and keeps its state: While the meter serves: each pair of samples adds its product to
the register and the open interval, and to E_OUTRANGE outside the range; a test pulse goes out for each 360 J; a good
reply of the poll in progress adds its charge differences modulo 2^32 to the source's domains, and the differences of
its die's usage counters; a poll cycle's end adds each domain's charge times the bus voltage, and gives the accounts no
more than the domains drew; a map that the security core sends takes effect with the next cycle. A state write that ends
makes the bank written the one that governs; one that does not leaves the other governing. The write inhibit starts
below 40.0 V or 3.05 V, without a store write, and ends with one. It says of each of these commands that exec answers a
next state, and which: FRONT_END_SAMPLE, TEST_PULSE, SENSE_REPLY, METER_POLL, METER_MAP, METER_STATE_WRITE,
METER_INHIBIT_START, METER_INHIBIT_RELEASE. -/
def Obligations.MeterMeasures : Prop :=
  ∀ s : State, s.mtrUp = true →
    let m := s.meter
    let w := m.work
    let kept (m' : MeterSt) : Prop := m'.bank0 = m.bank0 ∧ m'.bank1 = m.bank1 ∧ m'.records = m.records ∧ m'.work.seq = w.seq ∧ m'.work.acked = w.acked
    (∀ ma mv : Nat,
      let p := ma * mv
      let outside := mv < 40000 ∨ 60000 < mv ∨ ma < 2000 ∨ 85000 < ma
      ∃ m', RunsMeter (.frontEndSample ma mv) s s.toDev m' ∧ kept m' ∧
        m'.work = { w with reg := w.reg + p, eIn := w.eIn + p, eOut := if outside then w.eOut + p else w.eOut, nsamp := w.nsamp + 1 }) ∧
    (pulseEvery ≤ m.sincePulse → RunsMeter .testPulse s (s.emit .pulse) { m with sincePulse := m.sincePulse - pulseEvery }) ∧
    (∀ (src : Fin 9) (charges : List W32) (us : Nat) (old : SenseLast), us ≤ 1000 → m.polling = true → charges.length = (if src.val = 8 then 1 else 16) →
      tget none m.last src.val = some old → m.cycle - old.at_ ≤ 100 →
      ∃ m', RunsMeter (.senseReply src m.poll true charges us) s s.toDev m' ∧ m'.work = w ∧ kept m' ∧
        (∀ j < charges.length, tget 0 m'.dq (domainOf src.val j) = tget 0 m.dq (domainOf src.val j) +
          ((charges.getD j 0).toNat + 2 ^ 32 - old.charge.getD j 0) % 2 ^ 32) ∧
        (∀ j < (if src.val = 8 then 0 else 384), tget 0 m'.du j =
          tget 0 m.du j + ((s.usageOf src.val).getD j 0 + 2 ^ 48 - old.usage.getD j 0) % 2 ^ 48)) ∧
    (∀ mv : Nat, m.closing = none →
      ∃ m', RunsMeter (.meterPoll mv) s s.toDev m' ∧ kept m' ∧ m'.polling = true ∧ m'.poll = m.poll + 1 ∧ m'.work.eIn = w.eIn ∧ m'.work.reg = w.reg ∧
        (∀ p, m.nextMap = some p → m'.map = some p ∧ m'.nextMap = none ∧ m'.work.nmap = w.nmap + 1) ∧
        (m.polling = true → m'.heartbeat = m.heartbeat + 1 ∧ (∀ d < 129, tget 0 m'.work.dom d = tget 0 w.dom d + tget 0 m.dq d * mv) ∧
          ((List.range 97).map fun k => tget 0 m'.work.acct k).sum ≤
            ((List.range 97).map fun k => tget 0 w.acct k).sum + ((List.range 129).map fun d => tget 0 m.dq d * mv).sum)) ∧
    (s.coreUp 0 = true → ∃ p, RunsMeter .meterMap s s.toDev { m with nextMap := some p } ∧ p.stalls.length = 96 ∧
      ∀ c < 96, p.stalls.getD c 255 = (s.clusterStall c).getD 255) ∧
    (∀ (mv sb : Nat) (ends : Bool),
      (m.inhibit = false → (writeEvery ≤ m.sinceWrite ∨ (mv < 42000 ∧ m.inWarn = false) ∨ (sb < 3150 ∧ m.sbWarn = false)) →
        ∃ m', RunsMeter (.meterStateWrite mv sb ends) s s.toDev m' ∧ m'.work = w ∧ m'.records = m.records ∧ m'.sinceWrite = 0 ∧
          (ends = true → ∃ b, m'.governs = some b ∧ b.work = m.banked) ∧
          (ends = false → (if m.bank0.wseq ≤ m.bank1.wseq then m.bank1.good else m.bank0.good) = true →
            m'.governs = some (if m.bank0.wseq ≤ m.bank1.wseq then m.bank1 else m.bank0))) ∧
      (m.inhibit = false → m.sinceWrite < writeEvery → 42000 ≤ mv → 3150 ≤ sb →
        ∃ m', RunsMeter (.meterStateWrite mv sb ends) s s.toDev m' ∧ m'.work = w ∧ kept m')) ∧
    (∀ mv sb : Nat, m.inhibit = false → m.closing = none → (mv < 40000 ∨ sb < 3050) →
      ∃ m', RunsMeter (.meterInhibitStart mv sb) s s.toDev m' ∧ m'.inhibit = true ∧ kept m' ∧ m'.work = { w with flags := m'.work.flags } ∧
        bit m'.work.flags 8 = true) ∧
    (∀ mv sb ms : Nat, m.inhibit = true → m.closing = none → m.evHeld = [] → 40500 ≤ mv → 3100 ≤ sb → 100 ≤ ms →
      ∃ m', RunsMeter (.meterInhibitRelease mv sb ms) s s.toDev m' ∧ m'.inhibit = false ∧ m'.work = w ∧ ∃ b, m'.governs = some b ∧ b.work = w)

/-- The meter serves its commands in order and with the codes of R403: A command carried to a free mailbox waits behind
those already there, or ends with 0x0F where no cartridge is fitted. The command at the front ends with the first code
of R403 that applies, changing no key, record or acknowledgement when that is not 0. An accepted ACK acknowledges;
ENROLL fills the first empty slot and REVOKE empties the named key's, each with an event; VERIFIED clears SEAL_BROKEN
with an event; READ and GET_CERT answer. An accepted CLOSE waits for its boundary, and once its record is written, the
record is the next and the mailbox is done. It says of each of these commands that exec answers a next state, and which:
METER, CLOSE, ACK, ENROLL, REVOKE, VERIFIED, READ, GET_CERT, METER_RECORD_COMMIT. -/
def Obligations.MeterCommands : Prop :=
  ∀ s : State,
    let m := s.meter
    let w := m.work
    (∀ (b : Binding) (cmd : List Byte), s.mctpUp b = true → m.mbx1.state ≠ 1 → m.mbx1.state ≠ 2 →
      (m.present = true → s.mtrUp = false → ∃ m', RunsMeter (.meter b cmd) s s.toDev m' ∧ (∃ c, m'.queue = m.queue ++ [(1, c)] ∧ c = cmd.take 4096) ∧
        m'.mbx1.state = 1 ∧ m'.work = w) ∧
      (m.present = true → (∀ e ∈ m.queue, mtrKnown (u16 e.2 0) = true) → mtrKnown (u16 (cmd.take 4096) 0) = true →
        ∃ m', RunsMeter (.meter b cmd) s s.toDev m' ∧ m'.queue = m.queue ++ [(1, cmd.take 4096)] ∧ m'.mbx1.state = 1 ∧ m'.work = w) ∧
      (m.present = false → ∃ d m', RunsMeter (.meter b cmd) s d m' ∧ m'.mbx1.state = 3 ∧ m'.mbx1.code = 0x0F ∧ m'.queue = m.queue)) ∧
    (∀ (i : Nat) (c : List Byte) (rest : List (Nat × List Byte)), s.mtrUp = true → m.closing = none → m.queue = (i, c) :: rest →
      (∀ e ∈ rest, mtrKnown (u16 e.2 0) = true) →
      let t := u16 c 0
      let ends (cmd : Instr) (code : Nat) (p : MeterSt → Prop) : Prop := ∃ d m', RunsMeter cmd s d m' ∧ (m'.mbx i).state = 3 ∧
        (m'.mbx i).code = BitVec.ofNat 8 code ∧ m'.queue = rest ∧ m'.closing = none ∧ m'.work.reg = w.reg ∧ m'.work.eIn = w.eIn ∧ m'.work.acct = w.acct ∧
        d = { s.toDev with hub := d.hub, out := d.out, freeCtr := d.freeCtr } ∧ p m'
      let event (m' : MeterSt) (code : Nat) : Prop := m'.work.seq = w.seq + 1 ∧ ∃ r, m'.record (w.seq + 1) = some r ∧ u32 r 200 = code ∧ u16 r 6 = 2
      (m.code c ≠ 0 → ∀ cmd : Instr, ((t = 0x101 ∧ cmd = .close) ∨ (t = 0x102 ∧ cmd = .ack) ∨ (t = 0x103 ∧ cmd = .enroll) ∨ (t = 0x104 ∧ cmd = .revoke) ∨
          (t = 0x105 ∧ cmd = .verified) ∨ (t = 0x201 ∧ cmd = .read) ∨ (t = 0x202 ∧ cmd = .getCert)) →
        ends cmd (m.code c) fun m' => m'.work = w ∧ m'.records = m.records ∧ m'.challenge = m.challenge) ∧
      (m.code c = 0 → i < 2 →
        (t = 0x102 → ends .ack 0 fun m' => m'.work = { w with acked := u64 c 8 } ∧ m'.records = m.records) ∧
        (t = 0x103 → w.authKeys.length = 2 → ends .enroll 0 fun m' => event m' 3 ∧
          m'.work.authKeys = lmod w.authKeys (if (w.authKeys.getD 0 none).isNone then 0 else 1) (fun _ => some (slice c 48 1312))) ∧
        (t = 0x104 → ∀ key, some key ∈ w.authKeys → (keyIdOf key).toNat = u64 c 8 → ends .revoke 0 fun m' => event m' 4 ∧ some key ∉ m'.work.authKeys) ∧
        (t = 0x105 → ends .verified 0 fun m' => event m' 7 ∧ m'.work.sealBroken = false ∧ m'.work.authKeys = w.authKeys) ∧
        (t = 0x201 → ∀ r, m.record (u64 c 8) = some r → ends .read 0 fun m' => (m'.mbx i).resp = r ∧ m'.work = w) ∧
        (t = 0x202 → ends .getCert 0 fun m' => slice (m'.mbx i).resp 8 8184 = slice certObject (u32 c 8) 8184 ∧ m'.work = w) ∧
        (t = 0x101 → ∃ m' j, RunsMeter .close s s.toDev m' ∧ (m'.mbx i).state = 2 ∧ m'.closing = some j ∧ j.cmd = c ∧ j.mbx = i ∧ m'.queue = rest ∧
          j.cut.isSome = !m.polling ∧ m'.records = m.records ∧ m'.work.seq = w.seq ∧ m'.work.reg = w.reg))) ∧
    (∀ (j : CloseJob) (cut : MtrWork), s.mtrUp = true → m.inhibit = false → m.closing = some j → j.cut = some cut → m.evHeld = [] → j.mbx < 2 →
      (∀ e ∈ m.queue, mtrKnown (u16 e.2 0) = true) →
      ∃ d m', RunsMeter .meterRecordCommit s d m' ∧ m'.closing = none ∧ m'.work = { w with seq := w.seq + 1, lastClose := some (slice j.cmd 8 16) } ∧
        m'.record (w.seq + 1) = some j.record ∧ (m'.mbx j.mbx).state = 3 ∧ (m'.mbx j.mbx).code = 0 ∧ m'.recon = cut.reconBad ∧
        (∃ b, m'.governs = some b ∧ b.work = m'.work))

/-- Power-up, the seal, the cartridge and its firmware: At power-up the meter serves from the bank that governs, with
its register, interval and keys, and a power-up event is the next record; a broken trace sets SEAL_BROKEN. Breaking the
trace of a serving meter does so at once. With the trace broken a properly signed new image loads and a verification key
is enrolled; with it whole neither is. A restart of the processor keeps the register, puts a cut that was not committed
back into the open interval and empties the queue. Removing the cartridge leaves the module off, without a meter. It
says of each of these commands that exec answers a next state, and which: METER_POWER_UP, SEAL_BREAK, CART_REMOVE,
METER_FW_LOAD, VERIFICATION_KEY_ENROL, METER_PROCESSOR_RESTART. -/
def Obligations.MeterPowerAndSeal : Prop :=
  ∀ s : State,
    let m := s.meter
    let w := m.work
    (∀ (trace : Bool) (b : MtrBank), s.power.state ≠ .off → m.ready = false → m.governs = some b → m.laterRecords b.work.seq = [] → 0 < b.work.freePlaces →
      ∃ d m', RunsMeter (.meterPowerUp trace) s d m' ∧ m'.ready = true ∧ m'.present = true ∧ m'.work.reg = b.work.reg ∧ m'.work.eIn = b.work.eIn ∧
        m'.work.authKeys = b.work.authKeys ∧ m'.work.acked = b.work.acked ∧ m'.work.lastClose = b.work.lastClose ∧ m'.inhibit = false ∧
        m'.work.sealBroken = (b.work.sealBroken || trace) ∧ (∃ r, m'.record (b.work.seq + 1) = some r ∧ u16 r 6 = 2 ∧ u32 r 200 = 1) ∧
        d = { s.toDev with freeCtr := d.freeCtr }) ∧
    (m.present = true →
      (s.mtrUp = true → ∃ m', RunsMeter (.sealBreak true) s s.toDev m' ∧ m'.traceBroken = true ∧ m'.work.sealBroken = true ∧ m'.work.reg = w.reg ∧
        m'.work.authKeys = w.authKeys) ∧
      RunsMeter (.sealBreak false) s s.toDev { m with traceBroken := false } ∧
      (∃ d, RunsMeter .cartRemove s d {} ∧ d.power.state = .off ∧ d.looms = [] ∧ d.mem = {})) ∧
    (∀ image sig key : List Byte, s.mtrUp = true →
      (m.traceBroken = false → Runs (.meterFwLoad image sig) s s.toDev ∧ Runs (.verificationKeyEnrol key) s s.toDev) ∧
      (m.traceBroken = true → RunsMeter (.verificationKeyEnrol key) s s.toDev { m with work := { w with verKey := some key } } ∧
        (Config.mldsaVerify Config.metrologyKey (digestBytes (Config.sha3_256 image)) sig = true → Config.sha3_256 image ≠ m.fwDigest →
          ∃ d m', RunsMeter (.meterFwLoad image sig) s d m' ∧ m'.fwDigest = Config.sha3_256 image ∧ m'.work.reg = w.reg ∧ m'.queue = [] ∧
            m'.work.authKeys = w.authKeys ∧ d = { s.toDev with freeCtr := d.freeCtr }))) ∧
    (s.mtrUp = true → ∃ d m', RunsMeter .meterProcessorRestart s d m' ∧ m'.queue = [] ∧ m'.closing = none ∧ m'.work.reg = w.reg ∧
      m'.work.authKeys = w.authKeys ∧ d = { s.toDev with freeCtr := d.freeCtr } ∧
      m'.work.eIn = w.eIn + (match m.closing with
        | some j => (match j.cut with
          | some c => c.eIn
          | none => 0)
        | none => 0))
end

