-- ==== Sys2Proof/Laws/Tab.lean ====
section
/-!
SUPPORT. Sparse tables: what a read finds after a write, and that writes keep the canonical form.
-/
namespace Sys2Proof.Machine

theorem tget_tdel {α : Type} (d : α) (t : Tab α) (i j : Nat) :
    tget d (tdel t i) j = if j = i then d else tget d t j := by
  unfold tdel
  induction t with
  | nil => simp [tget]
  | cons e t ih =>
    obtain ⟨k, w⟩ := e
    by_cases hk : k = i
    · subst hk; simp only [List.filter_cons, bne_self_eq_false, Bool.false_eq_true, if_false, ih, tget]
      by_cases hj : j = k <;> simp [hj]
    · have : (k != i) = true := by simpa using hk
      simp only [List.filter_cons, this, if_true, tget, ih]
      by_cases hj : j = i
      · subst hj; simp [Ne.symm hk]
      · simp [hj]

theorem mem_tdel {α : Type} {t : Tab α} {i : Nat} {e : Nat × α} : e ∈ tdel t i ↔ e ∈ t ∧ e.1 ≠ i := by
  simp [tdel]

theorem tget_tput {α : Type} (d : α) (t : Tab α) (i j : Nat) (v : α) (h : ∀ e ∈ t, e.1 ≠ i) :
    tget d (tput t i v) j = if j = i then v else tget d t j := by
  induction t with
  | nil => simp [tput, tget]
  | cons e t ih =>
    obtain ⟨k, w⟩ := e
    have hk : k ≠ i := h (k, w) (by simp)
    simp only [tput]
    split
    · rfl
    · simp only [tget, ih (fun e he => h e (by simp [he]))]
      by_cases hj : j = k
      · subst hj; simp [hk]
      · simp [hj]

theorem tdel_tput {α : Type} (t : Tab α) (i : Nat) (v : α) : tdel (tput t i v) i = tdel t i := by
  induction t with
  | nil => simp [tput, tdel]
  | cons e t ih =>
    obtain ⟨k, w⟩ := e
    simp only [tput]
    split
    · simp [tdel]
    · simp only [tdel, List.filter_cons] at ih ⊢; rw [ih]

theorem tdel_tdel {α : Type} (t : Tab α) (i : Nat) : tdel (tdel t i) i = tdel t i := by simp [tdel, List.filter_filter]

/-- A read after a write finds the value written, and every other key as it was. -/
theorem tget_tset {α : Type} [DecidableEq α] (d : α) (t : Tab α) (i j : Nat) (v : α) :
    tget d (tset d t i v) j = if j = i then v else tget d t j := by
  unfold tset
  split
  · subst_vars; exact tget_tdel _ t i j
  · rw [tget_tput d _ i j v (fun e he => (mem_tdel.1 he).2), tget_tdel]
    by_cases h : j = i <;> simp [h]

/-- Of two writes to one key the second stands. -/
@[simp] theorem tset_tset {α : Type} [DecidableEq α] (d : α) (t : Tab α) (i : Nat) (v w : α) :
    tset d (tset d t i v) i w = tset d t i w := by
  have h : tdel (tset d t i v) i = tdel t i := by
    unfold tset; split
    · exact tdel_tdel t i
    · rw [tdel_tput, tdel_tdel]
  rw [tset, h, tset]

@[simp] theorem tget_tset_same {α : Type} [DecidableEq α] (d : α) (t : Tab α) (i : Nat) (v : α) :
    tget d (tset d t i v) i = v := by simp [tget_tset]

theorem tget_tset_other {α : Type} [DecidableEq α] (d : α) (t : Tab α) (i j : Nat) (v : α) (h : j ≠ i) :
    tget d (tset d t i v) j = tget d t j := by simp [tget_tset, h]

/-! The canonical form, said of the list: no entry is the default, and keys rise. -/

theorem twfFrom_iff {α : Type} [DecidableEq α] (d : α) (t : Tab α) (lo : Option Nat) :
    twfFrom d lo t = true ↔
      (∀ e ∈ t, e.2 ≠ d ∧ ∀ b, lo = some b → b < e.1) ∧ t.Pairwise (fun a b => a.1 < b.1) := by
  induction t generalizing lo with
  | nil => simp [twfFrom]
  | cons e t ih =>
    obtain ⟨k, v⟩ := e
    cases lo with
    | none =>
      simp only [twfFrom, Bool.and_eq_true, decide_eq_true_eq, ih, List.mem_cons, List.pairwise_cons]
      constructor
      · rintro ⟨hv, h, hp⟩
        refine ⟨?_, fun e he => (h e he).2 k rfl, hp⟩
        rintro e (rfl | he)
        · exact ⟨hv, by simp⟩
        · exact ⟨(h e he).1, by simp⟩
      · rintro ⟨h, hk, hp⟩
        refine ⟨(h _ (.inl rfl)).1, fun e he => ⟨(h e (.inr he)).1, ?_⟩, hp⟩
        rintro b hb; cases hb; exact hk e he
    | some lo =>
      simp only [twfFrom, Bool.and_eq_true, decide_eq_true_eq, ih, List.mem_cons, List.pairwise_cons]
      constructor
      · rintro ⟨⟨hlo, hv⟩, h, hp⟩
        refine ⟨?_, fun e he => (h e he).2 k rfl, hp⟩
        rintro e (rfl | he)
        · exact ⟨hv, by rintro b hb; cases hb; exact hlo⟩
        · exact ⟨(h e he).1, by rintro b hb; cases hb; exact Nat.lt_trans hlo ((h e he).2 k rfl)⟩
      · rintro ⟨h, hk, hp⟩
        refine ⟨⟨(h _ (.inl rfl)).2 lo rfl, (h _ (.inl rfl)).1⟩, fun e he => ⟨(h e (.inr he)).1, ?_⟩, hp⟩
        rintro b hb; cases hb; exact hk e he

theorem twf_iff {α : Type} [DecidableEq α] (d : α) (t : Tab α) :
    twf d t = true ↔ (∀ e ∈ t, e.2 ≠ d) ∧ t.Pairwise (fun a b => a.1 < b.1) := by
  simp [twf, twfFrom_iff]

theorem mem_tput {α : Type} (t : Tab α) (i : Nat) (v : α) (e : Nat × α) (h : e ∈ tput t i v) :
    e = (i, v) ∨ e ∈ t := by
  induction t with
  | nil => simpa [tput] using h
  | cons a t ih =>
    obtain ⟨k, w⟩ := a
    simp only [tput] at h
    split at h
    · simpa using h
    · rcases List.mem_cons.1 h with h | h
      · exact .inr (by simp [h])
      · exact (ih h).imp id (List.mem_cons_of_mem _)

theorem tput_pairwise {α : Type} (t : Tab α) (i : Nat) (v : α) (h : t.Pairwise (fun a b => a.1 < b.1)) (hi : ∀ e ∈ t, e.1 ≠ i) :
    (tput t i v).Pairwise (fun a b => a.1 < b.1) := by
  induction t with
  | nil => simp [tput]
  | cons a t ih =>
    obtain ⟨k, w⟩ := a
    obtain ⟨h1, h2⟩ := List.pairwise_cons.1 h
    have hk : k ≠ i := hi (k, w) (by simp)
    simp only [tput]
    split
    · rename_i hik
      refine List.pairwise_cons.2 ⟨?_, h⟩
      intro e he
      rcases List.mem_cons.1 he with rfl | he
      · exact hik
      · exact Nat.lt_trans hik (h1 e he)
    · refine List.pairwise_cons.2 ⟨?_, ih h2 (fun e he => hi e (by simp [he]))⟩
      intro e he
      rcases mem_tput t i v e he with rfl | he
      · simp only; omega
      · exact h1 e he

/-- A write keeps the canonical form. -/
theorem twf_tset {α : Type} [DecidableEq α] (d : α) (t : Tab α) (i : Nat) (v : α) (h : twf d t = true) :
    twf d (tset d t i v) = true := by
  rw [twf_iff] at h ⊢
  have hp : (tdel t i).Pairwise (fun a b => a.1 < b.1) := h.2.filter _
  unfold tset
  split
  · exact ⟨fun e he => h.1 e (mem_tdel.1 he).1, hp⟩
  · rename_i hv
    refine ⟨fun e he => ?_, tput_pairwise _ i v hp (fun e he => (mem_tdel.1 he).2)⟩
    rcases mem_tput _ i v e he with rfl | he
    · exact hv
    · exact h.1 e (mem_tdel.1 he).1

theorem twf_tmod {α : Type} [DecidableEq α] (d : α) (t : Tab α) (i : Nat) (f : α → α) (h : twf d t = true) :
    twf d (tmod d t i f) = true := twf_tset d t i _ h

theorem twf_tdrop {α : Type} [DecidableEq α] (d : α) (p : Nat → Bool) (t : Tab α) (h : twf d t = true) :
    twf d (tdrop p t) = true := by
  rw [twf_iff] at h ⊢
  exact ⟨fun e he => h.1 e (List.mem_filter.1 he).1, h.2.filter _⟩

theorem twf_tsetRange {α : Type} [DecidableEq α] (d : α) (vs : List α) (t : Tab α) (i : Nat) (h : twf d t = true) :
    twf d (tsetRange d t i vs) = true := by
  induction vs generalizing t i with
  | nil => exact h
  | cons v vs ih => exact ih _ _ (twf_tset d t i v h)

/-- What a read finds after a range is written. -/
theorem tget_tsetRange {α : Type} [DecidableEq α] (d : α) (vs : List α) (t : Tab α) (i j : Nat) :
    tget d (tsetRange d t i vs) j = if i ≤ j ∧ j < i + vs.length then vs.getD (j - i) d else tget d t j := by
  induction vs generalizing t i with
  | nil => rw [tsetRange, if_neg (by simp only [List.length_nil]; omega)]
  | cons v vs ih =>
    rw [tsetRange, ih, tget_tset]
    by_cases hj : j = i
    · subst hj; rw [if_neg (by omega), if_pos rfl, if_pos (by simp only [List.length_cons]; omega)]; simp
    · by_cases h : i + 1 ≤ j ∧ j < i + 1 + vs.length
      · have e : j - i = (j - (i + 1)) + 1 := by omega
        rw [if_pos h, if_pos (by simp only [List.length_cons]; omega), e, List.getD_cons_succ]
      · rw [if_neg h, if_neg hj, if_neg (by simp only [List.length_cons]; omega)]

end Sys2Proof.Machine
end

