-- ==== Sys2Proof/Laws/State.lean ====
section
/-!
SUPPORT. What each update of the state leaves as it is, field by field; what reads find after updates.
-/
namespace Sys2Proof.Machine

/-! ### setLoom -/

@[simp] theorem Dev.setLoom_out (s : Dev) (l : Nat) (x : LoomSt) : (s.setLoom l x).out = s.out := rfl
@[simp] theorem Dev.setLoom_freeCtr (s : Dev) (l : Nat) (x : LoomSt) : (s.setLoom l x).freeCtr = s.freeCtr := rfl
@[simp] theorem Dev.setLoom_tally (s : Dev) (l : Nat) (x : LoomSt) : (s.setLoom l x).tally = s.tally := rfl
@[simp] theorem Dev.setLoom_units (s : Dev) (l : Nat) (x : LoomSt) : (s.setLoom l x).units = s.units := rfl
@[simp] theorem Dev.setLoom_stalls (s : Dev) (l : Nat) (x : LoomSt) : (s.setLoom l x).stalls = s.stalls := rfl
@[simp] theorem Dev.setLoom_net (s : Dev) (l : Nat) (x : LoomSt) : (s.setLoom l x).net = s.net := rfl
@[simp] theorem Dev.setLoom_waiters (s : Dev) (l : Nat) (x : LoomSt) : (s.setLoom l x).waiters = s.waiters := rfl
@[simp] theorem Dev.setLoom_acks (s : Dev) (l : Nat) (x : LoomSt) : (s.setLoom l x).acks = s.acks := rfl
@[simp] theorem Dev.setLoom_mem (s : Dev) (l : Nat) (x : LoomSt) : (s.setLoom l x).mem = s.mem := rfl
@[simp] theorem Dev.setLoom_hub (s : Dev) (l : Nat) (x : LoomSt) : (s.setLoom l x).hub = s.hub := rfl
@[simp] theorem Dev.setLoom_links (s : Dev) (l : Nat) (x : LoomSt) : (s.setLoom l x).links = s.links := rfl
@[simp] theorem Dev.setLoom_power (s : Dev) (l : Nat) (x : LoomSt) : (s.setLoom l x).power = s.power := rfl
@[simp] theorem Dev.setLoom_fw (s : Dev) (l : Nat) (x : LoomSt) : (s.setLoom l x).fw = s.fw := rfl
@[simp] theorem Dev.setLoom_sec (s : Dev) (l : Nat) (x : LoomSt) : (s.setLoom l x).sec = s.sec := rfl
@[simp] theorem Dev.setLoom_mgt (s : Dev) (l : Nat) (x : LoomSt) : (s.setLoom l x).mgt = s.mgt := rfl
@[simp] theorem Dev.setLoom_stall (s : Dev) (l : Nat) (x : LoomSt) (j : Nat) : (s.setLoom l x).stall j = s.stall j := rfl
@[simp] theorem Dev.setLoom_unit (s : Dev) (l : Nat) (x : LoomSt) (j : Nat) : (s.setLoom l x).unit j = s.unit j := rfl
@[simp] theorem Dev.setLoom_counter (s : Dev) (l : Nat) (x : LoomSt) (j m : Nat) : (s.setLoom l x).counter j m = s.counter j m := rfl
@[simp] theorem Dev.setLoom_fn (s : Dev) (l : Nat) (x : LoomSt) (j : Nat) : (s.setLoom l x).fn j = s.fn j := rfl
@[simp] theorem Dev.setLoom_stallRec (s : Dev) (l : Nat) (x : LoomSt) (j : Nat) : (s.setLoom l x).stallRec j = s.stallRec j := rfl
@[simp] theorem Dev.setLoom_loomStall (s : Dev) (l : Nat) (x : LoomSt) (j : Nat) : (s.setLoom l x).loomStall j = s.loomStall j := rfl
@[simp] theorem Dev.setLoom_stallLooms (s : Dev) (l : Nat) (x : LoomSt) (j : Nat) : (s.setLoom l x).stallLooms j = s.stallLooms j := rfl
@[simp] theorem Dev.setLoom_hopper (s : Dev) (l : Nat) (x : LoomSt) (j : Nat) : (s.setLoom l x).hopper j = s.hopper j := rfl
@[simp] theorem Dev.setLoom_link (s : Dev) (l : Nat) (x : LoomSt) (j : Nat) : (s.setLoom l x).link j = s.link j := rfl
@[simp] theorem Dev.setLoom_coreUp (s : Dev) (l : Nat) (x : LoomSt) (p : Nat) : (s.setLoom l x).coreUp p = s.coreUp p := rfl
@[simp] theorem Dev.setLoom_reg (s : Dev) (l : Nat) (x : LoomSt) (j : Nat) : (s.setLoom l x).reg j = s.reg j := rfl

/-! ### modLoom -/

@[simp] theorem Dev.modLoom_out (s : Dev) (l : Nat) (f : LoomSt → LoomSt) : (s.modLoom l f).out = s.out := rfl
@[simp] theorem Dev.modLoom_freeCtr (s : Dev) (l : Nat) (f : LoomSt → LoomSt) : (s.modLoom l f).freeCtr = s.freeCtr := rfl
@[simp] theorem Dev.modLoom_tally (s : Dev) (l : Nat) (f : LoomSt → LoomSt) : (s.modLoom l f).tally = s.tally := rfl
@[simp] theorem Dev.modLoom_units (s : Dev) (l : Nat) (f : LoomSt → LoomSt) : (s.modLoom l f).units = s.units := rfl
@[simp] theorem Dev.modLoom_stalls (s : Dev) (l : Nat) (f : LoomSt → LoomSt) : (s.modLoom l f).stalls = s.stalls := rfl
@[simp] theorem Dev.modLoom_net (s : Dev) (l : Nat) (f : LoomSt → LoomSt) : (s.modLoom l f).net = s.net := rfl
@[simp] theorem Dev.modLoom_waiters (s : Dev) (l : Nat) (f : LoomSt → LoomSt) : (s.modLoom l f).waiters = s.waiters := rfl
@[simp] theorem Dev.modLoom_acks (s : Dev) (l : Nat) (f : LoomSt → LoomSt) : (s.modLoom l f).acks = s.acks := rfl
@[simp] theorem Dev.modLoom_mem (s : Dev) (l : Nat) (f : LoomSt → LoomSt) : (s.modLoom l f).mem = s.mem := rfl
@[simp] theorem Dev.modLoom_hub (s : Dev) (l : Nat) (f : LoomSt → LoomSt) : (s.modLoom l f).hub = s.hub := rfl
@[simp] theorem Dev.modLoom_links (s : Dev) (l : Nat) (f : LoomSt → LoomSt) : (s.modLoom l f).links = s.links := rfl
@[simp] theorem Dev.modLoom_power (s : Dev) (l : Nat) (f : LoomSt → LoomSt) : (s.modLoom l f).power = s.power := rfl
@[simp] theorem Dev.modLoom_fw (s : Dev) (l : Nat) (f : LoomSt → LoomSt) : (s.modLoom l f).fw = s.fw := rfl
@[simp] theorem Dev.modLoom_sec (s : Dev) (l : Nat) (f : LoomSt → LoomSt) : (s.modLoom l f).sec = s.sec := rfl
@[simp] theorem Dev.modLoom_mgt (s : Dev) (l : Nat) (f : LoomSt → LoomSt) : (s.modLoom l f).mgt = s.mgt := rfl
@[simp] theorem Dev.modLoom_stall (s : Dev) (l : Nat) (f : LoomSt → LoomSt) (j : Nat) : (s.modLoom l f).stall j = s.stall j := rfl
@[simp] theorem Dev.modLoom_unit (s : Dev) (l : Nat) (f : LoomSt → LoomSt) (j : Nat) : (s.modLoom l f).unit j = s.unit j := rfl
@[simp] theorem Dev.modLoom_counter (s : Dev) (l : Nat) (f : LoomSt → LoomSt) (j m : Nat) : (s.modLoom l f).counter j m = s.counter j m := rfl
@[simp] theorem Dev.modLoom_fn (s : Dev) (l : Nat) (f : LoomSt → LoomSt) (j : Nat) : (s.modLoom l f).fn j = s.fn j := rfl
@[simp] theorem Dev.modLoom_stallRec (s : Dev) (l : Nat) (f : LoomSt → LoomSt) (j : Nat) : (s.modLoom l f).stallRec j = s.stallRec j := rfl
@[simp] theorem Dev.modLoom_loomStall (s : Dev) (l : Nat) (f : LoomSt → LoomSt) (j : Nat) : (s.modLoom l f).loomStall j = s.loomStall j := rfl
@[simp] theorem Dev.modLoom_stallLooms (s : Dev) (l : Nat) (f : LoomSt → LoomSt) (j : Nat) : (s.modLoom l f).stallLooms j = s.stallLooms j := rfl
@[simp] theorem Dev.modLoom_hopper (s : Dev) (l : Nat) (f : LoomSt → LoomSt) (j : Nat) : (s.modLoom l f).hopper j = s.hopper j := rfl
@[simp] theorem Dev.modLoom_link (s : Dev) (l : Nat) (f : LoomSt → LoomSt) (j : Nat) : (s.modLoom l f).link j = s.link j := rfl
@[simp] theorem Dev.modLoom_coreUp (s : Dev) (l : Nat) (f : LoomSt → LoomSt) (p : Nat) : (s.modLoom l f).coreUp p = s.coreUp p := rfl
@[simp] theorem Dev.modLoom_reg (s : Dev) (l : Nat) (f : LoomSt → LoomSt) (j : Nat) : (s.modLoom l f).reg j = s.reg j := rfl

/-! ### setStall -/

@[simp] theorem Dev.setStall_out (s : Dev) (k : Nat) (x : StallSt) : (s.setStall k x).out = s.out := rfl
@[simp] theorem Dev.setStall_freeCtr (s : Dev) (k : Nat) (x : StallSt) : (s.setStall k x).freeCtr = s.freeCtr := rfl
@[simp] theorem Dev.setStall_tally (s : Dev) (k : Nat) (x : StallSt) : (s.setStall k x).tally = s.tally := rfl
@[simp] theorem Dev.setStall_units (s : Dev) (k : Nat) (x : StallSt) : (s.setStall k x).units = s.units := rfl
@[simp] theorem Dev.setStall_looms (s : Dev) (k : Nat) (x : StallSt) : (s.setStall k x).looms = s.looms := rfl
@[simp] theorem Dev.setStall_net (s : Dev) (k : Nat) (x : StallSt) : (s.setStall k x).net = s.net := rfl
@[simp] theorem Dev.setStall_waiters (s : Dev) (k : Nat) (x : StallSt) : (s.setStall k x).waiters = s.waiters := rfl
@[simp] theorem Dev.setStall_acks (s : Dev) (k : Nat) (x : StallSt) : (s.setStall k x).acks = s.acks := rfl
@[simp] theorem Dev.setStall_mem (s : Dev) (k : Nat) (x : StallSt) : (s.setStall k x).mem = s.mem := rfl
@[simp] theorem Dev.setStall_hub (s : Dev) (k : Nat) (x : StallSt) : (s.setStall k x).hub = s.hub := rfl
@[simp] theorem Dev.setStall_links (s : Dev) (k : Nat) (x : StallSt) : (s.setStall k x).links = s.links := rfl
@[simp] theorem Dev.setStall_power (s : Dev) (k : Nat) (x : StallSt) : (s.setStall k x).power = s.power := rfl
@[simp] theorem Dev.setStall_fw (s : Dev) (k : Nat) (x : StallSt) : (s.setStall k x).fw = s.fw := rfl
@[simp] theorem Dev.setStall_sec (s : Dev) (k : Nat) (x : StallSt) : (s.setStall k x).sec = s.sec := rfl
@[simp] theorem Dev.setStall_mgt (s : Dev) (k : Nat) (x : StallSt) : (s.setStall k x).mgt = s.mgt := rfl
@[simp] theorem Dev.setStall_loom (s : Dev) (k : Nat) (x : StallSt) (j : Nat) : (s.setStall k x).loom j = s.loom j := rfl
@[simp] theorem Dev.setStall_unit (s : Dev) (k : Nat) (x : StallSt) (j : Nat) : (s.setStall k x).unit j = s.unit j := rfl
@[simp] theorem Dev.setStall_counter (s : Dev) (k : Nat) (x : StallSt) (j m : Nat) : (s.setStall k x).counter j m = s.counter j m := rfl
@[simp] theorem Dev.setStall_fn (s : Dev) (k : Nat) (x : StallSt) (j : Nat) : (s.setStall k x).fn j = s.fn j := rfl
@[simp] theorem Dev.setStall_stallRec (s : Dev) (k : Nat) (x : StallSt) (j : Nat) : (s.setStall k x).stallRec j = s.stallRec j := rfl
@[simp] theorem Dev.setStall_loomStall (s : Dev) (k : Nat) (x : StallSt) (j : Nat) : (s.setStall k x).loomStall j = s.loomStall j := rfl
@[simp] theorem Dev.setStall_stallLooms (s : Dev) (k : Nat) (x : StallSt) (j : Nat) : (s.setStall k x).stallLooms j = s.stallLooms j := rfl
@[simp] theorem Dev.setStall_hopper (s : Dev) (k : Nat) (x : StallSt) (j : Nat) : (s.setStall k x).hopper j = s.hopper j := rfl
@[simp] theorem Dev.setStall_link (s : Dev) (k : Nat) (x : StallSt) (j : Nat) : (s.setStall k x).link j = s.link j := rfl
@[simp] theorem Dev.setStall_coreUp (s : Dev) (k : Nat) (x : StallSt) (p : Nat) : (s.setStall k x).coreUp p = s.coreUp p := rfl
@[simp] theorem Dev.setStall_reg (s : Dev) (k : Nat) (x : StallSt) (j : Nat) : (s.setStall k x).reg j = s.reg j := rfl

/-! ### modStall -/

@[simp] theorem Dev.modStall_out (s : Dev) (k : Nat) (f : StallSt → StallSt) : (s.modStall k f).out = s.out := rfl
@[simp] theorem Dev.modStall_freeCtr (s : Dev) (k : Nat) (f : StallSt → StallSt) : (s.modStall k f).freeCtr = s.freeCtr := rfl
@[simp] theorem Dev.modStall_tally (s : Dev) (k : Nat) (f : StallSt → StallSt) : (s.modStall k f).tally = s.tally := rfl
@[simp] theorem Dev.modStall_units (s : Dev) (k : Nat) (f : StallSt → StallSt) : (s.modStall k f).units = s.units := rfl
@[simp] theorem Dev.modStall_looms (s : Dev) (k : Nat) (f : StallSt → StallSt) : (s.modStall k f).looms = s.looms := rfl
@[simp] theorem Dev.modStall_net (s : Dev) (k : Nat) (f : StallSt → StallSt) : (s.modStall k f).net = s.net := rfl
@[simp] theorem Dev.modStall_waiters (s : Dev) (k : Nat) (f : StallSt → StallSt) : (s.modStall k f).waiters = s.waiters := rfl
@[simp] theorem Dev.modStall_acks (s : Dev) (k : Nat) (f : StallSt → StallSt) : (s.modStall k f).acks = s.acks := rfl
@[simp] theorem Dev.modStall_mem (s : Dev) (k : Nat) (f : StallSt → StallSt) : (s.modStall k f).mem = s.mem := rfl
@[simp] theorem Dev.modStall_hub (s : Dev) (k : Nat) (f : StallSt → StallSt) : (s.modStall k f).hub = s.hub := rfl
@[simp] theorem Dev.modStall_links (s : Dev) (k : Nat) (f : StallSt → StallSt) : (s.modStall k f).links = s.links := rfl
@[simp] theorem Dev.modStall_power (s : Dev) (k : Nat) (f : StallSt → StallSt) : (s.modStall k f).power = s.power := rfl
@[simp] theorem Dev.modStall_fw (s : Dev) (k : Nat) (f : StallSt → StallSt) : (s.modStall k f).fw = s.fw := rfl
@[simp] theorem Dev.modStall_sec (s : Dev) (k : Nat) (f : StallSt → StallSt) : (s.modStall k f).sec = s.sec := rfl
@[simp] theorem Dev.modStall_mgt (s : Dev) (k : Nat) (f : StallSt → StallSt) : (s.modStall k f).mgt = s.mgt := rfl
@[simp] theorem Dev.modStall_loom (s : Dev) (k : Nat) (f : StallSt → StallSt) (j : Nat) : (s.modStall k f).loom j = s.loom j := rfl
@[simp] theorem Dev.modStall_unit (s : Dev) (k : Nat) (f : StallSt → StallSt) (j : Nat) : (s.modStall k f).unit j = s.unit j := rfl
@[simp] theorem Dev.modStall_counter (s : Dev) (k : Nat) (f : StallSt → StallSt) (j m : Nat) : (s.modStall k f).counter j m = s.counter j m := rfl
@[simp] theorem Dev.modStall_fn (s : Dev) (k : Nat) (f : StallSt → StallSt) (j : Nat) : (s.modStall k f).fn j = s.fn j := rfl
@[simp] theorem Dev.modStall_stallRec (s : Dev) (k : Nat) (f : StallSt → StallSt) (j : Nat) : (s.modStall k f).stallRec j = s.stallRec j := rfl
@[simp] theorem Dev.modStall_loomStall (s : Dev) (k : Nat) (f : StallSt → StallSt) (j : Nat) : (s.modStall k f).loomStall j = s.loomStall j := rfl
@[simp] theorem Dev.modStall_stallLooms (s : Dev) (k : Nat) (f : StallSt → StallSt) (j : Nat) : (s.modStall k f).stallLooms j = s.stallLooms j := rfl
@[simp] theorem Dev.modStall_hopper (s : Dev) (k : Nat) (f : StallSt → StallSt) (j : Nat) : (s.modStall k f).hopper j = s.hopper j := rfl
@[simp] theorem Dev.modStall_link (s : Dev) (k : Nat) (f : StallSt → StallSt) (j : Nat) : (s.modStall k f).link j = s.link j := rfl
@[simp] theorem Dev.modStall_coreUp (s : Dev) (k : Nat) (f : StallSt → StallSt) (p : Nat) : (s.modStall k f).coreUp p = s.coreUp p := rfl
@[simp] theorem Dev.modStall_reg (s : Dev) (k : Nat) (f : StallSt → StallSt) (j : Nat) : (s.modStall k f).reg j = s.reg j := rfl

/-! ### setUnit -/

@[simp] theorem Dev.setUnit_out (s : Dev) (u : Nat) (x : UnitSt) : (s.setUnit u x).out = s.out := rfl
@[simp] theorem Dev.setUnit_freeCtr (s : Dev) (u : Nat) (x : UnitSt) : (s.setUnit u x).freeCtr = s.freeCtr := rfl
@[simp] theorem Dev.setUnit_tally (s : Dev) (u : Nat) (x : UnitSt) : (s.setUnit u x).tally = s.tally := rfl
@[simp] theorem Dev.setUnit_looms (s : Dev) (u : Nat) (x : UnitSt) : (s.setUnit u x).looms = s.looms := rfl
@[simp] theorem Dev.setUnit_stalls (s : Dev) (u : Nat) (x : UnitSt) : (s.setUnit u x).stalls = s.stalls := rfl
@[simp] theorem Dev.setUnit_net (s : Dev) (u : Nat) (x : UnitSt) : (s.setUnit u x).net = s.net := rfl
@[simp] theorem Dev.setUnit_waiters (s : Dev) (u : Nat) (x : UnitSt) : (s.setUnit u x).waiters = s.waiters := rfl
@[simp] theorem Dev.setUnit_acks (s : Dev) (u : Nat) (x : UnitSt) : (s.setUnit u x).acks = s.acks := rfl
@[simp] theorem Dev.setUnit_mem (s : Dev) (u : Nat) (x : UnitSt) : (s.setUnit u x).mem = s.mem := rfl
@[simp] theorem Dev.setUnit_hub (s : Dev) (u : Nat) (x : UnitSt) : (s.setUnit u x).hub = s.hub := rfl
@[simp] theorem Dev.setUnit_links (s : Dev) (u : Nat) (x : UnitSt) : (s.setUnit u x).links = s.links := rfl
@[simp] theorem Dev.setUnit_power (s : Dev) (u : Nat) (x : UnitSt) : (s.setUnit u x).power = s.power := rfl
@[simp] theorem Dev.setUnit_fw (s : Dev) (u : Nat) (x : UnitSt) : (s.setUnit u x).fw = s.fw := rfl
@[simp] theorem Dev.setUnit_sec (s : Dev) (u : Nat) (x : UnitSt) : (s.setUnit u x).sec = s.sec := rfl
@[simp] theorem Dev.setUnit_mgt (s : Dev) (u : Nat) (x : UnitSt) : (s.setUnit u x).mgt = s.mgt := rfl
@[simp] theorem Dev.setUnit_loom (s : Dev) (u : Nat) (x : UnitSt) (j : Nat) : (s.setUnit u x).loom j = s.loom j := rfl
@[simp] theorem Dev.setUnit_stall (s : Dev) (u : Nat) (x : UnitSt) (j : Nat) : (s.setUnit u x).stall j = s.stall j := rfl
@[simp] theorem Dev.setUnit_fn (s : Dev) (u : Nat) (x : UnitSt) (j : Nat) : (s.setUnit u x).fn j = s.fn j := rfl
@[simp] theorem Dev.setUnit_stallRec (s : Dev) (u : Nat) (x : UnitSt) (j : Nat) : (s.setUnit u x).stallRec j = s.stallRec j := rfl
@[simp] theorem Dev.setUnit_loomStall (s : Dev) (u : Nat) (x : UnitSt) (j : Nat) : (s.setUnit u x).loomStall j = s.loomStall j := rfl
@[simp] theorem Dev.setUnit_stallLooms (s : Dev) (u : Nat) (x : UnitSt) (j : Nat) : (s.setUnit u x).stallLooms j = s.stallLooms j := rfl
@[simp] theorem Dev.setUnit_hopper (s : Dev) (u : Nat) (x : UnitSt) (j : Nat) : (s.setUnit u x).hopper j = s.hopper j := rfl
@[simp] theorem Dev.setUnit_link (s : Dev) (u : Nat) (x : UnitSt) (j : Nat) : (s.setUnit u x).link j = s.link j := rfl
@[simp] theorem Dev.setUnit_coreUp (s : Dev) (u : Nat) (x : UnitSt) (p : Nat) : (s.setUnit u x).coreUp p = s.coreUp p := rfl
@[simp] theorem Dev.setUnit_reg (s : Dev) (u : Nat) (x : UnitSt) (j : Nat) : (s.setUnit u x).reg j = s.reg j := rfl

/-! ### modUnit -/

@[simp] theorem Dev.modUnit_out (s : Dev) (u : Nat) (f : UnitSt → UnitSt) : (s.modUnit u f).out = s.out := rfl
@[simp] theorem Dev.modUnit_freeCtr (s : Dev) (u : Nat) (f : UnitSt → UnitSt) : (s.modUnit u f).freeCtr = s.freeCtr := rfl
@[simp] theorem Dev.modUnit_tally (s : Dev) (u : Nat) (f : UnitSt → UnitSt) : (s.modUnit u f).tally = s.tally := rfl
@[simp] theorem Dev.modUnit_looms (s : Dev) (u : Nat) (f : UnitSt → UnitSt) : (s.modUnit u f).looms = s.looms := rfl
@[simp] theorem Dev.modUnit_stalls (s : Dev) (u : Nat) (f : UnitSt → UnitSt) : (s.modUnit u f).stalls = s.stalls := rfl
@[simp] theorem Dev.modUnit_net (s : Dev) (u : Nat) (f : UnitSt → UnitSt) : (s.modUnit u f).net = s.net := rfl
@[simp] theorem Dev.modUnit_waiters (s : Dev) (u : Nat) (f : UnitSt → UnitSt) : (s.modUnit u f).waiters = s.waiters := rfl
@[simp] theorem Dev.modUnit_acks (s : Dev) (u : Nat) (f : UnitSt → UnitSt) : (s.modUnit u f).acks = s.acks := rfl
@[simp] theorem Dev.modUnit_mem (s : Dev) (u : Nat) (f : UnitSt → UnitSt) : (s.modUnit u f).mem = s.mem := rfl
@[simp] theorem Dev.modUnit_hub (s : Dev) (u : Nat) (f : UnitSt → UnitSt) : (s.modUnit u f).hub = s.hub := rfl
@[simp] theorem Dev.modUnit_links (s : Dev) (u : Nat) (f : UnitSt → UnitSt) : (s.modUnit u f).links = s.links := rfl
@[simp] theorem Dev.modUnit_power (s : Dev) (u : Nat) (f : UnitSt → UnitSt) : (s.modUnit u f).power = s.power := rfl
@[simp] theorem Dev.modUnit_fw (s : Dev) (u : Nat) (f : UnitSt → UnitSt) : (s.modUnit u f).fw = s.fw := rfl
@[simp] theorem Dev.modUnit_sec (s : Dev) (u : Nat) (f : UnitSt → UnitSt) : (s.modUnit u f).sec = s.sec := rfl
@[simp] theorem Dev.modUnit_mgt (s : Dev) (u : Nat) (f : UnitSt → UnitSt) : (s.modUnit u f).mgt = s.mgt := rfl
@[simp] theorem Dev.modUnit_loom (s : Dev) (u : Nat) (f : UnitSt → UnitSt) (j : Nat) : (s.modUnit u f).loom j = s.loom j := rfl
@[simp] theorem Dev.modUnit_stall (s : Dev) (u : Nat) (f : UnitSt → UnitSt) (j : Nat) : (s.modUnit u f).stall j = s.stall j := rfl
@[simp] theorem Dev.modUnit_fn (s : Dev) (u : Nat) (f : UnitSt → UnitSt) (j : Nat) : (s.modUnit u f).fn j = s.fn j := rfl
@[simp] theorem Dev.modUnit_stallRec (s : Dev) (u : Nat) (f : UnitSt → UnitSt) (j : Nat) : (s.modUnit u f).stallRec j = s.stallRec j := rfl
@[simp] theorem Dev.modUnit_loomStall (s : Dev) (u : Nat) (f : UnitSt → UnitSt) (j : Nat) : (s.modUnit u f).loomStall j = s.loomStall j := rfl
@[simp] theorem Dev.modUnit_stallLooms (s : Dev) (u : Nat) (f : UnitSt → UnitSt) (j : Nat) : (s.modUnit u f).stallLooms j = s.stallLooms j := rfl
@[simp] theorem Dev.modUnit_hopper (s : Dev) (u : Nat) (f : UnitSt → UnitSt) (j : Nat) : (s.modUnit u f).hopper j = s.hopper j := rfl
@[simp] theorem Dev.modUnit_link (s : Dev) (u : Nat) (f : UnitSt → UnitSt) (j : Nat) : (s.modUnit u f).link j = s.link j := rfl
@[simp] theorem Dev.modUnit_coreUp (s : Dev) (u : Nat) (f : UnitSt → UnitSt) (p : Nat) : (s.modUnit u f).coreUp p = s.coreUp p := rfl
@[simp] theorem Dev.modUnit_reg (s : Dev) (u : Nat) (f : UnitSt → UnitSt) (j : Nat) : (s.modUnit u f).reg j = s.reg j := rfl

/-! ### count -/

@[simp] theorem Dev.count_out (s : Dev) (u n k : Nat) : (s.count u n k).out = s.out := rfl
@[simp] theorem Dev.count_freeCtr (s : Dev) (u n k : Nat) : (s.count u n k).freeCtr = s.freeCtr := rfl
@[simp] theorem Dev.count_tally (s : Dev) (u n k : Nat) : (s.count u n k).tally = s.tally := rfl
@[simp] theorem Dev.count_looms (s : Dev) (u n k : Nat) : (s.count u n k).looms = s.looms := rfl
@[simp] theorem Dev.count_stalls (s : Dev) (u n k : Nat) : (s.count u n k).stalls = s.stalls := rfl
@[simp] theorem Dev.count_net (s : Dev) (u n k : Nat) : (s.count u n k).net = s.net := rfl
@[simp] theorem Dev.count_waiters (s : Dev) (u n k : Nat) : (s.count u n k).waiters = s.waiters := rfl
@[simp] theorem Dev.count_acks (s : Dev) (u n k : Nat) : (s.count u n k).acks = s.acks := rfl
@[simp] theorem Dev.count_mem (s : Dev) (u n k : Nat) : (s.count u n k).mem = s.mem := rfl
@[simp] theorem Dev.count_hub (s : Dev) (u n k : Nat) : (s.count u n k).hub = s.hub := rfl
@[simp] theorem Dev.count_links (s : Dev) (u n k : Nat) : (s.count u n k).links = s.links := rfl
@[simp] theorem Dev.count_power (s : Dev) (u n k : Nat) : (s.count u n k).power = s.power := rfl
@[simp] theorem Dev.count_fw (s : Dev) (u n k : Nat) : (s.count u n k).fw = s.fw := rfl
@[simp] theorem Dev.count_sec (s : Dev) (u n k : Nat) : (s.count u n k).sec = s.sec := rfl
@[simp] theorem Dev.count_mgt (s : Dev) (u n k : Nat) : (s.count u n k).mgt = s.mgt := rfl
@[simp] theorem Dev.count_loom (s : Dev) (u n k : Nat) (j : Nat) : (s.count u n k).loom j = s.loom j := rfl
@[simp] theorem Dev.count_stall (s : Dev) (u n k : Nat) (j : Nat) : (s.count u n k).stall j = s.stall j := rfl
@[simp] theorem Dev.count_fn (s : Dev) (u n k : Nat) (j : Nat) : (s.count u n k).fn j = s.fn j := rfl
@[simp] theorem Dev.count_stallRec (s : Dev) (u n k : Nat) (j : Nat) : (s.count u n k).stallRec j = s.stallRec j := rfl
@[simp] theorem Dev.count_loomStall (s : Dev) (u n k : Nat) (j : Nat) : (s.count u n k).loomStall j = s.loomStall j := rfl
@[simp] theorem Dev.count_stallLooms (s : Dev) (u n k : Nat) (j : Nat) : (s.count u n k).stallLooms j = s.stallLooms j := rfl
@[simp] theorem Dev.count_hopper (s : Dev) (u n k : Nat) (j : Nat) : (s.count u n k).hopper j = s.hopper j := rfl
@[simp] theorem Dev.count_link (s : Dev) (u n k : Nat) (j : Nat) : (s.count u n k).link j = s.link j := rfl
@[simp] theorem Dev.count_coreUp (s : Dev) (u n k : Nat) (p : Nat) : (s.count u n k).coreUp p = s.coreUp p := rfl
@[simp] theorem Dev.count_reg (s : Dev) (u n k : Nat) (j : Nat) : (s.count u n k).reg j = s.reg j := rfl

/-! ### setFn -/

@[simp] theorem Dev.setFn_out (s : Dev) (i : Nat) (x : FnSt) : (s.setFn i x).out = s.out := rfl
@[simp] theorem Dev.setFn_freeCtr (s : Dev) (i : Nat) (x : FnSt) : (s.setFn i x).freeCtr = s.freeCtr := rfl
@[simp] theorem Dev.setFn_tally (s : Dev) (i : Nat) (x : FnSt) : (s.setFn i x).tally = s.tally := rfl
@[simp] theorem Dev.setFn_units (s : Dev) (i : Nat) (x : FnSt) : (s.setFn i x).units = s.units := rfl
@[simp] theorem Dev.setFn_looms (s : Dev) (i : Nat) (x : FnSt) : (s.setFn i x).looms = s.looms := rfl
@[simp] theorem Dev.setFn_stalls (s : Dev) (i : Nat) (x : FnSt) : (s.setFn i x).stalls = s.stalls := rfl
@[simp] theorem Dev.setFn_net (s : Dev) (i : Nat) (x : FnSt) : (s.setFn i x).net = s.net := rfl
@[simp] theorem Dev.setFn_waiters (s : Dev) (i : Nat) (x : FnSt) : (s.setFn i x).waiters = s.waiters := rfl
@[simp] theorem Dev.setFn_acks (s : Dev) (i : Nat) (x : FnSt) : (s.setFn i x).acks = s.acks := rfl
@[simp] theorem Dev.setFn_mem (s : Dev) (i : Nat) (x : FnSt) : (s.setFn i x).mem = s.mem := rfl
@[simp] theorem Dev.setFn_links (s : Dev) (i : Nat) (x : FnSt) : (s.setFn i x).links = s.links := rfl
@[simp] theorem Dev.setFn_power (s : Dev) (i : Nat) (x : FnSt) : (s.setFn i x).power = s.power := rfl
@[simp] theorem Dev.setFn_fw (s : Dev) (i : Nat) (x : FnSt) : (s.setFn i x).fw = s.fw := rfl
@[simp] theorem Dev.setFn_sec (s : Dev) (i : Nat) (x : FnSt) : (s.setFn i x).sec = s.sec := rfl
@[simp] theorem Dev.setFn_mgt (s : Dev) (i : Nat) (x : FnSt) : (s.setFn i x).mgt = s.mgt := rfl
@[simp] theorem Dev.setFn_loom (s : Dev) (i : Nat) (x : FnSt) (j : Nat) : (s.setFn i x).loom j = s.loom j := rfl
@[simp] theorem Dev.setFn_stall (s : Dev) (i : Nat) (x : FnSt) (j : Nat) : (s.setFn i x).stall j = s.stall j := rfl
@[simp] theorem Dev.setFn_unit (s : Dev) (i : Nat) (x : FnSt) (j : Nat) : (s.setFn i x).unit j = s.unit j := rfl
@[simp] theorem Dev.setFn_counter (s : Dev) (i : Nat) (x : FnSt) (j m : Nat) : (s.setFn i x).counter j m = s.counter j m := rfl
@[simp] theorem Dev.setFn_link (s : Dev) (i : Nat) (x : FnSt) (j : Nat) : (s.setFn i x).link j = s.link j := rfl
@[simp] theorem Dev.setFn_coreUp (s : Dev) (i : Nat) (x : FnSt) (p : Nat) : (s.setFn i x).coreUp p = s.coreUp p := rfl
@[simp] theorem Dev.setFn_reg (s : Dev) (i : Nat) (x : FnSt) (j : Nat) : (s.setFn i x).reg j = s.reg j := rfl

/-! ### modFn -/

@[simp] theorem Dev.modFn_out (s : Dev) (i : Nat) (f : FnSt → FnSt) : (s.modFn i f).out = s.out := rfl
@[simp] theorem Dev.modFn_freeCtr (s : Dev) (i : Nat) (f : FnSt → FnSt) : (s.modFn i f).freeCtr = s.freeCtr := rfl
@[simp] theorem Dev.modFn_tally (s : Dev) (i : Nat) (f : FnSt → FnSt) : (s.modFn i f).tally = s.tally := rfl
@[simp] theorem Dev.modFn_units (s : Dev) (i : Nat) (f : FnSt → FnSt) : (s.modFn i f).units = s.units := rfl
@[simp] theorem Dev.modFn_looms (s : Dev) (i : Nat) (f : FnSt → FnSt) : (s.modFn i f).looms = s.looms := rfl
@[simp] theorem Dev.modFn_stalls (s : Dev) (i : Nat) (f : FnSt → FnSt) : (s.modFn i f).stalls = s.stalls := rfl
@[simp] theorem Dev.modFn_net (s : Dev) (i : Nat) (f : FnSt → FnSt) : (s.modFn i f).net = s.net := rfl
@[simp] theorem Dev.modFn_waiters (s : Dev) (i : Nat) (f : FnSt → FnSt) : (s.modFn i f).waiters = s.waiters := rfl
@[simp] theorem Dev.modFn_acks (s : Dev) (i : Nat) (f : FnSt → FnSt) : (s.modFn i f).acks = s.acks := rfl
@[simp] theorem Dev.modFn_mem (s : Dev) (i : Nat) (f : FnSt → FnSt) : (s.modFn i f).mem = s.mem := rfl
@[simp] theorem Dev.modFn_links (s : Dev) (i : Nat) (f : FnSt → FnSt) : (s.modFn i f).links = s.links := rfl
@[simp] theorem Dev.modFn_power (s : Dev) (i : Nat) (f : FnSt → FnSt) : (s.modFn i f).power = s.power := rfl
@[simp] theorem Dev.modFn_fw (s : Dev) (i : Nat) (f : FnSt → FnSt) : (s.modFn i f).fw = s.fw := rfl
@[simp] theorem Dev.modFn_sec (s : Dev) (i : Nat) (f : FnSt → FnSt) : (s.modFn i f).sec = s.sec := rfl
@[simp] theorem Dev.modFn_mgt (s : Dev) (i : Nat) (f : FnSt → FnSt) : (s.modFn i f).mgt = s.mgt := rfl
@[simp] theorem Dev.modFn_loom (s : Dev) (i : Nat) (f : FnSt → FnSt) (j : Nat) : (s.modFn i f).loom j = s.loom j := rfl
@[simp] theorem Dev.modFn_stall (s : Dev) (i : Nat) (f : FnSt → FnSt) (j : Nat) : (s.modFn i f).stall j = s.stall j := rfl
@[simp] theorem Dev.modFn_unit (s : Dev) (i : Nat) (f : FnSt → FnSt) (j : Nat) : (s.modFn i f).unit j = s.unit j := rfl
@[simp] theorem Dev.modFn_counter (s : Dev) (i : Nat) (f : FnSt → FnSt) (j m : Nat) : (s.modFn i f).counter j m = s.counter j m := rfl
@[simp] theorem Dev.modFn_link (s : Dev) (i : Nat) (f : FnSt → FnSt) (j : Nat) : (s.modFn i f).link j = s.link j := rfl
@[simp] theorem Dev.modFn_coreUp (s : Dev) (i : Nat) (f : FnSt → FnSt) (p : Nat) : (s.modFn i f).coreUp p = s.coreUp p := rfl
@[simp] theorem Dev.modFn_reg (s : Dev) (i : Nat) (f : FnSt → FnSt) (j : Nat) : (s.modFn i f).reg j = s.reg j := rfl

/-! ### modHub -/

@[simp] theorem Dev.modHub_out (s : Dev) (f : HubSt → HubSt) : (s.modHub f).out = s.out := rfl
@[simp] theorem Dev.modHub_freeCtr (s : Dev) (f : HubSt → HubSt) : (s.modHub f).freeCtr = s.freeCtr := rfl
@[simp] theorem Dev.modHub_tally (s : Dev) (f : HubSt → HubSt) : (s.modHub f).tally = s.tally := rfl
@[simp] theorem Dev.modHub_units (s : Dev) (f : HubSt → HubSt) : (s.modHub f).units = s.units := rfl
@[simp] theorem Dev.modHub_looms (s : Dev) (f : HubSt → HubSt) : (s.modHub f).looms = s.looms := rfl
@[simp] theorem Dev.modHub_stalls (s : Dev) (f : HubSt → HubSt) : (s.modHub f).stalls = s.stalls := rfl
@[simp] theorem Dev.modHub_net (s : Dev) (f : HubSt → HubSt) : (s.modHub f).net = s.net := rfl
@[simp] theorem Dev.modHub_waiters (s : Dev) (f : HubSt → HubSt) : (s.modHub f).waiters = s.waiters := rfl
@[simp] theorem Dev.modHub_acks (s : Dev) (f : HubSt → HubSt) : (s.modHub f).acks = s.acks := rfl
@[simp] theorem Dev.modHub_mem (s : Dev) (f : HubSt → HubSt) : (s.modHub f).mem = s.mem := rfl
@[simp] theorem Dev.modHub_links (s : Dev) (f : HubSt → HubSt) : (s.modHub f).links = s.links := rfl
@[simp] theorem Dev.modHub_power (s : Dev) (f : HubSt → HubSt) : (s.modHub f).power = s.power := rfl
@[simp] theorem Dev.modHub_fw (s : Dev) (f : HubSt → HubSt) : (s.modHub f).fw = s.fw := rfl
@[simp] theorem Dev.modHub_sec (s : Dev) (f : HubSt → HubSt) : (s.modHub f).sec = s.sec := rfl
@[simp] theorem Dev.modHub_mgt (s : Dev) (f : HubSt → HubSt) : (s.modHub f).mgt = s.mgt := rfl
@[simp] theorem Dev.modHub_loom (s : Dev) (f : HubSt → HubSt) (j : Nat) : (s.modHub f).loom j = s.loom j := rfl
@[simp] theorem Dev.modHub_stall (s : Dev) (f : HubSt → HubSt) (j : Nat) : (s.modHub f).stall j = s.stall j := rfl
@[simp] theorem Dev.modHub_unit (s : Dev) (f : HubSt → HubSt) (j : Nat) : (s.modHub f).unit j = s.unit j := rfl
@[simp] theorem Dev.modHub_counter (s : Dev) (f : HubSt → HubSt) (j m : Nat) : (s.modHub f).counter j m = s.counter j m := rfl
@[simp] theorem Dev.modHub_link (s : Dev) (f : HubSt → HubSt) (j : Nat) : (s.modHub f).link j = s.link j := rfl
@[simp] theorem Dev.modHub_coreUp (s : Dev) (f : HubSt → HubSt) (p : Nat) : (s.modHub f).coreUp p = s.coreUp p := rfl
@[simp] theorem Dev.modHub_reg (s : Dev) (f : HubSt → HubSt) (j : Nat) : (s.modHub f).reg j = s.reg j := rfl

/-! ### setHopper -/

@[simp] theorem Dev.setHopper_out (s : Dev) (h : Nat) (q : List W64) : (s.setHopper h q).out = s.out := rfl
@[simp] theorem Dev.setHopper_freeCtr (s : Dev) (h : Nat) (q : List W64) : (s.setHopper h q).freeCtr = s.freeCtr := rfl
@[simp] theorem Dev.setHopper_tally (s : Dev) (h : Nat) (q : List W64) : (s.setHopper h q).tally = s.tally := rfl
@[simp] theorem Dev.setHopper_units (s : Dev) (h : Nat) (q : List W64) : (s.setHopper h q).units = s.units := rfl
@[simp] theorem Dev.setHopper_looms (s : Dev) (h : Nat) (q : List W64) : (s.setHopper h q).looms = s.looms := rfl
@[simp] theorem Dev.setHopper_stalls (s : Dev) (h : Nat) (q : List W64) : (s.setHopper h q).stalls = s.stalls := rfl
@[simp] theorem Dev.setHopper_net (s : Dev) (h : Nat) (q : List W64) : (s.setHopper h q).net = s.net := rfl
@[simp] theorem Dev.setHopper_waiters (s : Dev) (h : Nat) (q : List W64) : (s.setHopper h q).waiters = s.waiters := rfl
@[simp] theorem Dev.setHopper_acks (s : Dev) (h : Nat) (q : List W64) : (s.setHopper h q).acks = s.acks := rfl
@[simp] theorem Dev.setHopper_mem (s : Dev) (h : Nat) (q : List W64) : (s.setHopper h q).mem = s.mem := rfl
@[simp] theorem Dev.setHopper_links (s : Dev) (h : Nat) (q : List W64) : (s.setHopper h q).links = s.links := rfl
@[simp] theorem Dev.setHopper_power (s : Dev) (h : Nat) (q : List W64) : (s.setHopper h q).power = s.power := rfl
@[simp] theorem Dev.setHopper_fw (s : Dev) (h : Nat) (q : List W64) : (s.setHopper h q).fw = s.fw := rfl
@[simp] theorem Dev.setHopper_sec (s : Dev) (h : Nat) (q : List W64) : (s.setHopper h q).sec = s.sec := rfl
@[simp] theorem Dev.setHopper_mgt (s : Dev) (h : Nat) (q : List W64) : (s.setHopper h q).mgt = s.mgt := rfl
@[simp] theorem Dev.setHopper_loom (s : Dev) (h : Nat) (q : List W64) (j : Nat) : (s.setHopper h q).loom j = s.loom j := rfl
@[simp] theorem Dev.setHopper_stall (s : Dev) (h : Nat) (q : List W64) (j : Nat) : (s.setHopper h q).stall j = s.stall j := rfl
@[simp] theorem Dev.setHopper_unit (s : Dev) (h : Nat) (q : List W64) (j : Nat) : (s.setHopper h q).unit j = s.unit j := rfl
@[simp] theorem Dev.setHopper_counter (s : Dev) (h : Nat) (q : List W64) (j m : Nat) : (s.setHopper h q).counter j m = s.counter j m := rfl
@[simp] theorem Dev.setHopper_link (s : Dev) (h : Nat) (q : List W64) (j : Nat) : (s.setHopper h q).link j = s.link j := rfl
@[simp] theorem Dev.setHopper_coreUp (s : Dev) (h : Nat) (q : List W64) (p : Nat) : (s.setHopper h q).coreUp p = s.coreUp p := rfl
@[simp] theorem Dev.setHopper_reg (s : Dev) (h : Nat) (q : List W64) (j : Nat) : (s.setHopper h q).reg j = s.reg j := rfl

/-! ### emit -/

@[simp] theorem Dev.emit_freeCtr (s : Dev) (o : Out) : (s.emit o).freeCtr = s.freeCtr := rfl
@[simp] theorem Dev.emit_tally (s : Dev) (o : Out) : (s.emit o).tally = s.tally := rfl
@[simp] theorem Dev.emit_units (s : Dev) (o : Out) : (s.emit o).units = s.units := rfl
@[simp] theorem Dev.emit_looms (s : Dev) (o : Out) : (s.emit o).looms = s.looms := rfl
@[simp] theorem Dev.emit_stalls (s : Dev) (o : Out) : (s.emit o).stalls = s.stalls := rfl
@[simp] theorem Dev.emit_net (s : Dev) (o : Out) : (s.emit o).net = s.net := rfl
@[simp] theorem Dev.emit_waiters (s : Dev) (o : Out) : (s.emit o).waiters = s.waiters := rfl
@[simp] theorem Dev.emit_acks (s : Dev) (o : Out) : (s.emit o).acks = s.acks := rfl
@[simp] theorem Dev.emit_mem (s : Dev) (o : Out) : (s.emit o).mem = s.mem := rfl
@[simp] theorem Dev.emit_hub (s : Dev) (o : Out) : (s.emit o).hub = s.hub := rfl
@[simp] theorem Dev.emit_links (s : Dev) (o : Out) : (s.emit o).links = s.links := rfl
@[simp] theorem Dev.emit_power (s : Dev) (o : Out) : (s.emit o).power = s.power := rfl
@[simp] theorem Dev.emit_fw (s : Dev) (o : Out) : (s.emit o).fw = s.fw := rfl
@[simp] theorem Dev.emit_sec (s : Dev) (o : Out) : (s.emit o).sec = s.sec := rfl
@[simp] theorem Dev.emit_mgt (s : Dev) (o : Out) : (s.emit o).mgt = s.mgt := rfl
@[simp] theorem Dev.emit_loom (s : Dev) (o : Out) (j : Nat) : (s.emit o).loom j = s.loom j := rfl
@[simp] theorem Dev.emit_stall (s : Dev) (o : Out) (j : Nat) : (s.emit o).stall j = s.stall j := rfl
@[simp] theorem Dev.emit_unit (s : Dev) (o : Out) (j : Nat) : (s.emit o).unit j = s.unit j := rfl
@[simp] theorem Dev.emit_counter (s : Dev) (o : Out) (j m : Nat) : (s.emit o).counter j m = s.counter j m := rfl
@[simp] theorem Dev.emit_fn (s : Dev) (o : Out) (j : Nat) : (s.emit o).fn j = s.fn j := rfl
@[simp] theorem Dev.emit_stallRec (s : Dev) (o : Out) (j : Nat) : (s.emit o).stallRec j = s.stallRec j := rfl
@[simp] theorem Dev.emit_loomStall (s : Dev) (o : Out) (j : Nat) : (s.emit o).loomStall j = s.loomStall j := rfl
@[simp] theorem Dev.emit_stallLooms (s : Dev) (o : Out) (j : Nat) : (s.emit o).stallLooms j = s.stallLooms j := rfl
@[simp] theorem Dev.emit_hopper (s : Dev) (o : Out) (j : Nat) : (s.emit o).hopper j = s.hopper j := rfl
@[simp] theorem Dev.emit_link (s : Dev) (o : Out) (j : Nat) : (s.emit o).link j = s.link j := rfl
@[simp] theorem Dev.emit_coreUp (s : Dev) (o : Out) (p : Nat) : (s.emit o).coreUp p = s.coreUp p := rfl
@[simp] theorem Dev.emit_reg (s : Dev) (o : Out) (j : Nat) : (s.emit o).reg j = s.reg j := rfl

/-! ### modTally -/

@[simp] theorem Dev.modTally_out (s : Dev) (f : TallySt → TallySt) : (s.modTally f).out = s.out := rfl
@[simp] theorem Dev.modTally_freeCtr (s : Dev) (f : TallySt → TallySt) : (s.modTally f).freeCtr = s.freeCtr := rfl
@[simp] theorem Dev.modTally_units (s : Dev) (f : TallySt → TallySt) : (s.modTally f).units = s.units := rfl
@[simp] theorem Dev.modTally_looms (s : Dev) (f : TallySt → TallySt) : (s.modTally f).looms = s.looms := rfl
@[simp] theorem Dev.modTally_stalls (s : Dev) (f : TallySt → TallySt) : (s.modTally f).stalls = s.stalls := rfl
@[simp] theorem Dev.modTally_net (s : Dev) (f : TallySt → TallySt) : (s.modTally f).net = s.net := rfl
@[simp] theorem Dev.modTally_waiters (s : Dev) (f : TallySt → TallySt) : (s.modTally f).waiters = s.waiters := rfl
@[simp] theorem Dev.modTally_acks (s : Dev) (f : TallySt → TallySt) : (s.modTally f).acks = s.acks := rfl
@[simp] theorem Dev.modTally_mem (s : Dev) (f : TallySt → TallySt) : (s.modTally f).mem = s.mem := rfl
@[simp] theorem Dev.modTally_hub (s : Dev) (f : TallySt → TallySt) : (s.modTally f).hub = s.hub := rfl
@[simp] theorem Dev.modTally_links (s : Dev) (f : TallySt → TallySt) : (s.modTally f).links = s.links := rfl
@[simp] theorem Dev.modTally_power (s : Dev) (f : TallySt → TallySt) : (s.modTally f).power = s.power := rfl
@[simp] theorem Dev.modTally_fw (s : Dev) (f : TallySt → TallySt) : (s.modTally f).fw = s.fw := rfl
@[simp] theorem Dev.modTally_sec (s : Dev) (f : TallySt → TallySt) : (s.modTally f).sec = s.sec := rfl
@[simp] theorem Dev.modTally_mgt (s : Dev) (f : TallySt → TallySt) : (s.modTally f).mgt = s.mgt := rfl
@[simp] theorem Dev.modTally_loom (s : Dev) (f : TallySt → TallySt) (j : Nat) : (s.modTally f).loom j = s.loom j := rfl
@[simp] theorem Dev.modTally_stall (s : Dev) (f : TallySt → TallySt) (j : Nat) : (s.modTally f).stall j = s.stall j := rfl
@[simp] theorem Dev.modTally_unit (s : Dev) (f : TallySt → TallySt) (j : Nat) : (s.modTally f).unit j = s.unit j := rfl
@[simp] theorem Dev.modTally_counter (s : Dev) (f : TallySt → TallySt) (j m : Nat) : (s.modTally f).counter j m = s.counter j m := rfl
@[simp] theorem Dev.modTally_fn (s : Dev) (f : TallySt → TallySt) (j : Nat) : (s.modTally f).fn j = s.fn j := rfl
@[simp] theorem Dev.modTally_stallRec (s : Dev) (f : TallySt → TallySt) (j : Nat) : (s.modTally f).stallRec j = s.stallRec j := rfl
@[simp] theorem Dev.modTally_loomStall (s : Dev) (f : TallySt → TallySt) (j : Nat) : (s.modTally f).loomStall j = s.loomStall j := rfl
@[simp] theorem Dev.modTally_stallLooms (s : Dev) (f : TallySt → TallySt) (j : Nat) : (s.modTally f).stallLooms j = s.stallLooms j := rfl
@[simp] theorem Dev.modTally_hopper (s : Dev) (f : TallySt → TallySt) (j : Nat) : (s.modTally f).hopper j = s.hopper j := rfl
@[simp] theorem Dev.modTally_link (s : Dev) (f : TallySt → TallySt) (j : Nat) : (s.modTally f).link j = s.link j := rfl
@[simp] theorem Dev.modTally_coreUp (s : Dev) (f : TallySt → TallySt) (p : Nat) : (s.modTally f).coreUp p = s.coreUp p := rfl
@[simp] theorem Dev.modTally_reg (s : Dev) (f : TallySt → TallySt) (j : Nat) : (s.modTally f).reg j = s.reg j := rfl

/-! ### modMem -/

@[simp] theorem Dev.modMem_out (s : Dev) (f : MemSt → MemSt) : (s.modMem f).out = s.out := rfl
@[simp] theorem Dev.modMem_freeCtr (s : Dev) (f : MemSt → MemSt) : (s.modMem f).freeCtr = s.freeCtr := rfl
@[simp] theorem Dev.modMem_tally (s : Dev) (f : MemSt → MemSt) : (s.modMem f).tally = s.tally := rfl
@[simp] theorem Dev.modMem_units (s : Dev) (f : MemSt → MemSt) : (s.modMem f).units = s.units := rfl
@[simp] theorem Dev.modMem_looms (s : Dev) (f : MemSt → MemSt) : (s.modMem f).looms = s.looms := rfl
@[simp] theorem Dev.modMem_stalls (s : Dev) (f : MemSt → MemSt) : (s.modMem f).stalls = s.stalls := rfl
@[simp] theorem Dev.modMem_net (s : Dev) (f : MemSt → MemSt) : (s.modMem f).net = s.net := rfl
@[simp] theorem Dev.modMem_waiters (s : Dev) (f : MemSt → MemSt) : (s.modMem f).waiters = s.waiters := rfl
@[simp] theorem Dev.modMem_acks (s : Dev) (f : MemSt → MemSt) : (s.modMem f).acks = s.acks := rfl
@[simp] theorem Dev.modMem_hub (s : Dev) (f : MemSt → MemSt) : (s.modMem f).hub = s.hub := rfl
@[simp] theorem Dev.modMem_links (s : Dev) (f : MemSt → MemSt) : (s.modMem f).links = s.links := rfl
@[simp] theorem Dev.modMem_power (s : Dev) (f : MemSt → MemSt) : (s.modMem f).power = s.power := rfl
@[simp] theorem Dev.modMem_fw (s : Dev) (f : MemSt → MemSt) : (s.modMem f).fw = s.fw := rfl
@[simp] theorem Dev.modMem_sec (s : Dev) (f : MemSt → MemSt) : (s.modMem f).sec = s.sec := rfl
@[simp] theorem Dev.modMem_mgt (s : Dev) (f : MemSt → MemSt) : (s.modMem f).mgt = s.mgt := rfl
@[simp] theorem Dev.modMem_loom (s : Dev) (f : MemSt → MemSt) (j : Nat) : (s.modMem f).loom j = s.loom j := rfl
@[simp] theorem Dev.modMem_stall (s : Dev) (f : MemSt → MemSt) (j : Nat) : (s.modMem f).stall j = s.stall j := rfl
@[simp] theorem Dev.modMem_unit (s : Dev) (f : MemSt → MemSt) (j : Nat) : (s.modMem f).unit j = s.unit j := rfl
@[simp] theorem Dev.modMem_counter (s : Dev) (f : MemSt → MemSt) (j m : Nat) : (s.modMem f).counter j m = s.counter j m := rfl
@[simp] theorem Dev.modMem_fn (s : Dev) (f : MemSt → MemSt) (j : Nat) : (s.modMem f).fn j = s.fn j := rfl
@[simp] theorem Dev.modMem_stallRec (s : Dev) (f : MemSt → MemSt) (j : Nat) : (s.modMem f).stallRec j = s.stallRec j := rfl
@[simp] theorem Dev.modMem_loomStall (s : Dev) (f : MemSt → MemSt) (j : Nat) : (s.modMem f).loomStall j = s.loomStall j := rfl
@[simp] theorem Dev.modMem_stallLooms (s : Dev) (f : MemSt → MemSt) (j : Nat) : (s.modMem f).stallLooms j = s.stallLooms j := rfl
@[simp] theorem Dev.modMem_hopper (s : Dev) (f : MemSt → MemSt) (j : Nat) : (s.modMem f).hopper j = s.hopper j := rfl
@[simp] theorem Dev.modMem_link (s : Dev) (f : MemSt → MemSt) (j : Nat) : (s.modMem f).link j = s.link j := rfl
@[simp] theorem Dev.modMem_coreUp (s : Dev) (f : MemSt → MemSt) (p : Nat) : (s.modMem f).coreUp p = s.coreUp p := rfl

/-! ### modReg -/

@[simp] theorem Dev.modReg_out (s : Dev) (i : Nat) (f : RegSt → RegSt) : (s.modReg i f).out = s.out := rfl
@[simp] theorem Dev.modReg_freeCtr (s : Dev) (i : Nat) (f : RegSt → RegSt) : (s.modReg i f).freeCtr = s.freeCtr := rfl
@[simp] theorem Dev.modReg_tally (s : Dev) (i : Nat) (f : RegSt → RegSt) : (s.modReg i f).tally = s.tally := rfl
@[simp] theorem Dev.modReg_units (s : Dev) (i : Nat) (f : RegSt → RegSt) : (s.modReg i f).units = s.units := rfl
@[simp] theorem Dev.modReg_looms (s : Dev) (i : Nat) (f : RegSt → RegSt) : (s.modReg i f).looms = s.looms := rfl
@[simp] theorem Dev.modReg_stalls (s : Dev) (i : Nat) (f : RegSt → RegSt) : (s.modReg i f).stalls = s.stalls := rfl
@[simp] theorem Dev.modReg_net (s : Dev) (i : Nat) (f : RegSt → RegSt) : (s.modReg i f).net = s.net := rfl
@[simp] theorem Dev.modReg_waiters (s : Dev) (i : Nat) (f : RegSt → RegSt) : (s.modReg i f).waiters = s.waiters := rfl
@[simp] theorem Dev.modReg_acks (s : Dev) (i : Nat) (f : RegSt → RegSt) : (s.modReg i f).acks = s.acks := rfl
@[simp] theorem Dev.modReg_hub (s : Dev) (i : Nat) (f : RegSt → RegSt) : (s.modReg i f).hub = s.hub := rfl
@[simp] theorem Dev.modReg_links (s : Dev) (i : Nat) (f : RegSt → RegSt) : (s.modReg i f).links = s.links := rfl
@[simp] theorem Dev.modReg_power (s : Dev) (i : Nat) (f : RegSt → RegSt) : (s.modReg i f).power = s.power := rfl
@[simp] theorem Dev.modReg_fw (s : Dev) (i : Nat) (f : RegSt → RegSt) : (s.modReg i f).fw = s.fw := rfl
@[simp] theorem Dev.modReg_sec (s : Dev) (i : Nat) (f : RegSt → RegSt) : (s.modReg i f).sec = s.sec := rfl
@[simp] theorem Dev.modReg_mgt (s : Dev) (i : Nat) (f : RegSt → RegSt) : (s.modReg i f).mgt = s.mgt := rfl
@[simp] theorem Dev.modReg_loom (s : Dev) (i : Nat) (f : RegSt → RegSt) (j : Nat) : (s.modReg i f).loom j = s.loom j := rfl
@[simp] theorem Dev.modReg_stall (s : Dev) (i : Nat) (f : RegSt → RegSt) (j : Nat) : (s.modReg i f).stall j = s.stall j := rfl
@[simp] theorem Dev.modReg_unit (s : Dev) (i : Nat) (f : RegSt → RegSt) (j : Nat) : (s.modReg i f).unit j = s.unit j := rfl
@[simp] theorem Dev.modReg_counter (s : Dev) (i : Nat) (f : RegSt → RegSt) (j m : Nat) : (s.modReg i f).counter j m = s.counter j m := rfl
@[simp] theorem Dev.modReg_fn (s : Dev) (i : Nat) (f : RegSt → RegSt) (j : Nat) : (s.modReg i f).fn j = s.fn j := rfl
@[simp] theorem Dev.modReg_stallRec (s : Dev) (i : Nat) (f : RegSt → RegSt) (j : Nat) : (s.modReg i f).stallRec j = s.stallRec j := rfl
@[simp] theorem Dev.modReg_loomStall (s : Dev) (i : Nat) (f : RegSt → RegSt) (j : Nat) : (s.modReg i f).loomStall j = s.loomStall j := rfl
@[simp] theorem Dev.modReg_stallLooms (s : Dev) (i : Nat) (f : RegSt → RegSt) (j : Nat) : (s.modReg i f).stallLooms j = s.stallLooms j := rfl
@[simp] theorem Dev.modReg_hopper (s : Dev) (i : Nat) (f : RegSt → RegSt) (j : Nat) : (s.modReg i f).hopper j = s.hopper j := rfl
@[simp] theorem Dev.modReg_link (s : Dev) (i : Nat) (f : RegSt → RegSt) (j : Nat) : (s.modReg i f).link j = s.link j := rfl
@[simp] theorem Dev.modReg_coreUp (s : Dev) (i : Nat) (f : RegSt → RegSt) (p : Nat) : (s.modReg i f).coreUp p = s.coreUp p := rfl

/-! ### setShelf -/

@[simp] theorem Dev.setShelf_out (s : Dev) (k : Nat) (q : List ShelfLine) : (s.setShelf k q).out = s.out := rfl
@[simp] theorem Dev.setShelf_freeCtr (s : Dev) (k : Nat) (q : List ShelfLine) : (s.setShelf k q).freeCtr = s.freeCtr := rfl
@[simp] theorem Dev.setShelf_tally (s : Dev) (k : Nat) (q : List ShelfLine) : (s.setShelf k q).tally = s.tally := rfl
@[simp] theorem Dev.setShelf_units (s : Dev) (k : Nat) (q : List ShelfLine) : (s.setShelf k q).units = s.units := rfl
@[simp] theorem Dev.setShelf_looms (s : Dev) (k : Nat) (q : List ShelfLine) : (s.setShelf k q).looms = s.looms := rfl
@[simp] theorem Dev.setShelf_stalls (s : Dev) (k : Nat) (q : List ShelfLine) : (s.setShelf k q).stalls = s.stalls := rfl
@[simp] theorem Dev.setShelf_net (s : Dev) (k : Nat) (q : List ShelfLine) : (s.setShelf k q).net = s.net := rfl
@[simp] theorem Dev.setShelf_waiters (s : Dev) (k : Nat) (q : List ShelfLine) : (s.setShelf k q).waiters = s.waiters := rfl
@[simp] theorem Dev.setShelf_acks (s : Dev) (k : Nat) (q : List ShelfLine) : (s.setShelf k q).acks = s.acks := rfl
@[simp] theorem Dev.setShelf_hub (s : Dev) (k : Nat) (q : List ShelfLine) : (s.setShelf k q).hub = s.hub := rfl
@[simp] theorem Dev.setShelf_links (s : Dev) (k : Nat) (q : List ShelfLine) : (s.setShelf k q).links = s.links := rfl
@[simp] theorem Dev.setShelf_power (s : Dev) (k : Nat) (q : List ShelfLine) : (s.setShelf k q).power = s.power := rfl
@[simp] theorem Dev.setShelf_fw (s : Dev) (k : Nat) (q : List ShelfLine) : (s.setShelf k q).fw = s.fw := rfl
@[simp] theorem Dev.setShelf_sec (s : Dev) (k : Nat) (q : List ShelfLine) : (s.setShelf k q).sec = s.sec := rfl
@[simp] theorem Dev.setShelf_mgt (s : Dev) (k : Nat) (q : List ShelfLine) : (s.setShelf k q).mgt = s.mgt := rfl
@[simp] theorem Dev.setShelf_loom (s : Dev) (k : Nat) (q : List ShelfLine) (j : Nat) : (s.setShelf k q).loom j = s.loom j := rfl
@[simp] theorem Dev.setShelf_stall (s : Dev) (k : Nat) (q : List ShelfLine) (j : Nat) : (s.setShelf k q).stall j = s.stall j := rfl
@[simp] theorem Dev.setShelf_unit (s : Dev) (k : Nat) (q : List ShelfLine) (j : Nat) : (s.setShelf k q).unit j = s.unit j := rfl
@[simp] theorem Dev.setShelf_counter (s : Dev) (k : Nat) (q : List ShelfLine) (j m : Nat) : (s.setShelf k q).counter j m = s.counter j m := rfl
@[simp] theorem Dev.setShelf_fn (s : Dev) (k : Nat) (q : List ShelfLine) (j : Nat) : (s.setShelf k q).fn j = s.fn j := rfl
@[simp] theorem Dev.setShelf_stallRec (s : Dev) (k : Nat) (q : List ShelfLine) (j : Nat) : (s.setShelf k q).stallRec j = s.stallRec j := rfl
@[simp] theorem Dev.setShelf_loomStall (s : Dev) (k : Nat) (q : List ShelfLine) (j : Nat) : (s.setShelf k q).loomStall j = s.loomStall j := rfl
@[simp] theorem Dev.setShelf_stallLooms (s : Dev) (k : Nat) (q : List ShelfLine) (j : Nat) : (s.setShelf k q).stallLooms j = s.stallLooms j := rfl
@[simp] theorem Dev.setShelf_hopper (s : Dev) (k : Nat) (q : List ShelfLine) (j : Nat) : (s.setShelf k q).hopper j = s.hopper j := rfl
@[simp] theorem Dev.setShelf_link (s : Dev) (k : Nat) (q : List ShelfLine) (j : Nat) : (s.setShelf k q).link j = s.link j := rfl
@[simp] theorem Dev.setShelf_coreUp (s : Dev) (k : Nat) (q : List ShelfLine) (p : Nat) : (s.setShelf k q).coreUp p = s.coreUp p := rfl

/-! ### setStream -/

@[simp] theorem Dev.setStream_out (s : Dev) (k : Nat) (q : List Token) : (s.setStream k q).out = s.out := rfl
@[simp] theorem Dev.setStream_freeCtr (s : Dev) (k : Nat) (q : List Token) : (s.setStream k q).freeCtr = s.freeCtr := rfl
@[simp] theorem Dev.setStream_tally (s : Dev) (k : Nat) (q : List Token) : (s.setStream k q).tally = s.tally := rfl
@[simp] theorem Dev.setStream_units (s : Dev) (k : Nat) (q : List Token) : (s.setStream k q).units = s.units := rfl
@[simp] theorem Dev.setStream_looms (s : Dev) (k : Nat) (q : List Token) : (s.setStream k q).looms = s.looms := rfl
@[simp] theorem Dev.setStream_stalls (s : Dev) (k : Nat) (q : List Token) : (s.setStream k q).stalls = s.stalls := rfl
@[simp] theorem Dev.setStream_waiters (s : Dev) (k : Nat) (q : List Token) : (s.setStream k q).waiters = s.waiters := rfl
@[simp] theorem Dev.setStream_acks (s : Dev) (k : Nat) (q : List Token) : (s.setStream k q).acks = s.acks := rfl
@[simp] theorem Dev.setStream_mem (s : Dev) (k : Nat) (q : List Token) : (s.setStream k q).mem = s.mem := rfl
@[simp] theorem Dev.setStream_hub (s : Dev) (k : Nat) (q : List Token) : (s.setStream k q).hub = s.hub := rfl
@[simp] theorem Dev.setStream_links (s : Dev) (k : Nat) (q : List Token) : (s.setStream k q).links = s.links := rfl
@[simp] theorem Dev.setStream_power (s : Dev) (k : Nat) (q : List Token) : (s.setStream k q).power = s.power := rfl
@[simp] theorem Dev.setStream_fw (s : Dev) (k : Nat) (q : List Token) : (s.setStream k q).fw = s.fw := rfl
@[simp] theorem Dev.setStream_sec (s : Dev) (k : Nat) (q : List Token) : (s.setStream k q).sec = s.sec := rfl
@[simp] theorem Dev.setStream_mgt (s : Dev) (k : Nat) (q : List Token) : (s.setStream k q).mgt = s.mgt := rfl
@[simp] theorem Dev.setStream_loom (s : Dev) (k : Nat) (q : List Token) (j : Nat) : (s.setStream k q).loom j = s.loom j := rfl
@[simp] theorem Dev.setStream_stall (s : Dev) (k : Nat) (q : List Token) (j : Nat) : (s.setStream k q).stall j = s.stall j := rfl
@[simp] theorem Dev.setStream_unit (s : Dev) (k : Nat) (q : List Token) (j : Nat) : (s.setStream k q).unit j = s.unit j := rfl
@[simp] theorem Dev.setStream_counter (s : Dev) (k : Nat) (q : List Token) (j m : Nat) : (s.setStream k q).counter j m = s.counter j m := rfl
@[simp] theorem Dev.setStream_fn (s : Dev) (k : Nat) (q : List Token) (j : Nat) : (s.setStream k q).fn j = s.fn j := rfl
@[simp] theorem Dev.setStream_stallRec (s : Dev) (k : Nat) (q : List Token) (j : Nat) : (s.setStream k q).stallRec j = s.stallRec j := rfl
@[simp] theorem Dev.setStream_loomStall (s : Dev) (k : Nat) (q : List Token) (j : Nat) : (s.setStream k q).loomStall j = s.loomStall j := rfl
@[simp] theorem Dev.setStream_stallLooms (s : Dev) (k : Nat) (q : List Token) (j : Nat) : (s.setStream k q).stallLooms j = s.stallLooms j := rfl
@[simp] theorem Dev.setStream_hopper (s : Dev) (k : Nat) (q : List Token) (j : Nat) : (s.setStream k q).hopper j = s.hopper j := rfl
@[simp] theorem Dev.setStream_link (s : Dev) (k : Nat) (q : List Token) (j : Nat) : (s.setStream k q).link j = s.link j := rfl
@[simp] theorem Dev.setStream_coreUp (s : Dev) (k : Nat) (q : List Token) (p : Nat) : (s.setStream k q).coreUp p = s.coreUp p := rfl
@[simp] theorem Dev.setStream_reg (s : Dev) (k : Nat) (q : List Token) (j : Nat) : (s.setStream k q).reg j = s.reg j := rfl

/-! ### modLinks -/

@[simp] theorem Dev.modLinks_out (s : Dev) (f : LinkSt → LinkSt) : (s.modLinks f).out = s.out := rfl
@[simp] theorem Dev.modLinks_freeCtr (s : Dev) (f : LinkSt → LinkSt) : (s.modLinks f).freeCtr = s.freeCtr := rfl
@[simp] theorem Dev.modLinks_tally (s : Dev) (f : LinkSt → LinkSt) : (s.modLinks f).tally = s.tally := rfl
@[simp] theorem Dev.modLinks_units (s : Dev) (f : LinkSt → LinkSt) : (s.modLinks f).units = s.units := rfl
@[simp] theorem Dev.modLinks_looms (s : Dev) (f : LinkSt → LinkSt) : (s.modLinks f).looms = s.looms := rfl
@[simp] theorem Dev.modLinks_stalls (s : Dev) (f : LinkSt → LinkSt) : (s.modLinks f).stalls = s.stalls := rfl
@[simp] theorem Dev.modLinks_net (s : Dev) (f : LinkSt → LinkSt) : (s.modLinks f).net = s.net := rfl
@[simp] theorem Dev.modLinks_waiters (s : Dev) (f : LinkSt → LinkSt) : (s.modLinks f).waiters = s.waiters := rfl
@[simp] theorem Dev.modLinks_acks (s : Dev) (f : LinkSt → LinkSt) : (s.modLinks f).acks = s.acks := rfl
@[simp] theorem Dev.modLinks_mem (s : Dev) (f : LinkSt → LinkSt) : (s.modLinks f).mem = s.mem := rfl
@[simp] theorem Dev.modLinks_hub (s : Dev) (f : LinkSt → LinkSt) : (s.modLinks f).hub = s.hub := rfl
@[simp] theorem Dev.modLinks_power (s : Dev) (f : LinkSt → LinkSt) : (s.modLinks f).power = s.power := rfl
@[simp] theorem Dev.modLinks_fw (s : Dev) (f : LinkSt → LinkSt) : (s.modLinks f).fw = s.fw := rfl
@[simp] theorem Dev.modLinks_sec (s : Dev) (f : LinkSt → LinkSt) : (s.modLinks f).sec = s.sec := rfl
@[simp] theorem Dev.modLinks_mgt (s : Dev) (f : LinkSt → LinkSt) : (s.modLinks f).mgt = s.mgt := rfl
@[simp] theorem Dev.modLinks_loom (s : Dev) (f : LinkSt → LinkSt) (j : Nat) : (s.modLinks f).loom j = s.loom j := rfl
@[simp] theorem Dev.modLinks_stall (s : Dev) (f : LinkSt → LinkSt) (j : Nat) : (s.modLinks f).stall j = s.stall j := rfl
@[simp] theorem Dev.modLinks_unit (s : Dev) (f : LinkSt → LinkSt) (j : Nat) : (s.modLinks f).unit j = s.unit j := rfl
@[simp] theorem Dev.modLinks_counter (s : Dev) (f : LinkSt → LinkSt) (j m : Nat) : (s.modLinks f).counter j m = s.counter j m := rfl
@[simp] theorem Dev.modLinks_fn (s : Dev) (f : LinkSt → LinkSt) (j : Nat) : (s.modLinks f).fn j = s.fn j := rfl
@[simp] theorem Dev.modLinks_stallRec (s : Dev) (f : LinkSt → LinkSt) (j : Nat) : (s.modLinks f).stallRec j = s.stallRec j := rfl
@[simp] theorem Dev.modLinks_loomStall (s : Dev) (f : LinkSt → LinkSt) (j : Nat) : (s.modLinks f).loomStall j = s.loomStall j := rfl
@[simp] theorem Dev.modLinks_stallLooms (s : Dev) (f : LinkSt → LinkSt) (j : Nat) : (s.modLinks f).stallLooms j = s.stallLooms j := rfl
@[simp] theorem Dev.modLinks_hopper (s : Dev) (f : LinkSt → LinkSt) (j : Nat) : (s.modLinks f).hopper j = s.hopper j := rfl
@[simp] theorem Dev.modLinks_coreUp (s : Dev) (f : LinkSt → LinkSt) (p : Nat) : (s.modLinks f).coreUp p = s.coreUp p := rfl
@[simp] theorem Dev.modLinks_reg (s : Dev) (f : LinkSt → LinkSt) (j : Nat) : (s.modLinks f).reg j = s.reg j := rfl

/-! ### setLink -/

@[simp] theorem Dev.setLink_out (s : Dev) (i : Nat) (x : LinkOne) : (s.setLink i x).out = s.out := rfl
@[simp] theorem Dev.setLink_freeCtr (s : Dev) (i : Nat) (x : LinkOne) : (s.setLink i x).freeCtr = s.freeCtr := rfl
@[simp] theorem Dev.setLink_tally (s : Dev) (i : Nat) (x : LinkOne) : (s.setLink i x).tally = s.tally := rfl
@[simp] theorem Dev.setLink_units (s : Dev) (i : Nat) (x : LinkOne) : (s.setLink i x).units = s.units := rfl
@[simp] theorem Dev.setLink_looms (s : Dev) (i : Nat) (x : LinkOne) : (s.setLink i x).looms = s.looms := rfl
@[simp] theorem Dev.setLink_stalls (s : Dev) (i : Nat) (x : LinkOne) : (s.setLink i x).stalls = s.stalls := rfl
@[simp] theorem Dev.setLink_net (s : Dev) (i : Nat) (x : LinkOne) : (s.setLink i x).net = s.net := rfl
@[simp] theorem Dev.setLink_waiters (s : Dev) (i : Nat) (x : LinkOne) : (s.setLink i x).waiters = s.waiters := rfl
@[simp] theorem Dev.setLink_acks (s : Dev) (i : Nat) (x : LinkOne) : (s.setLink i x).acks = s.acks := rfl
@[simp] theorem Dev.setLink_hub (s : Dev) (i : Nat) (x : LinkOne) : (s.setLink i x).hub = s.hub := rfl
@[simp] theorem Dev.setLink_power (s : Dev) (i : Nat) (x : LinkOne) : (s.setLink i x).power = s.power := rfl
@[simp] theorem Dev.setLink_fw (s : Dev) (i : Nat) (x : LinkOne) : (s.setLink i x).fw = s.fw := rfl
@[simp] theorem Dev.setLink_sec (s : Dev) (i : Nat) (x : LinkOne) : (s.setLink i x).sec = s.sec := rfl
@[simp] theorem Dev.setLink_mgt (s : Dev) (i : Nat) (x : LinkOne) : (s.setLink i x).mgt = s.mgt := rfl
@[simp] theorem Dev.setLink_loom (s : Dev) (i : Nat) (x : LinkOne) (j : Nat) : (s.setLink i x).loom j = s.loom j := rfl
@[simp] theorem Dev.setLink_stall (s : Dev) (i : Nat) (x : LinkOne) (j : Nat) : (s.setLink i x).stall j = s.stall j := rfl
@[simp] theorem Dev.setLink_unit (s : Dev) (i : Nat) (x : LinkOne) (j : Nat) : (s.setLink i x).unit j = s.unit j := rfl
@[simp] theorem Dev.setLink_counter (s : Dev) (i : Nat) (x : LinkOne) (j m : Nat) : (s.setLink i x).counter j m = s.counter j m := rfl
@[simp] theorem Dev.setLink_fn (s : Dev) (i : Nat) (x : LinkOne) (j : Nat) : (s.setLink i x).fn j = s.fn j := rfl
@[simp] theorem Dev.setLink_stallRec (s : Dev) (i : Nat) (x : LinkOne) (j : Nat) : (s.setLink i x).stallRec j = s.stallRec j := rfl
@[simp] theorem Dev.setLink_loomStall (s : Dev) (i : Nat) (x : LinkOne) (j : Nat) : (s.setLink i x).loomStall j = s.loomStall j := rfl
@[simp] theorem Dev.setLink_stallLooms (s : Dev) (i : Nat) (x : LinkOne) (j : Nat) : (s.setLink i x).stallLooms j = s.stallLooms j := rfl
@[simp] theorem Dev.setLink_hopper (s : Dev) (i : Nat) (x : LinkOne) (j : Nat) : (s.setLink i x).hopper j = s.hopper j := rfl
@[simp] theorem Dev.setLink_coreUp (s : Dev) (i : Nat) (x : LinkOne) (p : Nat) : (s.setLink i x).coreUp p = s.coreUp p := rfl

/-! ### modLink -/

@[simp] theorem Dev.modLink_out (s : Dev) (i : Nat) (f : LinkOne → LinkOne) : (s.modLink i f).out = s.out := rfl
@[simp] theorem Dev.modLink_freeCtr (s : Dev) (i : Nat) (f : LinkOne → LinkOne) : (s.modLink i f).freeCtr = s.freeCtr := rfl
@[simp] theorem Dev.modLink_tally (s : Dev) (i : Nat) (f : LinkOne → LinkOne) : (s.modLink i f).tally = s.tally := rfl
@[simp] theorem Dev.modLink_units (s : Dev) (i : Nat) (f : LinkOne → LinkOne) : (s.modLink i f).units = s.units := rfl
@[simp] theorem Dev.modLink_looms (s : Dev) (i : Nat) (f : LinkOne → LinkOne) : (s.modLink i f).looms = s.looms := rfl
@[simp] theorem Dev.modLink_stalls (s : Dev) (i : Nat) (f : LinkOne → LinkOne) : (s.modLink i f).stalls = s.stalls := rfl
@[simp] theorem Dev.modLink_net (s : Dev) (i : Nat) (f : LinkOne → LinkOne) : (s.modLink i f).net = s.net := rfl
@[simp] theorem Dev.modLink_waiters (s : Dev) (i : Nat) (f : LinkOne → LinkOne) : (s.modLink i f).waiters = s.waiters := rfl
@[simp] theorem Dev.modLink_acks (s : Dev) (i : Nat) (f : LinkOne → LinkOne) : (s.modLink i f).acks = s.acks := rfl
@[simp] theorem Dev.modLink_hub (s : Dev) (i : Nat) (f : LinkOne → LinkOne) : (s.modLink i f).hub = s.hub := rfl
@[simp] theorem Dev.modLink_power (s : Dev) (i : Nat) (f : LinkOne → LinkOne) : (s.modLink i f).power = s.power := rfl
@[simp] theorem Dev.modLink_fw (s : Dev) (i : Nat) (f : LinkOne → LinkOne) : (s.modLink i f).fw = s.fw := rfl
@[simp] theorem Dev.modLink_sec (s : Dev) (i : Nat) (f : LinkOne → LinkOne) : (s.modLink i f).sec = s.sec := rfl
@[simp] theorem Dev.modLink_mgt (s : Dev) (i : Nat) (f : LinkOne → LinkOne) : (s.modLink i f).mgt = s.mgt := rfl
@[simp] theorem Dev.modLink_loom (s : Dev) (i : Nat) (f : LinkOne → LinkOne) (j : Nat) : (s.modLink i f).loom j = s.loom j := rfl
@[simp] theorem Dev.modLink_stall (s : Dev) (i : Nat) (f : LinkOne → LinkOne) (j : Nat) : (s.modLink i f).stall j = s.stall j := rfl
@[simp] theorem Dev.modLink_unit (s : Dev) (i : Nat) (f : LinkOne → LinkOne) (j : Nat) : (s.modLink i f).unit j = s.unit j := rfl
@[simp] theorem Dev.modLink_counter (s : Dev) (i : Nat) (f : LinkOne → LinkOne) (j m : Nat) : (s.modLink i f).counter j m = s.counter j m := rfl
@[simp] theorem Dev.modLink_fn (s : Dev) (i : Nat) (f : LinkOne → LinkOne) (j : Nat) : (s.modLink i f).fn j = s.fn j := rfl
@[simp] theorem Dev.modLink_stallRec (s : Dev) (i : Nat) (f : LinkOne → LinkOne) (j : Nat) : (s.modLink i f).stallRec j = s.stallRec j := rfl
@[simp] theorem Dev.modLink_loomStall (s : Dev) (i : Nat) (f : LinkOne → LinkOne) (j : Nat) : (s.modLink i f).loomStall j = s.loomStall j := rfl
@[simp] theorem Dev.modLink_stallLooms (s : Dev) (i : Nat) (f : LinkOne → LinkOne) (j : Nat) : (s.modLink i f).stallLooms j = s.stallLooms j := rfl
@[simp] theorem Dev.modLink_hopper (s : Dev) (i : Nat) (f : LinkOne → LinkOne) (j : Nat) : (s.modLink i f).hopper j = s.hopper j := rfl
@[simp] theorem Dev.modLink_coreUp (s : Dev) (i : Nat) (f : LinkOne → LinkOne) (p : Nat) : (s.modLink i f).coreUp p = s.coreUp p := rfl

/-! ### modPower -/

@[simp] theorem Dev.modPower_out (s : Dev) (f : PowerSt → PowerSt) : (s.modPower f).out = s.out := rfl
@[simp] theorem Dev.modPower_freeCtr (s : Dev) (f : PowerSt → PowerSt) : (s.modPower f).freeCtr = s.freeCtr := rfl
@[simp] theorem Dev.modPower_tally (s : Dev) (f : PowerSt → PowerSt) : (s.modPower f).tally = s.tally := rfl
@[simp] theorem Dev.modPower_units (s : Dev) (f : PowerSt → PowerSt) : (s.modPower f).units = s.units := rfl
@[simp] theorem Dev.modPower_looms (s : Dev) (f : PowerSt → PowerSt) : (s.modPower f).looms = s.looms := rfl
@[simp] theorem Dev.modPower_stalls (s : Dev) (f : PowerSt → PowerSt) : (s.modPower f).stalls = s.stalls := rfl
@[simp] theorem Dev.modPower_net (s : Dev) (f : PowerSt → PowerSt) : (s.modPower f).net = s.net := rfl
@[simp] theorem Dev.modPower_waiters (s : Dev) (f : PowerSt → PowerSt) : (s.modPower f).waiters = s.waiters := rfl
@[simp] theorem Dev.modPower_acks (s : Dev) (f : PowerSt → PowerSt) : (s.modPower f).acks = s.acks := rfl
@[simp] theorem Dev.modPower_mem (s : Dev) (f : PowerSt → PowerSt) : (s.modPower f).mem = s.mem := rfl
@[simp] theorem Dev.modPower_hub (s : Dev) (f : PowerSt → PowerSt) : (s.modPower f).hub = s.hub := rfl
@[simp] theorem Dev.modPower_links (s : Dev) (f : PowerSt → PowerSt) : (s.modPower f).links = s.links := rfl
@[simp] theorem Dev.modPower_fw (s : Dev) (f : PowerSt → PowerSt) : (s.modPower f).fw = s.fw := rfl
@[simp] theorem Dev.modPower_sec (s : Dev) (f : PowerSt → PowerSt) : (s.modPower f).sec = s.sec := rfl
@[simp] theorem Dev.modPower_mgt (s : Dev) (f : PowerSt → PowerSt) : (s.modPower f).mgt = s.mgt := rfl
@[simp] theorem Dev.modPower_loom (s : Dev) (f : PowerSt → PowerSt) (j : Nat) : (s.modPower f).loom j = s.loom j := rfl
@[simp] theorem Dev.modPower_stall (s : Dev) (f : PowerSt → PowerSt) (j : Nat) : (s.modPower f).stall j = s.stall j := rfl
@[simp] theorem Dev.modPower_unit (s : Dev) (f : PowerSt → PowerSt) (j : Nat) : (s.modPower f).unit j = s.unit j := rfl
@[simp] theorem Dev.modPower_counter (s : Dev) (f : PowerSt → PowerSt) (j m : Nat) : (s.modPower f).counter j m = s.counter j m := rfl
@[simp] theorem Dev.modPower_fn (s : Dev) (f : PowerSt → PowerSt) (j : Nat) : (s.modPower f).fn j = s.fn j := rfl
@[simp] theorem Dev.modPower_stallRec (s : Dev) (f : PowerSt → PowerSt) (j : Nat) : (s.modPower f).stallRec j = s.stallRec j := rfl
@[simp] theorem Dev.modPower_loomStall (s : Dev) (f : PowerSt → PowerSt) (j : Nat) : (s.modPower f).loomStall j = s.loomStall j := rfl
@[simp] theorem Dev.modPower_stallLooms (s : Dev) (f : PowerSt → PowerSt) (j : Nat) : (s.modPower f).stallLooms j = s.stallLooms j := rfl
@[simp] theorem Dev.modPower_hopper (s : Dev) (f : PowerSt → PowerSt) (j : Nat) : (s.modPower f).hopper j = s.hopper j := rfl
@[simp] theorem Dev.modPower_link (s : Dev) (f : PowerSt → PowerSt) (j : Nat) : (s.modPower f).link j = s.link j := rfl
@[simp] theorem Dev.modPower_coreUp (s : Dev) (f : PowerSt → PowerSt) (p : Nat) : (s.modPower f).coreUp p = s.coreUp p := rfl
@[simp] theorem Dev.modPower_reg (s : Dev) (f : PowerSt → PowerSt) (j : Nat) : (s.modPower f).reg j = s.reg j := rfl

/-! ### modFw -/

@[simp] theorem Dev.modFw_out (s : Dev) (f : FwSt → FwSt) : (s.modFw f).out = s.out := rfl
@[simp] theorem Dev.modFw_freeCtr (s : Dev) (f : FwSt → FwSt) : (s.modFw f).freeCtr = s.freeCtr := rfl
@[simp] theorem Dev.modFw_tally (s : Dev) (f : FwSt → FwSt) : (s.modFw f).tally = s.tally := rfl
@[simp] theorem Dev.modFw_units (s : Dev) (f : FwSt → FwSt) : (s.modFw f).units = s.units := rfl
@[simp] theorem Dev.modFw_looms (s : Dev) (f : FwSt → FwSt) : (s.modFw f).looms = s.looms := rfl
@[simp] theorem Dev.modFw_stalls (s : Dev) (f : FwSt → FwSt) : (s.modFw f).stalls = s.stalls := rfl
@[simp] theorem Dev.modFw_net (s : Dev) (f : FwSt → FwSt) : (s.modFw f).net = s.net := rfl
@[simp] theorem Dev.modFw_waiters (s : Dev) (f : FwSt → FwSt) : (s.modFw f).waiters = s.waiters := rfl
@[simp] theorem Dev.modFw_acks (s : Dev) (f : FwSt → FwSt) : (s.modFw f).acks = s.acks := rfl
@[simp] theorem Dev.modFw_mem (s : Dev) (f : FwSt → FwSt) : (s.modFw f).mem = s.mem := rfl
@[simp] theorem Dev.modFw_hub (s : Dev) (f : FwSt → FwSt) : (s.modFw f).hub = s.hub := rfl
@[simp] theorem Dev.modFw_links (s : Dev) (f : FwSt → FwSt) : (s.modFw f).links = s.links := rfl
@[simp] theorem Dev.modFw_power (s : Dev) (f : FwSt → FwSt) : (s.modFw f).power = s.power := rfl
@[simp] theorem Dev.modFw_sec (s : Dev) (f : FwSt → FwSt) : (s.modFw f).sec = s.sec := rfl
@[simp] theorem Dev.modFw_mgt (s : Dev) (f : FwSt → FwSt) : (s.modFw f).mgt = s.mgt := rfl
@[simp] theorem Dev.modFw_loom (s : Dev) (f : FwSt → FwSt) (j : Nat) : (s.modFw f).loom j = s.loom j := rfl
@[simp] theorem Dev.modFw_stall (s : Dev) (f : FwSt → FwSt) (j : Nat) : (s.modFw f).stall j = s.stall j := rfl
@[simp] theorem Dev.modFw_unit (s : Dev) (f : FwSt → FwSt) (j : Nat) : (s.modFw f).unit j = s.unit j := rfl
@[simp] theorem Dev.modFw_counter (s : Dev) (f : FwSt → FwSt) (j m : Nat) : (s.modFw f).counter j m = s.counter j m := rfl
@[simp] theorem Dev.modFw_fn (s : Dev) (f : FwSt → FwSt) (j : Nat) : (s.modFw f).fn j = s.fn j := rfl
@[simp] theorem Dev.modFw_stallRec (s : Dev) (f : FwSt → FwSt) (j : Nat) : (s.modFw f).stallRec j = s.stallRec j := rfl
@[simp] theorem Dev.modFw_loomStall (s : Dev) (f : FwSt → FwSt) (j : Nat) : (s.modFw f).loomStall j = s.loomStall j := rfl
@[simp] theorem Dev.modFw_stallLooms (s : Dev) (f : FwSt → FwSt) (j : Nat) : (s.modFw f).stallLooms j = s.stallLooms j := rfl
@[simp] theorem Dev.modFw_hopper (s : Dev) (f : FwSt → FwSt) (j : Nat) : (s.modFw f).hopper j = s.hopper j := rfl
@[simp] theorem Dev.modFw_link (s : Dev) (f : FwSt → FwSt) (j : Nat) : (s.modFw f).link j = s.link j := rfl
@[simp] theorem Dev.modFw_reg (s : Dev) (f : FwSt → FwSt) (j : Nat) : (s.modFw f).reg j = s.reg j := rfl

/-! ### modSec -/

@[simp] theorem Dev.modSec_out (s : Dev) (f : SecSt → SecSt) : (s.modSec f).out = s.out := rfl
@[simp] theorem Dev.modSec_freeCtr (s : Dev) (f : SecSt → SecSt) : (s.modSec f).freeCtr = s.freeCtr := rfl
@[simp] theorem Dev.modSec_tally (s : Dev) (f : SecSt → SecSt) : (s.modSec f).tally = s.tally := rfl
@[simp] theorem Dev.modSec_units (s : Dev) (f : SecSt → SecSt) : (s.modSec f).units = s.units := rfl
@[simp] theorem Dev.modSec_looms (s : Dev) (f : SecSt → SecSt) : (s.modSec f).looms = s.looms := rfl
@[simp] theorem Dev.modSec_stalls (s : Dev) (f : SecSt → SecSt) : (s.modSec f).stalls = s.stalls := rfl
@[simp] theorem Dev.modSec_net (s : Dev) (f : SecSt → SecSt) : (s.modSec f).net = s.net := rfl
@[simp] theorem Dev.modSec_waiters (s : Dev) (f : SecSt → SecSt) : (s.modSec f).waiters = s.waiters := rfl
@[simp] theorem Dev.modSec_acks (s : Dev) (f : SecSt → SecSt) : (s.modSec f).acks = s.acks := rfl
@[simp] theorem Dev.modSec_mem (s : Dev) (f : SecSt → SecSt) : (s.modSec f).mem = s.mem := rfl
@[simp] theorem Dev.modSec_hub (s : Dev) (f : SecSt → SecSt) : (s.modSec f).hub = s.hub := rfl
@[simp] theorem Dev.modSec_links (s : Dev) (f : SecSt → SecSt) : (s.modSec f).links = s.links := rfl
@[simp] theorem Dev.modSec_power (s : Dev) (f : SecSt → SecSt) : (s.modSec f).power = s.power := rfl
@[simp] theorem Dev.modSec_fw (s : Dev) (f : SecSt → SecSt) : (s.modSec f).fw = s.fw := rfl
@[simp] theorem Dev.modSec_mgt (s : Dev) (f : SecSt → SecSt) : (s.modSec f).mgt = s.mgt := rfl
@[simp] theorem Dev.modSec_loom (s : Dev) (f : SecSt → SecSt) (j : Nat) : (s.modSec f).loom j = s.loom j := rfl
@[simp] theorem Dev.modSec_stall (s : Dev) (f : SecSt → SecSt) (j : Nat) : (s.modSec f).stall j = s.stall j := rfl
@[simp] theorem Dev.modSec_unit (s : Dev) (f : SecSt → SecSt) (j : Nat) : (s.modSec f).unit j = s.unit j := rfl
@[simp] theorem Dev.modSec_counter (s : Dev) (f : SecSt → SecSt) (j m : Nat) : (s.modSec f).counter j m = s.counter j m := rfl
@[simp] theorem Dev.modSec_fn (s : Dev) (f : SecSt → SecSt) (j : Nat) : (s.modSec f).fn j = s.fn j := rfl
@[simp] theorem Dev.modSec_stallRec (s : Dev) (f : SecSt → SecSt) (j : Nat) : (s.modSec f).stallRec j = s.stallRec j := rfl
@[simp] theorem Dev.modSec_loomStall (s : Dev) (f : SecSt → SecSt) (j : Nat) : (s.modSec f).loomStall j = s.loomStall j := rfl
@[simp] theorem Dev.modSec_stallLooms (s : Dev) (f : SecSt → SecSt) (j : Nat) : (s.modSec f).stallLooms j = s.stallLooms j := rfl
@[simp] theorem Dev.modSec_hopper (s : Dev) (f : SecSt → SecSt) (j : Nat) : (s.modSec f).hopper j = s.hopper j := rfl
@[simp] theorem Dev.modSec_link (s : Dev) (f : SecSt → SecSt) (j : Nat) : (s.modSec f).link j = s.link j := rfl
@[simp] theorem Dev.modSec_coreUp (s : Dev) (f : SecSt → SecSt) (p : Nat) : (s.modSec f).coreUp p = s.coreUp p := rfl
@[simp] theorem Dev.modSec_reg (s : Dev) (f : SecSt → SecSt) (j : Nat) : (s.modSec f).reg j = s.reg j := rfl

/-! ### modMgt -/

@[simp] theorem Dev.modMgt_out (s : Dev) (f : MgtSt → MgtSt) : (s.modMgt f).out = s.out := rfl
@[simp] theorem Dev.modMgt_freeCtr (s : Dev) (f : MgtSt → MgtSt) : (s.modMgt f).freeCtr = s.freeCtr := rfl
@[simp] theorem Dev.modMgt_tally (s : Dev) (f : MgtSt → MgtSt) : (s.modMgt f).tally = s.tally := rfl
@[simp] theorem Dev.modMgt_units (s : Dev) (f : MgtSt → MgtSt) : (s.modMgt f).units = s.units := rfl
@[simp] theorem Dev.modMgt_looms (s : Dev) (f : MgtSt → MgtSt) : (s.modMgt f).looms = s.looms := rfl
@[simp] theorem Dev.modMgt_stalls (s : Dev) (f : MgtSt → MgtSt) : (s.modMgt f).stalls = s.stalls := rfl
@[simp] theorem Dev.modMgt_net (s : Dev) (f : MgtSt → MgtSt) : (s.modMgt f).net = s.net := rfl
@[simp] theorem Dev.modMgt_waiters (s : Dev) (f : MgtSt → MgtSt) : (s.modMgt f).waiters = s.waiters := rfl
@[simp] theorem Dev.modMgt_acks (s : Dev) (f : MgtSt → MgtSt) : (s.modMgt f).acks = s.acks := rfl
@[simp] theorem Dev.modMgt_mem (s : Dev) (f : MgtSt → MgtSt) : (s.modMgt f).mem = s.mem := rfl
@[simp] theorem Dev.modMgt_hub (s : Dev) (f : MgtSt → MgtSt) : (s.modMgt f).hub = s.hub := rfl
@[simp] theorem Dev.modMgt_links (s : Dev) (f : MgtSt → MgtSt) : (s.modMgt f).links = s.links := rfl
@[simp] theorem Dev.modMgt_power (s : Dev) (f : MgtSt → MgtSt) : (s.modMgt f).power = s.power := rfl
@[simp] theorem Dev.modMgt_fw (s : Dev) (f : MgtSt → MgtSt) : (s.modMgt f).fw = s.fw := rfl
@[simp] theorem Dev.modMgt_sec (s : Dev) (f : MgtSt → MgtSt) : (s.modMgt f).sec = s.sec := rfl
@[simp] theorem Dev.modMgt_loom (s : Dev) (f : MgtSt → MgtSt) (j : Nat) : (s.modMgt f).loom j = s.loom j := rfl
@[simp] theorem Dev.modMgt_stall (s : Dev) (f : MgtSt → MgtSt) (j : Nat) : (s.modMgt f).stall j = s.stall j := rfl
@[simp] theorem Dev.modMgt_unit (s : Dev) (f : MgtSt → MgtSt) (j : Nat) : (s.modMgt f).unit j = s.unit j := rfl
@[simp] theorem Dev.modMgt_counter (s : Dev) (f : MgtSt → MgtSt) (j m : Nat) : (s.modMgt f).counter j m = s.counter j m := rfl
@[simp] theorem Dev.modMgt_fn (s : Dev) (f : MgtSt → MgtSt) (j : Nat) : (s.modMgt f).fn j = s.fn j := rfl
@[simp] theorem Dev.modMgt_stallRec (s : Dev) (f : MgtSt → MgtSt) (j : Nat) : (s.modMgt f).stallRec j = s.stallRec j := rfl
@[simp] theorem Dev.modMgt_loomStall (s : Dev) (f : MgtSt → MgtSt) (j : Nat) : (s.modMgt f).loomStall j = s.loomStall j := rfl
@[simp] theorem Dev.modMgt_stallLooms (s : Dev) (f : MgtSt → MgtSt) (j : Nat) : (s.modMgt f).stallLooms j = s.stallLooms j := rfl
@[simp] theorem Dev.modMgt_hopper (s : Dev) (f : MgtSt → MgtSt) (j : Nat) : (s.modMgt f).hopper j = s.hopper j := rfl
@[simp] theorem Dev.modMgt_link (s : Dev) (f : MgtSt → MgtSt) (j : Nat) : (s.modMgt f).link j = s.link j := rfl
@[simp] theorem Dev.modMgt_coreUp (s : Dev) (f : MgtSt → MgtSt) (p : Nat) : (s.modMgt f).coreUp p = s.coreUp p := rfl
@[simp] theorem Dev.modMgt_reg (s : Dev) (f : MgtSt → MgtSt) (j : Nat) : (s.modMgt f).reg j = s.reg j := rfl

/-! ### modQuire -/

@[simp] theorem Dev.modQuire_out (s : Dev) (k : Nat) (f : Quire → Quire) : (s.modQuire k f).out = s.out := rfl
@[simp] theorem Dev.modQuire_freeCtr (s : Dev) (k : Nat) (f : Quire → Quire) : (s.modQuire k f).freeCtr = s.freeCtr := rfl
@[simp] theorem Dev.modQuire_tally (s : Dev) (k : Nat) (f : Quire → Quire) : (s.modQuire k f).tally = s.tally := rfl
@[simp] theorem Dev.modQuire_units (s : Dev) (k : Nat) (f : Quire → Quire) : (s.modQuire k f).units = s.units := rfl
@[simp] theorem Dev.modQuire_looms (s : Dev) (k : Nat) (f : Quire → Quire) : (s.modQuire k f).looms = s.looms := rfl
@[simp] theorem Dev.modQuire_net (s : Dev) (k : Nat) (f : Quire → Quire) : (s.modQuire k f).net = s.net := rfl
@[simp] theorem Dev.modQuire_waiters (s : Dev) (k : Nat) (f : Quire → Quire) : (s.modQuire k f).waiters = s.waiters := rfl
@[simp] theorem Dev.modQuire_acks (s : Dev) (k : Nat) (f : Quire → Quire) : (s.modQuire k f).acks = s.acks := rfl
@[simp] theorem Dev.modQuire_mem (s : Dev) (k : Nat) (f : Quire → Quire) : (s.modQuire k f).mem = s.mem := rfl
@[simp] theorem Dev.modQuire_hub (s : Dev) (k : Nat) (f : Quire → Quire) : (s.modQuire k f).hub = s.hub := rfl
@[simp] theorem Dev.modQuire_links (s : Dev) (k : Nat) (f : Quire → Quire) : (s.modQuire k f).links = s.links := rfl
@[simp] theorem Dev.modQuire_power (s : Dev) (k : Nat) (f : Quire → Quire) : (s.modQuire k f).power = s.power := rfl
@[simp] theorem Dev.modQuire_fw (s : Dev) (k : Nat) (f : Quire → Quire) : (s.modQuire k f).fw = s.fw := rfl
@[simp] theorem Dev.modQuire_sec (s : Dev) (k : Nat) (f : Quire → Quire) : (s.modQuire k f).sec = s.sec := rfl
@[simp] theorem Dev.modQuire_mgt (s : Dev) (k : Nat) (f : Quire → Quire) : (s.modQuire k f).mgt = s.mgt := rfl
@[simp] theorem Dev.modQuire_loom (s : Dev) (k : Nat) (f : Quire → Quire) (j : Nat) : (s.modQuire k f).loom j = s.loom j := rfl
@[simp] theorem Dev.modQuire_unit (s : Dev) (k : Nat) (f : Quire → Quire) (j : Nat) : (s.modQuire k f).unit j = s.unit j := rfl
@[simp] theorem Dev.modQuire_counter (s : Dev) (k : Nat) (f : Quire → Quire) (j m : Nat) : (s.modQuire k f).counter j m = s.counter j m := rfl
@[simp] theorem Dev.modQuire_fn (s : Dev) (k : Nat) (f : Quire → Quire) (j : Nat) : (s.modQuire k f).fn j = s.fn j := rfl
@[simp] theorem Dev.modQuire_stallRec (s : Dev) (k : Nat) (f : Quire → Quire) (j : Nat) : (s.modQuire k f).stallRec j = s.stallRec j := rfl
@[simp] theorem Dev.modQuire_loomStall (s : Dev) (k : Nat) (f : Quire → Quire) (j : Nat) : (s.modQuire k f).loomStall j = s.loomStall j := rfl
@[simp] theorem Dev.modQuire_stallLooms (s : Dev) (k : Nat) (f : Quire → Quire) (j : Nat) : (s.modQuire k f).stallLooms j = s.stallLooms j := rfl
@[simp] theorem Dev.modQuire_hopper (s : Dev) (k : Nat) (f : Quire → Quire) (j : Nat) : (s.modQuire k f).hopper j = s.hopper j := rfl
@[simp] theorem Dev.modQuire_link (s : Dev) (k : Nat) (f : Quire → Quire) (j : Nat) : (s.modQuire k f).link j = s.link j := rfl
@[simp] theorem Dev.modQuire_coreUp (s : Dev) (k : Nat) (f : Quire → Quire) (p : Nat) : (s.modQuire k f).coreUp p = s.coreUp p := rfl
@[simp] theorem Dev.modQuire_reg (s : Dev) (k : Nat) (f : Quire → Quire) (j : Nat) : (s.modQuire k f).reg j = s.reg j := rfl

/-! ### Fields that an update of their own table does not touch -/

@[simp] theorem Dev.setFn_stallRec (s : Dev) (i : Nat) (x : FnSt) (j : Nat) : (s.setFn i x).stallRec j = s.stallRec j := rfl
@[simp] theorem Dev.setFn_loomStall (s : Dev) (i : Nat) (x : FnSt) (j : Nat) : (s.setFn i x).loomStall j = s.loomStall j := rfl
@[simp] theorem Dev.setFn_clusterStall (s : Dev) (i : Nat) (x : FnSt) (j : Nat) : (s.setFn i x).clusterStall j = s.clusterStall j := rfl
@[simp] theorem Dev.setFn_linkUp (s : Dev) (i : Nat) (x : FnSt) : (s.setFn i x).hub.linkUp = s.hub.linkUp := rfl
@[simp] theorem Dev.setHopper_linkUp (s : Dev) (h : Nat) (q : List W64) : (s.setHopper h q).hub.linkUp = s.hub.linkUp := rfl
@[simp] theorem Dev.setHopper_fn (s : Dev) (h : Nat) (q : List W64) (j : Nat) : (s.setHopper h q).fn j = s.fn j := rfl
@[simp] theorem Dev.setHopper_loomStall (s : Dev) (h : Nat) (q : List W64) (j : Nat) : (s.setHopper h q).loomStall j = s.loomStall j := rfl
@[simp] theorem Dev.modReg_store (s : Dev) (i : Nat) (f : RegSt → RegSt) : (s.modReg i f).mem.store = s.mem.store := rfl
@[simp] theorem Dev.modReg_cellar (s : Dev) (i : Nat) (f : RegSt → RegSt) : (s.modReg i f).mem.cellar = s.mem.cellar := rfl
@[simp] theorem Dev.modReg_stks (s : Dev) (i : Nat) (f : RegSt → RegSt) : (s.modReg i f).mem.stks = s.mem.stks := rfl
@[simp] theorem Dev.setShelf_store (s : Dev) (k : Nat) (q : List ShelfLine) : (s.setShelf k q).mem.store = s.mem.store := rfl
@[simp] theorem Dev.setShelf_cellar (s : Dev) (k : Nat) (q : List ShelfLine) : (s.setShelf k q).mem.cellar = s.mem.cellar := rfl

/-! ### Reading what was written -/

theorem Dev.setLoom_loom (s : Dev) (l i : Nat) (x : LoomSt) : (s.setLoom l x).loom i = if i = l then x else s.loom i := tget_tset ..
theorem Dev.modLoom_loom (s : Dev) (l i : Nat) (f : LoomSt → LoomSt) : (s.modLoom l f).loom i = if i = l then f (s.loom l) else s.loom i := tget_tset ..
theorem Dev.setStall_stall (s : Dev) (k i : Nat) (x : StallSt) : (s.setStall k x).stall i = if i = k then x else s.stall i := tget_tset ..
theorem Dev.modStall_stall (s : Dev) (k i : Nat) (f : StallSt → StallSt) : (s.modStall k f).stall i = if i = k then f (s.stall k) else s.stall i := tget_tset ..
theorem Dev.setUnit_unit (s : Dev) (u i : Nat) (x : UnitSt) : (s.setUnit u x).unit i = if i = u then x else s.unit i := tget_tset ..
theorem Dev.modUnit_unit (s : Dev) (u i : Nat) (f : UnitSt → UnitSt) : (s.modUnit u f).unit i = if i = u then f (s.unit u) else s.unit i := tget_tset ..
theorem Dev.setFn_fn (s : Dev) (k i : Nat) (x : FnSt) : (s.setFn k x).fn i = if i = k then x else s.fn i := tget_tset ..
theorem Dev.modFn_fn (s : Dev) (k i : Nat) (f : FnSt → FnSt) : (s.modFn k f).fn i = if i = k then f (s.fn k) else s.fn i := tget_tset ..
theorem Dev.setHopper_hopper (s : Dev) (h i : Nat) (q : List W64) : (s.setHopper h q).hopper i = if i = h then q else s.hopper i := tget_tset ..
theorem Dev.setStream_stream (s : Dev) (k i : Nat) (q : List Token) : (s.setStream k q).stream i = if i = k then q else s.stream i := tget_tset ..
theorem Dev.setLink_link (s : Dev) (k i : Nat) (x : LinkOne) : (s.setLink k x).link i = if i = k then x else s.link i := tget_tset ..
theorem Dev.modLink_link (s : Dev) (k i : Nat) (f : LinkOne → LinkOne) : (s.modLink k f).link i = if i = k then f (s.link k) else s.link i := tget_tset ..
theorem Dev.modReg_reg (s : Dev) (k i : Nat) (f : RegSt → RegSt) : (s.modReg k f).reg i = if i = k then f (s.reg k) else s.reg i := tget_tset ..
theorem Dev.setShelf_shelfLines (s : Dev) (k i : Nat) (q : List ShelfLine) : (s.setShelf k q).shelfLines i = if i = k then q else s.shelfLines i := tget_tset ..

@[simp] theorem Dev.setLoom_loom_same (s : Dev) (l : Nat) (x : LoomSt) : (s.setLoom l x).loom l = x := tget_tset_same ..
@[simp] theorem Dev.modLoom_loom_same (s : Dev) (l : Nat) (f : LoomSt → LoomSt) : (s.modLoom l f).loom l = f (s.loom l) := tget_tset_same ..
@[simp] theorem Dev.setStall_stall_same (s : Dev) (k : Nat) (x : StallSt) : (s.setStall k x).stall k = x := tget_tset_same ..
@[simp] theorem Dev.modStall_stall_same (s : Dev) (k : Nat) (f : StallSt → StallSt) : (s.modStall k f).stall k = f (s.stall k) := tget_tset_same ..
@[simp] theorem Dev.setUnit_unit_same (s : Dev) (u : Nat) (x : UnitSt) : (s.setUnit u x).unit u = x := tget_tset_same ..
@[simp] theorem Dev.setFn_fn_same (s : Dev) (k : Nat) (x : FnSt) : (s.setFn k x).fn k = x := tget_tset_same ..
@[simp] theorem Dev.modFn_fn_same (s : Dev) (k : Nat) (f : FnSt → FnSt) : (s.modFn k f).fn k = f (s.fn k) := tget_tset_same ..

@[simp] theorem Dev.setLoom_setLoom (s : Dev) (l : Nat) (x y : LoomSt) : (s.setLoom l x).setLoom l y = s.setLoom l y := by simp [Dev.setLoom]
@[simp] theorem Dev.modLoom_modLoom (s : Dev) (l : Nat) (f g : LoomSt → LoomSt) : (s.modLoom l f).modLoom l g = s.modLoom l (fun x => g (f x)) := by
  simp [Dev.modLoom]
@[simp] theorem Dev.setStall_setStall (s : Dev) (k : Nat) (x y : StallSt) : (s.setStall k x).setStall k y = s.setStall k y := by simp [Dev.setStall]
@[simp] theorem Dev.modStall_modStall (s : Dev) (k : Nat) (f g : StallSt → StallSt) : (s.modStall k f).modStall k g = s.modStall k (fun x => g (f x)) := by
  simp [Dev.modStall]

/-- A counter after counting: it rises by `k` modulo 2^64, and no other counter of any unit changes. -/
theorem Dev.count_counter (s : Dev) (u n k v m : Nat) :
    (s.count u n k).counter v m = if v = u ∧ m = n then s.counter u n + BitVec.ofNat 64 k else s.counter v m := by
  simp only [Dev.count, Dev.counter, Dev.modUnit_unit]
  by_cases h : v = u
  · subst h; simp only [if_true, true_and, tget_tset]
  · simp [h]
/-- Counting leaves a unit's snapshot banks and marks. -/
theorem Dev.count_unit (s : Dev) (u n k v : Nat) : (s.count u n k).unit v = { s.unit v with live := ((s.count u n k).unit v).live } := by
  simp only [Dev.count, Dev.modUnit_unit]; split
  · next h => subst h; rfl
  · rfl

/-! ### Commands on the module, on the meter, and host accesses -/

theorem State.onDev_next (s : State) (f : Dev → Host.Outcome Dev Fault Refusal) (d : Dev) (h : f s.toDev = .next d) :
    s.onDev f = .next { s with toDev := d } := by simp [State.onDev, h]
theorem State.onDev_meter {s t : State} {f : Dev → Host.Outcome Dev Fault Refusal} (h : s.onDev f = .next t) :
    t.meter = s.meter ∧ t.pending = s.pending ∧ f s.toDev = .next t.toDev := by
  unfold State.onDev at h
  split at h <;> cases h
  next e => exact ⟨rfl, rfl, e⟩
@[simp] theorem State.modDev_meter (s : State) (f : Dev → Dev) : (s.modDev f).meter = s.meter := rfl
@[simp] theorem State.modDev_pending (s : State) (f : Dev → Dev) : (s.modDev f).pending = s.pending := rfl
@[simp] theorem State.modDev_toDev (s : State) (f : Dev → Dev) : (s.modDev f).toDev = f s.toDev := rfl
@[simp] theorem State.modMeter_meter (s : State) (f : MeterSt → MeterSt) : (s.modMeter f).meter = f s.meter := rfl
@[simp] theorem State.modMeter_pending (s : State) (f : MeterSt → MeterSt) : (s.modMeter f).pending = s.pending := rfl
@[simp] theorem State.modMeter_toDev (s : State) (f : MeterSt → MeterSt) : (s.modMeter f).toDev = s.toDev := rfl

/-- A host access: its effect while the host link is up, none otherwise. -/
theorem Dev.host_eq (s k : Dev) : s.host k = .next (if s.hub.linkUp then k else s) := by
  unfold Dev.host; split <;> simp_all
/-- A host command: its effect while the host link is up and no earlier write of the function waits, none otherwise. -/
theorem Dev.hostCmd_eq (s : Dev) (i : Nat) (k : Dev) : s.hostCmd i k = .next (if s.hub.linkUp && (s.fn i).wbuf.isEmpty then k else s) := by
  unfold Dev.hostCmd; split <;> simp_all

/-! ### Tiles in slots -/

theorem LoomSt.setSlot_slot (x : LoomSt) (i j : Nat) (v : Slot) : (x.setSlot i v).slot j = if j = i then v else x.slot j := tget_tset ..
@[simp] theorem LoomSt.setSlot_bench (x : LoomSt) (i : Nat) (v : Slot) : (x.setSlot i v).bench = x.bench := rfl
@[simp] theorem benchWrite_slots (x : LoomSt) (a : Nat) (d : List Byte) : (benchWrite x a d).slots = x.slots := rfl
@[simp] theorem benchWrite_slot (x : LoomSt) (a i : Nat) (d : List Byte) : (benchWrite x a d).slot i = x.slot i := rfl
theorem benchByte_benchWrite (x : LoomSt) (a i : Nat) (d : List Byte) :
    benchByte (benchWrite x a d) i = if a ≤ i ∧ i < a + d.length then d.getD (i - a) 0 else benchByte x i := tget_tsetRange ..
/-- A completed read changes its own slot alone, and no byte. -/
theorem readDone_slot (x : LoomSt) (i j : Nat) (h : j ≠ i) : (readDone x i).slot j = x.slot j := by
  unfold readDone
  dsimp only
  split
  · split <;> rw [LoomSt.setSlot_slot, if_neg h]
  · rfl
@[simp] theorem readDone_bench (x : LoomSt) (i : Nat) : (readDone x i).bench = x.bench := by
  unfold readDone
  dsimp only
  split
  · split <;> rfl
  · rfl
/-- A written tile: its slot is FULL, or PINNED at reader count 255, with the tag; the other slots stay. -/
theorem writeTile_slot (x : LoomSt) (i j : Nat) (t : Tile) (r c : Nat) :
    ((writeTile x i t r c).slot i).tag = t.tag ∧ readable (writeTile x i t r c) i = true ∧
    (j ≠ i → (writeTile x i t r c).slot j = x.slot j) := by
  unfold writeTile readable
  refine ⟨?_, ?_, fun h => by rw [LoomSt.setSlot_slot, if_neg h]; rfl⟩ <;> rw [LoomSt.setSlot_slot, if_pos rfl]
  · rfl
  · simp only [Slot.settle, and_self, if_true]; split <;> rfl
theorem writeTile_byte (x : LoomSt) (i k : Nat) (t : Tile) (r c : Nat) :
    benchByte (writeTile x i t r c) k = if 8192 * i ≤ k ∧ k < 8192 * i + t.data.length then t.data.getD (k - 8192 * i) 0 else benchByte x k :=
  benchByte_benchWrite ..

end Sys2Proof.Machine
end

