-- ==== Sys2Proof/Laws/Ops.lean ====
section
/-!
SUPPORT. What the shared operations do, said once: vectors, the event log, the freezing of looms, stall and loom faults.
-/
namespace Sys2Proof.Machine

/-- A raised vector sends one message, sets one pending bit, or does nothing. -/
theorem Dev.msix_cases (s : Dev) (i v : Nat) :
    s.msix i v = s ∨ (∃ a b, s.msix i v = s.emit (.msix i v a b)) ∨ s.msix i v = s.modFn i (fun f => { f with pba := sinsert v f.pba }) := by
  unfold Dev.msix
  dsimp only
  split
  · exact .inl rfl
  · split
    · exact .inr (.inr rfl)
    · exact .inr (.inl ⟨_, _, rfl⟩)

/-- A raised vector changes messages and functions alone. -/
theorem Dev.msix_frame (s : Dev) (i v : Nat) :
    s.msix i v = { s with out := (s.msix i v).out, hub := { s.hub with fns := (s.msix i v).hub.fns } } := by
  rcases s.msix_cases i v with h | ⟨a, b, h⟩ | h <;> rw [h] <;> rfl

/-- An event for the log changes the log's waiting entries alone. -/
theorem Dev.logEvent_frame (s : Dev) (src code st sev : Nat) (data : List Nat) :
    s.logEvent src code st sev data = { s with hub := { s.hub with
      logQueue := (s.logEvent src code st sev data).hub.logQueue, logLost := (s.logEvent src code st sev data).hub.logLost,
      cluHeld := (s.logEvent src code st sev data).hub.cluHeld, cluLost := (s.logEvent src code st sev data).hub.cluLost } } := by
  unfold Dev.logEvent
  dsimp only
  split
  · split <;> rfl
  · split
    · split <;> rfl
    · rfl

/-- While the management core runs and no inhibit holds, an event joins the entries that wait. -/
theorem Dev.logEvent_up (s : Dev) (src code st sev : Nat) (data : List Nat) (h : s.coreUp 3 = true) (g : s.power.nvInh = false) :
    (s.logEvent src code st sev data).hub.logQueue = s.hub.logQueue ++
      [{ seq := 0, source := BitVec.ofNat 16 src, code := BitVec.ofNat 16 code, stall := BitVec.ofNat 8 st, severity := BitVec.ofNat 8 sev,
         hostTime := s.hub.hostTime, since := 0, data := data }] := by
  simp only [Dev.logEvent, h, g, if_true, Bool.false_and]
  rfl

@[simp] theorem Dev.logEvent_looms (s : Dev) (a b c d : Nat) (e : List Nat) : (s.logEvent a b c d e).looms = s.looms := by rw [logEvent_frame]
@[simp] theorem Dev.logEvent_stalls (s : Dev) (a b c d : Nat) (e : List Nat) : (s.logEvent a b c d e).stalls = s.stalls := by rw [logEvent_frame]
@[simp] theorem Dev.logEvent_mem (s : Dev) (a b c d : Nat) (e : List Nat) : (s.logEvent a b c d e).mem = s.mem := by rw [logEvent_frame]
@[simp] theorem Dev.logEvent_links (s : Dev) (a b c d : Nat) (e : List Nat) : (s.logEvent a b c d e).links = s.links := by rw [logEvent_frame]
@[simp] theorem Dev.logEvent_power (s : Dev) (a b c d : Nat) (e : List Nat) : (s.logEvent a b c d e).power = s.power := by rw [logEvent_frame]
@[simp] theorem Dev.logEvent_fw (s : Dev) (a b c d : Nat) (e : List Nat) : (s.logEvent a b c d e).fw = s.fw := by rw [logEvent_frame]
@[simp] theorem Dev.logEvent_sec (s : Dev) (a b c d : Nat) (e : List Nat) : (s.logEvent a b c d e).sec = s.sec := by rw [logEvent_frame]
@[simp] theorem Dev.logEvent_mgt (s : Dev) (a b c d : Nat) (e : List Nat) : (s.logEvent a b c d e).mgt = s.mgt := by rw [logEvent_frame]
@[simp] theorem Dev.logEvent_tally (s : Dev) (a b c d : Nat) (e : List Nat) : (s.logEvent a b c d e).tally = s.tally := by rw [logEvent_frame]
@[simp] theorem Dev.logEvent_units (s : Dev) (a b c d : Nat) (e : List Nat) : (s.logEvent a b c d e).units = s.units := by rw [logEvent_frame]
@[simp] theorem Dev.logEvent_out (s : Dev) (a b c d : Nat) (e : List Nat) : (s.logEvent a b c d e).out = s.out := by rw [logEvent_frame]
@[simp] theorem Dev.logEvent_fns (s : Dev) (a b c d : Nat) (e : List Nat) : (s.logEvent a b c d e).hub.fns = s.hub.fns := by rw [logEvent_frame]
@[simp] theorem Dev.logEvent_linkUp (s : Dev) (a b c d : Nat) (e : List Nat) : (s.logEvent a b c d e).hub.linkUp = s.hub.linkUp := by rw [logEvent_frame]
@[simp] theorem Dev.logEvent_devPlan (s : Dev) (a b c d : Nat) (e : List Nat) : (s.logEvent a b c d e).hub.devPlan = s.hub.devPlan := by rw [logEvent_frame]

/-- One update of the loom table after another: only that table changes. -/
theorem Dev.foldl_modLoom_frame (ls : List Nat) (f : Nat → LoomSt → LoomSt) (s : Dev) :
    ls.foldl (fun t l => t.modLoom l (f l)) s = { s with looms := (ls.foldl (fun t l => t.modLoom l (f l)) s).looms } := by
  induction ls generalizing s with
  | nil => rfl
  | cons a t ih => simp only [List.foldl_cons]; rw [ih]; rfl

/-- Every loom of the list is changed, once where `f` is idempotent, and no other. -/
theorem Dev.foldl_modLoom_loom (ls : List Nat) (f : LoomSt → LoomSt) (hf : ∀ x, f (f x) = f x) (s : Dev) (i : Nat) :
    (ls.foldl (fun t l => t.modLoom l f) s).loom i = if i ∈ ls then f (s.loom i) else s.loom i := by
  induction ls generalizing s with
  | nil => rfl
  | cons a t ih =>
    rw [List.foldl_cons, ih, Dev.modLoom_loom]
    by_cases h : i = a
    · subst h; by_cases g : i ∈ t <;> simp [g, hf]
    · by_cases g : i ∈ t <;> simp [g, h]

/-- `d` is `s` but for stalls, looms, messages and the Shelf's lines: what a fault may change. -/
def FaultFrame (s d : Dev) : Prop := ∃ st lo ou sh, d = { s with stalls := st, looms := lo, out := ou, mem := { s.mem with shelf := sh } }

theorem FaultFrame.refl (s : Dev) : FaultFrame s s := ⟨_, _, _, _, rfl⟩
theorem FaultFrame.trans {s d e : Dev} : FaultFrame s d → FaultFrame d e → FaultFrame s e := by
  rintro ⟨_, _, _, _, rfl⟩ ⟨_, _, _, _, rfl⟩; exact ⟨_, _, _, _, rfl⟩
theorem FaultFrame.modLoom {s d : Dev} (h : FaultFrame s d) (l : Nat) (f : LoomSt → LoomSt) : FaultFrame s (d.modLoom l f) := h.trans ⟨_, _, _, _, rfl⟩
theorem FaultFrame.modStall {s d : Dev} (h : FaultFrame s d) (k : Nat) (f : StallSt → StallSt) : FaultFrame s (d.modStall k f) := h.trans ⟨_, _, _, _, rfl⟩
theorem FaultFrame.emit {s d : Dev} (h : FaultFrame s d) (o : Out) : FaultFrame s (d.emit o) := h.trans ⟨_, _, _, _, rfl⟩
theorem FaultFrame.shelf {s d : Dev} (h : FaultFrame s d) (f : MemSt → Tab (List ShelfLine)) :
    FaultFrame s (d.modMem fun m => { m with shelf := f m }) := h.trans ⟨_, _, _, _, rfl⟩
theorem FaultFrame.foldl {α : Type} (f : Dev → α → Dev) (g : ∀ s a, FaultFrame s (f s a)) (ls : List α) {s d : Dev} (h : FaultFrame s d) :
    FaultFrame s (ls.foldl f d) := by
  induction ls generalizing d with
  | nil => exact h
  | cons a t ih => exact ih (h.trans (g d a))
theorem FaultFrame.ite {s a b : Dev} {c : Prop} [Decidable c] (h : FaultFrame s a) (g : FaultFrame s b) : FaultFrame s (if c then a else b) := by
  split
  · exact h
  · exact g

/-- A stall fault changes its stall, its looms and the Shelf's marks alone. -/
theorem Dev.faultStall_frame (s : Dev) (k c l : Nat) : FaultFrame s (s.faultStall k c l) := by
  have h (d : Dev) (g : FaultFrame s d) : FaultFrame s ((s.stallLooms k).foldl (fun t l => t.modLoom l fun y => { y with frzFault := true }) d) :=
    .foldl _ (fun s a => (FaultFrame.refl s).modLoom a _) _ g
  have g (u : StallSt → StallSt) (f : MemSt → Tab (List ShelfLine)) := FaultFrame.shelf (h _ ((FaultFrame.refl s).modStall k u)) f
  exact .ite ((FaultFrame.refl s).modStall ..) (.ite ((g _ _).modStall ..) (g _ _))

/-- Freezing looms one after another leaves stalls. -/
theorem Dev.freeze_stall (ls : List Nat) (s : Dev) (j : Nat) :
    (ls.foldl (fun t l => t.modLoom l fun y => { y with frzFault := true }) s).stall j = s.stall j := by
  rw [Dev.foldl_modLoom_frame ls (fun _ y => { y with frzFault := true })]; rfl

/-- No other stall changes at a stall fault. -/
theorem Dev.faultStall_stall (s : Dev) (k c l i : Nat) (h : i ≠ k) : (s.faultStall k c l).stall i = s.stall i := by
  unfold Dev.faultStall
  simp only [apply_ite (fun d : Dev => d.stall i), Dev.modStall_stall, if_neg h, Dev.modMem_stall, Dev.freeze_stall, ite_self]

/-- A stall that was not faulted is faulted afterwards, with its plan, and its looms are frozen; no other loom changes. -/
theorem Dev.faultStall_latches (s : Dev) (k c l : Nat) (h : (s.stall k).faulted = false) :
    ((s.faultStall k c l).stall k).faulted = true ∧ ((s.faultStall k c l).stall k).cause = BitVec.ofNat 3 c ∧
    ((s.faultStall k c l).stall k).plan = (s.stall k).plan ∧
    (∀ i, (s.faultStall k c l).loom i = if i ∈ s.stallLooms k then { s.loom i with frzFault := true } else s.loom i) := by
  have hl (d : Dev) (i : Nat) := Dev.foldl_modLoom_loom (s.stallLooms k) (fun y => { y with frzFault := true }) (fun _ => rfl) d i
  unfold Dev.faultStall
  rw [if_neg (by simp [h])]
  refine ⟨?_, ?_, ?_, fun i => ?_⟩ <;> dsimp only
  · simp only [apply_ite (fun d : Dev => d.stall k), Dev.modStall_stall_same, Dev.modMem_stall, Dev.freeze_stall]; split <;> rfl
  · simp only [apply_ite (fun d : Dev => d.stall k), Dev.modStall_stall_same, Dev.modMem_stall, Dev.freeze_stall]; split <;> rfl
  · simp only [apply_ite (fun d : Dev => d.stall k), Dev.modStall_stall_same, Dev.modMem_stall, Dev.freeze_stall]; split <;> rfl
  · simp only [apply_ite (fun d : Dev => d.loom i), Dev.modStall_loom, Dev.modMem_loom, hl, ite_self]

/-- A loom fault changes looms, stalls, the Shelf's marks and messages alone. -/
theorem Dev.faultLoom_frame (s : Dev) (l c sl p ln op : Nat) : FaultFrame s (s.faultLoom l c sl p ln op) := by
  unfold Dev.faultLoom
  dsimp only
  have h (f : LoomSt → LoomSt) (o : Out) : FaultFrame s (if (s.loom l).fault.faulted = true then s else (s.modLoom l f).emit o) :=
    .ite (.refl s) (((FaultFrame.refl s).modLoom ..).emit ..)
  split
  · exact (h _ _).trans (Dev.faultStall_frame ..)
  · exact h _ _

/-- A fault of a tier access has the same frame. -/
theorem Dev.tierFault_frame (s : Dev) (l op va kind : Nat) : FaultFrame s (s.tierFault l op va kind) :=
  ((FaultFrame.refl s).modLoom ..).trans (Dev.faultLoom_frame ..)

/-- A module fault has it too, but for its own mark. -/
theorem Dev.moduleFault_frame (s : Dev) : FaultFrame (s.modHub fun h => { h with moduleFault := true }) s.moduleFault :=
  .foldl _ (fun s k => Dev.faultStall_frame s k 4 0) _ (.refl _)

end Sys2Proof.Machine
end

