-- ==== Sys2Proof/Laws/Memory.lean ====
section
/-!
SUPPORT. What accesses to the tiers may change, and that every memory operation keeps the canonical form.
-/
namespace Sys2Proof.Machine

theorem reset_memory_wf : Memory.wf State.reset.mem = true := rfl

theorem Memory.wf_store {m : MemSt} (i : Nat) (v : List Byte) (h : Memory.wf m = true) : Memory.wf { m with store := tsetRange 0 m.store i v } = true := by
  simp only [Memory.wf, Bool.and_eq_true] at *
  exact ⟨twf_tsetRange _ _ _ _ h.1, h.2⟩
theorem Memory.wf_cellar {m : MemSt} (i : Nat) (v : List Byte) (h : Memory.wf m = true) : Memory.wf { m with cellar := tsetRange 0 m.cellar i v } = true := by
  simp only [Memory.wf, Bool.and_eq_true] at *
  exact ⟨h.1, twf_tsetRange _ _ _ _ h.2⟩
/-- Zeroing a released place (R214) keeps the form. -/
theorem Memory.wf_zeroPlace {m : MemSt} (z : Place × Nat × Nat × Bool) (h : Memory.wf m = true) : Memory.wf (zeroPlace m z) = true := by
  obtain ⟨p, i, u, c⟩ := z
  simp only [Memory.wf, Bool.and_eq_true] at *
  unfold zeroPlace
  cases c
  · exact ⟨by simpa using twf_tdrop _ _ _ h.1, by simpa using h.2⟩
  · exact ⟨by simpa using h.1, by simpa using twf_tdrop _ _ _ h.2⟩

/-- `d` is `s` but for tiers, counters and stalls, and its tiers are in canonical form if those of `s` are: what an access to the
tiers may change. -/
def TierFrame (s d : Dev) : Prop := (∃ m u st, d = { s with mem := m, units := u, stalls := st }) ∧ (Memory.wf s.mem = true → Memory.wf d.mem = true)

theorem TierFrame.refl (s : Dev) : TierFrame s s := ⟨⟨_, _, _, rfl⟩, id⟩
theorem TierFrame.trans {s d e : Dev} (h : TierFrame s d) (g : TierFrame d e) : TierFrame s e := by
  refine ⟨?_, fun w => g.2 (h.2 w)⟩
  obtain ⟨⟨_, _, _, rfl⟩, -⟩ := h
  obtain ⟨⟨_, _, _, rfl⟩, -⟩ := g
  exact ⟨_, _, _, rfl⟩
/-- A frame leaves every loom. -/
theorem TierFrame.looms {s d : Dev} (h : TierFrame s d) : d.looms = s.looms := by obtain ⟨⟨_, _, _, rfl⟩, -⟩ := h; rfl
theorem TierFrame.hub {s d : Dev} (h : TierFrame s d) : d.hub = s.hub := by obtain ⟨⟨_, _, _, rfl⟩, -⟩ := h; rfl
theorem TierFrame.out {s d : Dev} (h : TierFrame s d) : d.out = s.out := by obtain ⟨⟨_, _, _, rfl⟩, -⟩ := h; rfl
theorem TierFrame.ite {s a b : Dev} {c : Prop} [Decidable c] (h : TierFrame s a) (g : TierFrame s b) : TierFrame s (if c then a else b) := by
  split
  · exact h
  · exact g
/-- An update of the tiers that leaves their bytes. -/
theorem TierFrame.modMem {s d : Dev} (h : TierFrame s d) (f : MemSt → MemSt) (a : ∀ m, (f m).store = m.store) (b : ∀ m, (f m).cellar = m.cellar) :
    TierFrame s (d.modMem f) := by
  refine h.trans ⟨⟨_, _, _, rfl⟩, fun w => ?_⟩
  show Memory.wf (f d.mem) = true
  unfold Memory.wf at *; rw [a, b]; exact w
theorem TierFrame.count {s d : Dev} (h : TierFrame s d) (u n k : Nat) : TierFrame s (d.count u n k) := h.trans ⟨⟨_, _, _, rfl⟩, id⟩
theorem TierFrame.accept {s d : Dev} (h : TierFrame s d) (src dst n b : Nat) : TierFrame s (d.accept src dst n b) :=
  .ite (h.trans ⟨⟨_, _, _, rfl⟩, id⟩) h
theorem TierFrame.modStall {s d : Dev} (h : TierFrame s d) (k : Nat) (f : StallSt → StallSt) : TierFrame s (d.modStall k f) := h.trans ⟨⟨_, _, _, rfl⟩, id⟩
theorem TierFrame.markWrite {s d : Dev} (h : TierFrame s d) (k : Nat) (r : Region) (b g : Nat) : TierFrame s (d.markWrite k r b g) :=
  h.trans ⟨⟨_, _, _, rfl⟩, id⟩
theorem TierFrame.regAdds {s d : Dev} (h : TierFrame s d) (i k n : Nat) : TierFrame s (d.regAdds i k n) := h.trans ⟨⟨_, _, _, rfl⟩, id⟩
theorem TierFrame.regAdd {s d : Dev} (h : TierFrame s d) (i k : Nat) : TierFrame s (d.regAdd i k) := h.regAdds i k 1
theorem TierFrame.setShelf {s d : Dev} (h : TierFrame s d) (k : Nat) (l : List ShelfLine) : TierFrame s (d.setShelf k l) :=
  h.modMem _ (fun _ => rfl) (fun _ => rfl)
theorem TierFrame.foldl {α : Type} (f : Dev → α → Dev) (g : ∀ s a, TierFrame s (f s a)) (ls : List α) {s d : Dev} (h : TierFrame s d) :
    TierFrame s (ls.foldl f d) := by
  induction ls generalizing d with
  | nil => exact h
  | cons a t ih => exact ih (h.trans (g d a))
theorem TierFrame.stcWrite {s d : Dev} (h : TierFrame s d) (k st ln : Nat) (v : List Byte) : TierFrame s (d.stcWrite k st ln v) := by
  refine (((h.regAdd (regStore st) k).accept (shelfKey (st / 3)) (storeKey st) 1 64).count (storeKey st) 1 1).trans ⟨⟨_, _, _, rfl⟩, fun w => ?_⟩
  simp only [Memory.wf, Bool.and_eq_true] at *
  exact ⟨twf_tsetRange _ _ _ _ w.1, w.2⟩
theorem TierFrame.shelfWriteBack {s d : Dev} (h : TierFrame s d) (die k : Nat) (x : ShelfLine) : TierFrame s (d.shelfWriteBack die k x) :=
  .ite ((h.stcWrite ..).count ..) h
theorem TierFrame.ringPass {s d : Dev} (h : TierFrame s d) (k src n : Nat) (hs : List (Nat × Bool)) : TierFrame s (d.ringPass k src n hs) :=
  .foldl _ (fun s _ => ((((TierFrame.refl s).regAdds ..).accept ..).count ..).count ..) _ h
theorem TierFrame.ringToken {s d : Dev} (h : TierFrame s d) (k src n a b : Nat) : TierFrame s (d.ringToken k src n a b) := h.ringPass ..

/-- Making room for a kept line, and putting a line at its Shelf's front (R315). -/
theorem Dev.keepTake_frame (s : Dev) (die k r key : Nat) : TierFrame s (s.keepTake die k r key).2 := by
  unfold Dev.keepTake
  dsimp only
  split
  · exact .refl s
  · split
    · exact .refl s
    · split
      · exact .refl s
      · split
        · exact ((TierFrame.refl s).shelfWriteBack ..).setShelf ..
        · exact .refl s
theorem TierFrame.shelfPut {s d : Dev} (h : TierFrame s d) (die : Nat) (x : ShelfLine) (keep : Bool) : TierFrame s (d.shelfPut die x keep) := by
  unfold Dev.shelfPut
  dsimp only
  split
  · exact (h.trans (Dev.keepTake_frame ..)).setShelf ..
  · exact h.setShelf ..

/-- Filling a Shelf line (R315). -/
theorem Dev.shelfFill_frame (s : Dev) (die : Nat) (x : ShelfLine) : TierFrame s (s.shelfFill die x).2 := by
  unfold Dev.shelfFill
  dsimp only
  generalize s.stallRec x.stall = q
  cases q
  · exact (TierFrame.refl s).count ..
  dsimp only
  split
  · exact (TierFrame.refl s).count ..
  · split
    · exact (TierFrame.refl s).count ..
    · next v _ =>
      refine TierFrame.shelfPut ?_ ..
      cases v
      · exact .refl s
      · exact ((TierFrame.refl s).shelfWriteBack ..).setShelf ..

/-- Reading a Store line at its controller (R322) and through the Shelf (R314). -/
theorem Dev.stcRead_frame (s : Dev) (k st ln : Nat) : TierFrame s (s.stcRead k st ln).2 := by
  unfold Dev.stcRead
  dsimp only
  split
  · exact ((((TierFrame.refl s).regAdd ..).accept ..).count ..).count ..
  · exact (((TierFrame.refl s).regAdd ..).accept ..).count ..
theorem Dev.shelfRead_frame (s : Dev) (k : Nat) (r : Region) (st ln hint : Nat) : TierFrame s (s.shelfRead k r st ln hint).2 := by
  have a := ((TierFrame.refl s).regAdd (regShelf (st / 3)) k)
  unfold Dev.shelfRead
  dsimp only
  split
  · split
    · exact (TierFrame.ite ((a.count ..).count ..) (a.count ..)).setShelf ..
    · exact (a.count ..).shelfPut ..
  · have b := (a.count (shelfKey (st / 3)) 1 1)
    have c := b.trans (Dev.stcRead_frame _ k st ln)
    split
    · next h => rw [h] at c; exact c
    · next h =>
      rw [h] at c
      split
      · exact c.trans (Dev.shelfFill_frame ..)
      · exact c

/-- Writing a line or part of one through the Shelf (R313, R314). -/
theorem Dev.shelfWrite_frame (s : Dev) (k : Nat) (r : Region) (st ln hint off : Nat) (v : List Byte) :
    TierFrame s (s.shelfWrite k r st ln hint off v).2 := by
  have a := ((TierFrame.refl s).regAdd (regShelf (st / 3)) k)
  unfold Dev.shelfWrite
  dsimp only
  split
  · exact (TierFrame.ite (a.count ..) ((a.count ..).stcWrite ..)).shelfPut ..
  · have b := a.count (shelfKey (st / 3)) 1 1
    have c : TierFrame s (if (v.length == 64) = true then (some v, (s.regAdd (regShelf (st / 3)) k).count (shelfKey (st / 3)) 1 1)
        else ((s.regAdd (regShelf (st / 3)) k).count (shelfKey (st / 3)) 1 1).stcRead k st ln : Option (List Byte) × Dev).2 := by
      split
      · exact b
      · exact b.trans (Dev.stcRead_frame ..)
    split
    · next g => rw [g] at c; exact c
    · next x t g =>
      rw [g] at c
      dsimp only at c
      split
      · exact c.stcWrite ..
      · have e := c.trans (Dev.shelfFill_frame t (st / 3) { line := shelfLineKey st ln, stall := k, region := r.num, kept := hint == 2, dirty := true, data := splice x off v })
        split
        · next q => rw [q] at e; exact e
        · next q => rw [q] at e; exact e.stcWrite ..

/-- A line at a location: read, and written. -/
theorem Dev.locRead_frame (s : Dev) (k : Nat) (r : Region) (l : Loc) (hint : Nat) : TierFrame s (s.locRead k r l hint).2 := by
  cases l with
  | store st a => exact Dev.shelfRead_frame ..
  | cellar p a =>
    have b := ((TierFrame.refl s).regAdd (regCellar p) k).count (celKey p) 0 1
    simp only [Dev.locRead, Dev.celRead]
    split
    · exact b.count ..
    · exact b
theorem Dev.locWrite_frame (s : Dev) (k : Nat) (r : Region) (l : Loc) (hint off : Nat) (v : List Byte) :
    TierFrame s (s.locWrite k r l hint off v).2 := by
  cases l with
  | store st a => exact Dev.shelfWrite_frame ..
  | cellar p a =>
    have b := (TierFrame.refl s).regAdd (regCellar p) k
    simp only [Dev.locWrite, Dev.celWrite]
    split
    · exact (b.count ..).count ..
    · refine (b.count (celKey p) 1 1).trans ⟨⟨_, _, _, rfl⟩, fun w => ?_⟩
      simp only [Memory.wf, Bool.and_eq_true] at *
      exact ⟨w.1, twf_tsetRange _ _ _ _ w.2⟩
theorem TierFrame.lineTraffic {s d : Dev} (h : TierFrame s d) (k : Nat) (src : Option Nat) (l : Loc) (w : Bool) : TierFrame s (d.lineTraffic k src l w) := by
  unfold Dev.lineTraffic
  split
  · exact (TierFrame.ite (h.ringToken ..) (h.ringToken ..)).accept ..
  · exact h.accept ..
  · exact h

/-- The state that an answer leaves, where it leaves one. -/
def TRes.dev {α : Type} : TRes α → Option Dev
  | .ok _ d => some d
  | .bad _ _ d => some d
  | .wait _ => none

/-- Everything a read of the tiers can do (R300 to R302, R313, R322): looms, hub and messages stay, and bytes stay in canonical form. -/
theorem Dev.tierRead_frame (s d : Dev) (k : Nat) (src hint : Option Nat) (va n : Nat) (h : (s.tierRead k src hint va n).dev = some d) : TierFrame s d := by
  unfold Dev.tierRead at h
  generalize piecesOf va n = ps at h
  generalize ([] : List Byte) = acc at h
  suffices g : ∀ (ps : List (Nat × Nat)) (t : Dev) (acc : List Byte), TierFrame s t → (t.tierReadP k src hint ps acc).dev = some d → TierFrame s d from
    g ps s acc (.refl s) h
  intro ps
  induction ps with
  | nil => intro t acc a e; cases e; exact a
  | cons p ps ih =>
    intro t acc a e
    obtain ⟨va, n⟩ := p
    simp only [Dev.tierReadP] at e
    split at e
    · cases e; exact a
    · cases e; exact a
    · cases e
    · next r _ _ l _ =>
      have c := a.trans (Dev.locRead_frame t k r l (hintOf r hint))
      split at e
      · next q => rw [q] at c; cases e; exact c
      · next q => rw [q] at c; exact ih _ _ (c.lineTraffic ..) e

/-- Everything a write of the tiers can do (R302, R303, R313, R382), in the same terms. -/
theorem Dev.tierWrite_frame (s d : Dev) (k : Nat) (src hint : Option Nat) (host : Bool) (va : Nat) (v : List Byte)
    (h : (s.tierWrite k src hint host va v).dev = some d) : TierFrame s d := by
  unfold Dev.tierWrite at h
  generalize piecesOf va v.length = ps at h
  suffices g : ∀ (ps : List (Nat × Nat)) (t : Dev) (v : List Byte), TierFrame s t → (t.tierWriteP k src hint host ps v).dev = some d → TierFrame s d from
    g ps s v (.refl s) h
  intro ps
  induction ps with
  | nil => intro t v a e; cases e; exact a
  | cons p ps ih =>
    intro t v a e
    obtain ⟨va, n⟩ := p
    simp only [Dev.tierWriteP] at e
    split at e
    · cases e; exact a
    · cases e; exact a
    · cases e
    · next r b g loc _ =>
      split at e
      · cases e; exact a
      · split at e
        · cases e
        · have c := a.trans (Dev.locWrite_frame t k r loc (hintOf r hint) (va % 64) (v.take n))
          split at e
          · next q => rw [q] at c; cases e; exact c
          · next q => rw [q] at c; exact ih _ _ ((c.markWrite ..).lineTraffic ..) e

end Sys2Proof.Machine
end

