-- ==== Sys2Proof/WellFormed.lean ====
section
/-!
DEFINITION. Which commands can be sent: sizes and ranges of operands that their types do not fix.
-/
namespace Sys2Proof

/-- A dump's parts (R441): 35 registers, 64 program-counter values, 1,024 bytes of stack. -/
def CrashInfo.wf (d : CrashInfo) : Bool := d.regs.length == 35 && d.trace.length == 64 && d.stack.length == 1024

/-- Bytes of a line, where a command carries one (R11). -/
def lineWf (d : Option (List Byte)) : Bool := match d with
  | some b => b.length == 64
  | none => true

def LineEcc.wf : LineEcc → Bool
  | .escaped b => b.length == 64
  | _ => true

/-- A BAR4 access: 1 to 4,096 bytes within the window (R442, R444). -/
def winWf (off n : Nat) : Bool := decide (1 ≤ n) && decide (n ≤ 4096) && decide (off + n ≤ 2 ^ 32)

/-- A command of R402 or R467 as it can stand in a command window. -/
def commandWf (c : List Byte) (window : Nat) : Bool := decide (c.length ≤ window)

/-- Every operand has a size and a range that the hardware can carry. -/
def Instr.wf : Instr → Bool
  | .bar0AccessError _ bar _ off size => (match bar with
    | .bar0 => decide (off.toNat + size ≤ 2 ^ 26)
    | .bar2 => decide (off.toNat + size ≤ 2 ^ 21)) && decide (1 ≤ size) && decide (size ≤ 4096)
  | .slotClaim _ port .. => port != .feeders && port != .warp
  | .tileReadComplete _ port .. => port != .drain
  | .weftBeatAccept _ takes => decide (takes.length ≤ 256)
  | .quarterFill _ _ _ data => data.length == 2048
  | .lineReduce _ va _ _ contrib => va.toNat % 64 == 0 && contrib.1.length == 32 && contrib.2.wf
  | .linePartialWrite _ va data => data.2.wf && decide (1 ≤ data.1.length) && decide (va.toNat % 64 + data.1.length ≤ 64)
  | .storeLineAccess _ va data ecc => va.toNat % 64 == 0 && lineWf data && ecc.wf
  | .shelfAccess _ va _ data _ => va.toNat % 64 == 0 && lineWf data
  | .scrubLine _ ecc _ => ecc.wf
  | .bar4Write _ off data => winWf off.toNat data.1.length && data.2.wf
  | .bar4Read _ off n => winWf off.toNat n.1 && n.2.wf
  | .bar4ReadTimeout _ off n _ => winWf off.toNat n
  | .fwWatchdogExpire _ _ d => d.wf
  | .fwTrap _ _ d => d.wf
  | .fwHandoverReady _ _ body failed => decide (body.length ≤ 65472) && (match failed with
    | some d => d.wf
    | none => true)
  | .powerLoopPeriod _ _ clus dies => clus.length == 96 && dies.length == 8
  | .linkFrameRx _ _ bytes => bytes.length == 528
  | .presentOperator c => commandWf c 8192
  | .fuseOperator c => commandWf c 8192
  | .enrollStall c => commandWf c 8192
  | .removeStall c => commandWf c 8192
  | .raiseFloor c => commandWf c 8192
  | .testUnlock c => commandWf c 8192
  | .meter _ c => commandWf c 4096
  | .updateComponent _ _ data => decide (data.length ≤ 4194304)
  | .phyTraining _ ports cap => cap.length == ports.length
  | .senseReply src _ _ charges _ => charges.length == (if src.val = 8 then 1 else 16)
  | .verificationKeyEnrol key => key.length == 1312
  | _ => true

end Sys2Proof
end

