-- ==== Sys2Proof/Tests/Slice0.lean ====
section
/-!
SUPPORT. Tests: ill-formed commands, values that the spec works out, and for every statement states and operands that meet its
hypotheses (theorems wit_…).
-/
namespace Sys2Proof.Tests
set_option Elab.async false
open Sys2Proof Sys2Proof.Machine

/-! ### Ill-formed commands are refused, one for each check -/

theorem test_wf_accessOff : Instr.wf (.bar0AccessError 0 .bar0 true 0x3FFFFFF 2) = false := by decide
theorem test_wf_accessOff2 : Instr.wf (.bar0AccessError 0 .bar2 true 0x1FFFFF 4) = false := by decide
theorem test_wf_accessNone : Instr.wf (.bar0AccessError 0 .bar0 true 0 0) = false := by decide
theorem test_wf_accessSize : Instr.wf (.bar0AccessError 0 .bar0 true 0 4097) = false := by decide
theorem test_wf_claimPort : Instr.wf (.slotClaim 0 .warp 0 1 0) = false := by decide
theorem test_wf_readPort : Instr.wf (.tileReadComplete 0 .drain 0 .clean) = false := by decide
theorem test_wf_takes : Instr.wf (.weftBeatAccept 0 (List.replicate 257 (0, 0))) = false := by decide +kernel
theorem test_wf_quarter : Instr.wf (.quarterFill 0 0 0 []) = false := by decide
theorem test_wf_reduceLine : Instr.wf (.lineReduce 0 32 .sum true (List.replicate 32 0, .clean)) = false := by decide
theorem test_wf_reduceLen : Instr.wf (.lineReduce 0 64 .sum true (List.replicate 31 0, .clean)) = false := by decide
theorem test_wf_reduceEcc : Instr.wf (.lineReduce 0 64 .sum true (List.replicate 32 0, .escaped [])) = false := by decide
theorem test_wf_partialNone : Instr.wf (.linePartialWrite 0 0 ([], .clean)) = false := by decide
theorem test_wf_partialLong : Instr.wf (.linePartialWrite 0 63 ([0, 0], .clean)) = false := by decide
theorem test_wf_storeLine : Instr.wf (.storeLineAccess 0 1 none .clean) = false := by decide
theorem test_wf_storeData : Instr.wf (.storeLineAccess 0 0 (some [0]) .clean) = false := by decide
theorem test_wf_storeEcc : Instr.wf (.storeLineAccess 0 0 none (.escaped [0])) = false := by decide
theorem test_wf_shelfLine : Instr.wf (.shelfAccess 0 1 0 none .clean) = false := by decide
theorem test_wf_shelfData : Instr.wf (.shelfAccess 0 0 0 (some []) .clean) = false := by decide
theorem test_wf_scrub : Instr.wf (.scrubLine 0 (.escaped []) 0) = false := by decide
theorem test_wf_bar4Write : Instr.wf (.bar4Write 0 0xFFFFFFFF ([0, 0], .clean)) = false := by decide
theorem test_wf_bar4Read : Instr.wf (.bar4Read 0 0 (0, .clean)) = false := by decide
theorem test_wf_bar4Timeout : Instr.wf (.bar4ReadTimeout 0 0 4097 0) = false := by decide
theorem test_wf_dumpRegs : Instr.wf (.fwTrap .power 0 { regs := [], trace := List.replicate 64 0, stack := List.replicate 1024 0 }) = false := by decide
theorem test_wf_dumpTrace : Instr.wf (.fwWatchdogExpire .power 0 { regs := List.replicate 35 0, trace := [], stack := List.replicate 1024 0 }) = false := by decide
theorem test_wf_dumpStack : Instr.wf (.fwTrap .power 0 { regs := List.replicate 35 0, trace := List.replicate 64 0, stack := [] }) = false := by decide
theorem test_wf_handover : Instr.wf (.fwHandoverReady .power 0 [] (some { regs := [], trace := [], stack := [] })) = false := by decide
theorem test_wf_handoverBody (b : List Byte) (h : 65472 < b.length) : Instr.wf (.fwHandoverReady .power 0 b none) = false := by
  simp [Instr.wf]; omega
theorem test_wf_loopClus : Instr.wf (.powerLoopPeriod 0 0 [] (List.replicate 8 0)) = false := by decide
theorem test_wf_loopDies : Instr.wf (.powerLoopPeriod 0 0 (List.replicate 96 0) []) = false := by decide
theorem test_wf_frame : Instr.wf (.linkFrameRx 0 .uncorrectable []) = false := by decide
theorem test_wf_secCommand (b : List Byte) (h : 8192 < b.length) : Instr.wf (.presentOperator b) = false := by simp [Instr.wf, commandWf]; omega
theorem test_wf_fuse (b : List Byte) (h : 8192 < b.length) : Instr.wf (.fuseOperator b) = false := by simp [Instr.wf, commandWf]; omega
theorem test_wf_enrollStall (b : List Byte) (h : 8192 < b.length) : Instr.wf (.enrollStall b) = false := by simp [Instr.wf, commandWf]; omega
theorem test_wf_removeStall (b : List Byte) (h : 8192 < b.length) : Instr.wf (.removeStall b) = false := by simp [Instr.wf, commandWf]; omega
theorem test_wf_raiseFloor (b : List Byte) (h : 8192 < b.length) : Instr.wf (.raiseFloor b) = false := by simp [Instr.wf, commandWf]; omega
theorem test_wf_testUnlock (b : List Byte) (h : 8192 < b.length) : Instr.wf (.testUnlock b) = false := by simp [Instr.wf, commandWf]; omega
theorem test_wf_meter (b : List Byte) (h : 4096 < b.length) : Instr.wf (.meter .i3c b) = false := by simp [Instr.wf, commandWf]; omega
theorem test_wf_component (b : List Byte) (h : 4194304 < b.length) : Instr.wf (.updateComponent .i3c 1 b) = false := by simp [Instr.wf]; omega
theorem test_wf_phy : Instr.wf (.phyTraining [] [(0, true)] []) = false := by decide
theorem test_wf_sense8 : Instr.wf (.senseReply 8 0 true [] 0) = false := by decide
theorem test_wf_sense : Instr.wf (.senseReply 0 0 true [0] 0) = false := by decide
theorem test_wf_verKey : Instr.wf (.verificationKeyEnrol []) = false := by decide

/-! ### Values that the spec works out -/

/-- R456: a completion of station 5 in step 1,000 with status 0. -/
theorem test_completionEntry : cplEntry 5 ⟨1000, 0, 0⟩ = 0x80000014000003E8 := by decide

/-- R400's example: stall 0 and stall 1, in units in which their energies are 403 and 261. -/
theorem test_apportion :
    let a (i : Nat) : Nat := if i = 0 then 403 else if i = 1 then 261 else 0
    (apportion 10440000000000 a).take 2 = [6336325301205, 4103674698795] := by decide +kernel

/-- R345's example: the module at (5, 0, 3, 2, 7, 0). -/
def wAxes : AxesRec :=
  { deviceId := 59589,
    axes := [{ extent := 64, coord := 5, wrap := true, portPlus := 0, portMinus := 1 }, { extent := 1 },
             { extent := 16, coord := 3, wrap := true, portPlus := 2, portMinus := 3 }, { extent := 8, coord := 2, wrap := true, portPlus := 4, portMinus := 5 },
             { extent := 8, coord := 7, wrap := true, portPlus := 6, portMinus := 7 }, { extent := 1 }] }

theorem test_coordsOfDevice : wAxes.coordsOf 59589 = [5, 0, 3, 2, 7, 0] := by decide +kernel

/-- R380: the inverse in GF(2^8), and a data member rebuilt from the parity of a quire of 2 + 1. -/
theorem test_gfInv : [2, 0x8E, 255].all (fun a => gfMul a (gfInv a) == 1) = true := by decide +kernel
theorem test_gfRebuild :
    let d0 : List Byte := [1, 2, 0xFF]
    let d1 : List Byte := [7, 0x80, 3]
    (gfWeights 2 1 0 [1, 2]).map (fun ws => gfMix 3 ws [d1, gfMix 3 [gfCoef 1 0 0, gfCoef 1 0 1] [d0, d1]]) = some d0 := by decide +kernel

/-- R306, interleave mode 0: 256-byte chunks over the 24 stacks. -/
theorem test_interleave0 (r : Region) (h : r.interleave = 0) : storeAddr r 0 ⟨100, 0⟩ (256 * 25 + 3) = (1, 2097152 * 100 + 256 + 3) := by
  simp [storeAddr, h, frameSz]

/-- R192: five stretches one way are three the other; four are taken clockwise. -/
theorem test_ringWay : ringHops 0 5 = [(0, false), (7, false), (6, false)] ∧ (ringHops 0 4).map (·.2) = [true, true, true, true] := by decide

/-- A wave's number wraps past 0 (R45). -/
theorem test_waveWraps : nextWave 0xFFFFFFFF = 1 := by decide

/-- FP16 as R55 encodes it: 0x3C00 is 1, 0xC000 is −2, 0x7C00 is infinite, 0x0001 is 2^−24. -/
theorem test_fp16 : Fmt.value .fp16 false 0x3C00 = .one ∧ Fmt.value .fp16 false 0xC000 = .fin true 2 ∧
    Fmt.value .fp16 false 0x0001 = .fin false (1 / 16777216) := by decide +kernel

/-! ### Small states -/

def wRec : StallRec :=
  { stall := 0, reqSig := false, stage := 1, clusters := 1, hopFirst := 0, hopCount := 16, shelf := 0, store := 4, cellar := 4,
    wStore := 1, wShelf := 1, wRing := 1, wLink := 1, keyId := 0 }

/-- The four words that define a descriptor, with a row stride of 1. -/
def wDesc (t fmt kind base depth ch : Nat) : List Nat :=
  let w (part body : Nat) : Nat := (0x10 + part) * 2 ^ 56 + t * 2 ^ 52 + body
  [w 0 (fmt * 2 ^ 48 + kind * 2 ^ 22 + base * 2 ^ 13 + depth * 16 + ch), w 1 0, w 2 (63 * 2 ^ 18 + 63 * 2 ^ 12), w 3 (2 ^ 39)]

/-- A word of an opcode. -/
def wOp (o body : Nat) : Nat := o * 2 ^ 56 + body

/-- Region 1, one block in Store at interleave 2, writable, at VA 0x200000; region 2 the same in Cellar. -/
def wReg : Region :=
  { num := 1, cellar := false, interleave := 2, die := 0, write := true, migrate := true, spill := true, hint := 1, va := 2097152, len := 2097152 }
def wCel : Region := { wReg with num := 2, cellar := true, va := 2 * 2097152, spill := false }

def wPlan (role : Nat) (draft : List Nat) : StallPlan :=
  { stations := [{ num := 0, role := role, looms := [0], runHop := 1, cplHop := some 2, draft := draft }], regions := [wReg, wCel] }

/-- A module in RUN with every processor running, and stall 0 loaded on cluster 0. -/
def wBase (p : StallPlan) : Dev :=
  { power := { state := .run }, fw := { released := List.range 112 },
    hub := { linkUp := true, devPlan := some { stalls := [wRec] } },
    mem := { celMode := 2, celPorts := 15, celCap := 0x1000000, celState := (List.range 4).map (fun p => (p, .inService)),
             stks := (List.range 24).map (fun k => (k, { state := .inService })) },
    stalls := [(0, { plan := some p, blk := { state := .loaded }, groups := [(1, some { axis := 255, epoch := 5, members := [(0, 0)] })],
                     blocks := [(blockKey 1 0, { home := some ⟨30, 0⟩ }), (blockKey 2 0, { home := some ⟨0, 0⟩ })] })] }

/-- The same with loom 0 running its station's draft at a word. -/
def wLoom (role : Nat) (draft : List Nat) (pc : Nat) (x : LoomSt) : Dev :=
  { wBase (wPlan role draft) with looms := [(0, { x with station := some 0, role := role, draft := draft, running := true, pc := pc })] }

def wTag : Tag := mkTag { row := 0, col := 0, plane := 0, extR := 63, extC := 63, fmt := 0, scale := 0, stall := 0, epoch := 0 }
def wFull : Slot := { state := .full, quarters := 15, tagWritten := true, setReaders := 1, readers := 1, tag := wTag }

/-- A tier access that succeeds with a result. -/
def okAnd {α : Type} (r : TRes α) (p : α → Dev → Bool) : Bool := match r with
  | .ok a s => p a s
  | _ => false

/-- What a success means. -/
theorem okAnd_iff {α : Type} (r : TRes α) (p : α → Dev → Bool) : okAnd r p = true ↔ ∃ a s, r = .ok a s ∧ p a s = true := by
  cases r with
  | ok a s => exact ⟨fun h => ⟨a, s, rfl, h⟩, fun ⟨_, _, e, h⟩ => by cases e; exact h⟩
  | bad va kind s => exact ⟨(fun h => nomatch h), (fun ⟨_, _, e, _⟩ => nomatch e)⟩
  | wait c => exact ⟨(fun h => nomatch h), (fun ⟨_, _, e, _⟩ => nomatch e)⟩

/-! ### Witnesses: tally, array, Bench, runs -/

def wRun : Dev := wBase (wPlan 0 [])
def wState (d : Dev) : State := { toDev := d }

theorem wit_linkUp : wRun.hub.linkUp = true := by decide

theorem wit_TallyWaveBegins :
    let s : Dev := { wRun with tally := { pendPf := true } }
    s.tally.enable = true ∧ s.tally.busy = false ∧ s.coreUp 2 = true ∧ s.tally.pendPf = true ∧ max s.tally.gap.toNat 10 ≤ 1000 := by decide +kernel

theorem wit_TallySnapshotIsTaken :
    let s : Dev := { wRun with tally := { busy := true, injected := 7 }, units := [(unitKey .hopper, { ctlMarker := true }), (0, { ctlMarker := true })] }
    s.tally.busy = true ∧ (s.unit (unitKey .hopper)).ctlMarker = true ∧ (s.unit (unitKey (.loom 0))).ctlMarker = true ∧ (s.loom 0).live = true ∧
    s.tally.injected.toNat % 2 = 1 ∧ ({ s with tally := { busy := true, injected := 8 } } : Dev).tally.injected.toNat % 2 = 0 := by decide +kernel

theorem wit_TallyReportIsTaken :
    let all := sharedKeys.filter (· != hubKey)
    let s : Dev := { wRun with tally := { busy := true, injected := 7, reported := all }, units := [(hubKey, { snap := 7 })] }
    s.tally.busy = true ∧ (s.unit (unitKey .hopper)).snap = s.tally.injected ∧ s.tally.reported.contains (unitKey .hopper) = false ∧
    2000 ≤ unitKey .hopper ∧ sharedKeys.all (fun k => (sinsert hubKey all).contains k) = true := by decide +kernel

theorem wit_TallyReportIsTaken_looms :
    let s : Dev := { wRun with tally := { busy := true, injected := 7, members := [(0, 11)], loose := [95], participants := [0], reported := sharedKeys },
                               units := [(11, { snap := 7 }), (1151, { snap := 7 })] }
    (s.unit (unitKey (.loom 11))).snap = s.tally.injected ∧ s.tally.members.any (fun m => m.2 == unitKey (.loom 11)) = true ∧
    s.tally.looseUnit (unitKey (.loom 1151)) = true ∧ s.tally.reported.contains (unitKey (.loom 11)) = false ∧
    s.tally.reported.contains (unitKey (.loom 1151)) = false ∧
    s.tally.participants.all (fun k => TallySt.stallComplete { s.tally with reported := sinsert 11 sharedKeys } k) = true := by decide +kernel

theorem wit_TallyAbandonment :
    let s : Dev := { wRun with tally := { busy := true, injected := 7, timeoutNow := 10000 } }
    s.tally.busy = true ∧ s.tally.timeoutNow ≤ 10000 := by decide

/-- MM with TA 1, TB 2, TC 3 (channels for TC's ring none), one K-block. -/
def wMm : Nat := wOp 0x20 (1 * 2 ^ 52 + 2 * 2 ^ 48 + 3 * 2 ^ 44 + 1 * 2 ^ 25)
def wMmDraft : List Nat := [wOp 0x04 (2 ^ 52)] ++ wDesc 1 0 0 0 1 0 ++ wDesc 2 0 0 1 1 0 ++ wDesc 3 0 0 2 1 0 ++ [wMm, wOp 0x03 0]
def wSmp : Sample := { op := 13, word := BitVec.ofNat 64 wMm }
def wArr (j : ArrJob) (x : LoomSt) : Dev :=
  wLoom 1 wMmDraft 14 { x with slots := [(0, wFull), (1, wFull)], arr := some j }

theorem wit_ArrayTakesAndRetires_feed :
    let s := wArr { smp := wSmp } {}
    ((s.ctx 0).any fun c => (s.loom 0).live && ((s.loom 0).arr).any fun j => (mmGeo c j.smp.w).any fun g =>
      let t := tget 0 j.fed 3
      let slot := feedSlot c s g j 3 t
      decide (t < g.beats) && decide ((tget [] j.win 3).length < 16) && quartersReady ((s.loom 0).slot slot) (g.k0 3 (t % g.bpc)) g.qk &&
        !spent (s.loom 0) slot (feedBehind c s g j 3 t) && tagCheckCause c.stall ((s.loom 0).slot slot).tag == none) = true := by decide +kernel

theorem wit_ArrayTakesAndRetires_fill :
    let s := wArr { smp := wSmp, filled := 255 } {}
    ((s.ctx 0).any fun c => ((s.loom 0).arr).any fun j => (mmGeo c j.smp.w).any fun g =>
      let slot := ringSlot g.da (c.at_ s g.da j.smp 0 (g.kcol 0 3) 0)
      let v := (s.loom 0).slot slot
      decide (j.filled / 256 < g.kb) && (tget none j.shadow 255).isNone && quartersReady v (g.k0 3 0) g.qk &&
        (g.cls != 3 || quartersReady v (g.k0 3 1) g.qk) && !spent (s.loom 0) slot 0 && tagCheckCause c.stall v.tag == none) = true := by decide +kernel

def wVec : QVec := { beat := 0, codes := [], scales := [], inside := [], tag := wTag }

theorem wit_ArrayTakesAndRetires_swap :
    let s := wArr { smp := wSmp, filled := 256, shadow := [(255, some wVec)] } {}
    ((s.ctx 0).any fun c => ((s.loom 0).arr).any fun j => (mmGeo c j.smp.w).any fun g =>
      decide (tget 0 j.warpKb 255 < g.kb) && tget 0 j.taken 255 == tget 0 j.warpKb 255 * g.perKb && tget none j.shadow 255 == some wVec &&
        decide (g.kb ≤ j.filled / 256)) = true := by decide +kernel

theorem wit_ArrayTakesAndRetires_take :
    let s := wArr { smp := wSmp, warpKb := [(255, 1)], win := [(3, [wVec])] } {}
    ((s.ctx 0).any fun c => ((s.loom 0).arr).any fun j => (mmGeo c j.smp.w).any fun g =>
      decide (tget 0 j.taken 255 < tget 0 j.warpKb 255 * g.perKb) && decide ((tget [] j.qsum 255).length < 16) &&
        ((tget [] j.win 3).find? (fun v => v.beat == tget 0 j.taken 255)).isSome) = true := by decide +kernel

theorem wit_ArrayTakesAndRetires_retire :
    let s := wArr { smp := wSmp, taken := (List.range 256).map (fun i => (i, 1)) } {}
    ((s.ctx 0).any fun c => ((s.loom 0).arr).any fun j => (mmGeo c j.smp.w).isSome &&
      (List.range 256).all (fun rq => decide (j.retired < tget 0 j.taken rq))) = true := by decide +kernel

theorem wit_ResultsAreCollected :
    let s := wArr { smp := wSmp, drain := [(63, [(0, none)])], collected := [(63, 64)] } {}
    ((s.ctx 0).any fun c => ((s.loom 0).arr).any fun j => (mmGeo c j.smp.w).isSome && (tget [] j.drain 63).length == 1 &&
      decide (tget 0 j.collected 63 / 64 < j.converted + 2)) = true := by decide +kernel

theorem wit_ResultsAreConverted :
    let s := wArr { smp := wSmp, collected := (List.range 64).map (fun i => (i, 64)) } {}
    ((s.ctx 0).any fun c => ((s.loom 0).arr).any fun j => (mmGeo c j.smp.w).any fun g =>
      let x := s.loom 0
      let conv := j.converted + cvtTiles x j
      (List.range 64).all (fun r => decide (64 * conv ≤ tget 0 j.collected r)) && rdSlots c.stall x (cvtTy c s g j) == .ready &&
        wrSlots x 2 [ringSlot g.dc (cvtCoord c s g j)] == .ready && !(cvtTy c s g j).contains (ringSlot g.dc (cvtCoord c s g j)) &&
        64 * conv == g.span) = true := by decide +kernel

theorem wit_MatrixOperationStarts :
    let s := wLoom 1 wMmDraft 13 {}
    ((s.ctx 0).any fun c => (s.loom 0).word == some wMm && opc wMm == 0x20 && !mmPre wMm && decide (wMm < 2 ^ 64) && (mmGeo c wMm).any fun g =>
      !(s.loom 0).arrBusy && (s.loom 0).arrNext.isNone && rdSlots c.stall (s.loom 0) (mmPres c s (sampleOf (s.loom 0)) wMm g) == .ready) = true := by
  decide +kernel

theorem wit_MatrixOperationStarts_next :
    let s := wLoom 1 wMmDraft 14 { arrNext := some wSmp }
    ((s.ctx 0).any fun c => (s.loom 0).live && opc wSmp.w == 0x20 && (mmGeo c wSmp.w).any fun g =>
      !(s.loom 0).arrBusy && rdSlots c.stall (s.loom 0) (mmPres c s wSmp wSmp.w g) == .ready) = true := by decide +kernel

theorem wit_MatrixOperationStarts_busy :
    let s := wLoom 1 wMmDraft 13 { arr := some { smp := wSmp } }
    (s.ctx 0).isSome && (s.loom 0).word == some wMm && opc wMm == 0x20 && (s.loom 0).arrBusy && (s.loom 0).arrNext.isNone := by decide +kernel

theorem wit_BenchSlotEvents :
    let filling : Slot := { state := .filling, quarters := 7, tagWritten := true, setReaders := 255 }
    let x : LoomSt := { slots := [(0, { state := .raw }), (1, filling), (510, { wFull with readers := 2 }), (511, { wFull with state := .pinned })],
                        rdDone := [510, 511] }
    x.live = true ∧ (x.slot 5).state = .empty ∧ (x.slot 0).state = .raw ∧ (x.slot 1).state ≠ .empty ∧ (x.slot 1).state ≠ .raw ∧
    (x.slot 1).state = .filling ∧ (x.slot 1).quarters.getLsbD 3 = false ∧ (List.replicate 2048 (0 : Byte)).length = 2048 ∧ (x.slot 1).tagWritten = true ∧
    setBit (x.slot 1).quarters 3 = 15 ∧ x.rdDone.contains 510 = true ∧ x.rdDone.contains 511 = true ∧ (x.slot 510).state = .full ∧ (x.slot 511).state = .pinned := by
  decide +kernel

theorem wit_ExceptionRecordIsCleared :
    let s := wLoom 1 wMmDraft 13 { excIrq := true, exc := { valid := true, seq := 255 } }
    s.hub.linkUp = true ∧ s.fnReaches 1 0 = true ∧ s.fnReaches 0 0 = true ∧ (s.loom 0).exc.seq = 255 ∧ (s.loom 0).excIrq = true ∧ s.coreUp 16 = true ∧
    s.coreUp 3 = true ∧ s.power.nvInh = false ∧ (s.loom 0).excCopied = none := by decide +kernel

theorem wit_ExceptionRecordIsCleared_copied :
    let s (q : Byte) := wLoom 1 wMmDraft 13 { exc := { valid := true, seq := 255 }, excCopied := some q }
    ((s 254).coreUp 16 = true ∧ ((s 254).loom 0).excCopied = some 254 ∧ ((s 254).loom 0).excOwner = false ∧ ((s 254).loom 0).exc.seq ≠ 254) ∧
    ((s 255).coreUp 16 = true ∧ ((s 255).loom 0).excCopied = some ((s 255).loom 0).exc.seq ∧ ((s 255).loom 0).excOwner = false) := by decide +kernel

def wIdle (st : StationSt) (hop : List W64) : Dev :=
  let s := wLoom 1 wMmDraft 0 {}
  { s with looms := [(0, { s.loom 0 with running := false })], stalls := [(0, { s.stall 0 with stations := [(0, st)] })],
           hub := { s.hub with hoppers := [(1, hop)] } }

theorem wit_RunsBegin :
    let s := wIdle {} [5]
    (((s.stall 0).plan).any fun p =>
      let ts := p.stations.filter (fun t => t.runHop == 1)
      s.hopOf 0 1 == some 1 && s.hopper 1 == [5] && decide ((s.stall 0).blk.state = .loaded) && s.coreUp 2 &&
        ts.all (fun t => !(tget {} (s.stall 0).hopCur 1).left.contains t.num) && ts.any (fun t => s.stationReady 0 t)) = true := by decide +kernel

theorem wit_RunsBegin_left :
    let s0 := wIdle {} []
    let s := { s0 with stalls := [(0, { s0.stall 0 with hopCur := [(1, { entry := 5, left := [0] })] })] }
    (((s.stall 0).plan).any fun p =>
      let ts := p.stations.filter (fun t => t.runHop == 1)
      s.hopOf 0 1 == some 1 && decide ((s.stall 0).blk.state = .loaded) && s.coreUp 2 &&
        ts.any (fun t => (tget {} (s.stall 0).hopCur 1).left.contains t.num && s.stationReady 0 t)) = true := by decide +kernel

theorem wit_RunsEnd :
    let s := wIdle { runs := [{ seq := 0, step := 1, version := 0, ended := [0] }], nextSeq := 1 } []
    (((s.stall 0).plan).any fun p => (p.station 0).any fun t => t.num == 0 &&
      t.looms.all (fun l => [0].contains l && !(s.loom l).busyFor 0)) = true := by decide +kernel

theorem wit_CompletionsArePosted :
    let s := wIdle { held := [⟨1000, 0, 0⟩] } []
    (((s.stall 0).plan).any fun p => (p.station 0).any fun t => t.cplHop.bind (s.hopOf 0) == some 2 && s.coreUp 2 &&
      decide ((s.hopper 2).length < 8) && decide (((s.stall 0).station 0).held = [⟨1000, 0, 0⟩]) &&
      p.stations.all (fun u => ((s.stall 0).station u.num).held.all (fun q => decide (0 ≤ q.seq)))) = true := by decide +kernel

theorem wit_StructuralWords :
    let loop := wOp 0x01 (3 * 2 ^ 53 + 2 * 2 ^ 24)
    let d := [wOp 0x04 0, loop, wOp 0x02 0, wOp 0x03 0]
    let f : LoopFrame := { ctr := 3, val := 0, count := 2, at_ := 1 }
    (((wLoom 1 d 1 {}).loom 0).word = some loop ∧ opc loop = 0x01) ∧
    (((wLoom 1 d 2 { loops := [f] }).loom 0).word = some (wOp 0x02 0) ∧ opc (wOp 0x02 0) = 0x02 ∧ f.val + 1 < f.count) ∧
    ({ f with val := 1 } : LoopFrame).count ≤ ({ f with val := 1 } : LoopFrame).val + 1 ∧
    (((wLoom 1 d 3 {}).loom 0).word = some (wOp 0x03 0) ∧ opc (wOp 0x03 0) = 0x03 ∧ (wLoom 1 d 3 {}).loomStall 0 = some 0 ∧
      ((wLoom 1 d 3 {}).loom 0).station = some 0) := by decide +kernel

/-- A FUL word of a function: TX 1, TY 2, TZ 3. -/
def wFul (fn : Nat) : Nat := wOp 0x30 (fn * 2 ^ 50 + 1 * 2 ^ 45 + 2 * 2 ^ 41 + 3 * 2 ^ 37)
def wFulDev (fn : Nat) (x : LoomSt) : Dev :=
  wLoom 2 ([wOp 0x04 (2 * 2 ^ 52)] ++ wDesc 1 0 0 0 1 0 ++ wDesc 2 0 0 1 1 0 ++ wDesc 3 0 0 2 1 0 ++ [wFul fn, wOp 0x03 0]) 13 x

def fulReady (s : Dev) (want : RdCheck) (fn : Nat) : Bool :=
  (s.ctx 0).any fun c => (s.loom 0).word == some (wFul fn) && opc (wFul fn) == 0x30 && fulFN (wFul fn) == fn &&
    (c.st.desc (fulTX (wFul fn))).any fun dx => (c.st.desc (fulTZ (wFul fn))).any fun dz =>
      let p := sampleOf (s.loom 0)
      let reads := fulXs c s p (wFul fn) dx ++ fulYs fn c s p (wFul fn) dx
      let zs := fulZs fn c s p (wFul fn) dz
      (s.loom 0).ful.isNone && rdSlots c.stall (s.loom 0) reads == want &&
        (want != .ready || (decide (fulXs c s p (wFul fn) dx).Nodup && wrSlots (s.loom 0) 3 zs == .ready && decide zs.Nodup && zs.all (fun z => !reads.contains z)))

theorem wit_FullerWords_ready : (List.range 20).all (fun fn => fulReady (wFulDev fn { slots := [(0, wFull), (1, wFull)] }) .ready fn) = true := by decide +kernel
theorem wit_FullerWords_glu : fulReady (wFulDev 0x14 { slots := [(0, wFull), (1, wFull)] }) .ready 0x14 = true := by decide +kernel
theorem wit_FullerWords_transpose : fulReady (wFulDev 0x15 { slots := [(0, wFull), (1, wFull)] }) .ready 0x15 = true := by decide +kernel
theorem wit_FullerWords_wait : (List.range 0x16).all (fun fn => fulReady (wFulDev fn {}) .wait fn) = true := by decide +kernel

/-- The output's slot is full: the finished tile waits for it. -/
def fulWaits (s : Dev) (fn : Nat) : Bool :=
  (s.ctx 0).any fun c => (c.st.desc (fulTX (wFul fn))).any fun dx => (c.st.desc (fulTZ (wFul fn))).any fun dz =>
    let p := sampleOf (s.loom 0)
    let reads := fulXs c s p (wFul fn) dx ++ fulYs fn c s p (wFul fn) dx
    let z := (fulZs fn c s p (wFul fn) dz).headD 0
    rdSlots c.stall (s.loom 0) reads == .ready && wrSlot (s.loom 0) 3 z == .wait && !reads.contains z

theorem wit_FullerWords_full : (List.range 0x16).all (fun fn => fulWaits (wFulDev fn { slots := [(0, wFull), (1, wFull), (2, wFull)] }) fn) = true := by decide +kernel

/-- A tile that waits for its slot in the ring of descriptor 3. -/
def wPend (coord : Nat × Nat × Nat) : PendTile := { t := 3, coord := coord, tile := { tag := wTag, data := [] } }

/-- The slot that a waiting tile is for can be claimed, or it must still wait for it. -/
def pends (s : Dev) (port : Nat) (os : List PendTile) (free : Bool) : Bool :=
  (s.ctx 0).any fun c => match os with
    | [o] => (c.st.desc o.t).any fun d => wrSlot (s.loom 0) port (ringSlot d o.coord) == (if free then .ready else .wait)
    | _ => false

theorem pends_iff (s : Dev) (port : Nat) (o : PendTile) (free : Bool) :
    pends s port [o] free = true ↔ ∃ c d, s.ctx 0 = some c ∧ c.st.desc o.t = some d ∧ wrSlot (s.loom 0) port (ringSlot d o.coord) = (if free then .ready else .wait) := by
  simp only [pends, Option.any_eq_true, beq_iff_eq]
  exact ⟨fun ⟨c, hc, d, hd, h⟩ => ⟨c, d, hc, hd, h⟩, fun ⟨c, d, hc, hd, h⟩ => ⟨c, hc, d, hd, h⟩⟩

/-- What `pends` means for one tile: `canTake` where the slot is free, `mustWait` where it is not. -/
theorem pends_canTake (s : Dev) (port : Nat) (o : PendTile) (h8 : o.tile.data.length ≤ 8192) (h : pends s port [o] true = true) :
    ∃ c, s.ctx 0 = some c ∧ (s.loom 0).canTake c port [o] := by
  obtain ⟨c, d, hc, hd, hw⟩ := (pends_iff s port o true).mp h
  refine ⟨c, hc, ?_, ?_, ?_⟩
  · intro q hq; simp only [List.mem_singleton] at hq; subst hq; simp [hd, h8]
  · simp [Ctx.pendSlots]
  · simp [Ctx.pendSlots, hd, wrSlots, hw]
theorem pends_mustWait (s : Dev) (port : Nat) (o : PendTile) (h : pends s port [o] false = true) :
    ∃ c, s.ctx 0 = some c ∧ (s.loom 0).mustWait c port [o] := by
  obtain ⟨c, d, hc, hd, hw⟩ := (pends_iff s port o false).mp h
  exact ⟨c, hc, o, [], d, rfl, hd, by simpa using hw⟩

theorem wit_FullerWords_taken :
    let j : FulJob := { smp := { op := 13, word := BitVec.ofNat 64 (wFul 3) }, outs := [wPend (0, 0, 0)] }
    let s := wFulDev 3 { ful := some j }
    (opc j.smp.w = 0x30 ∧ fulFN j.smp.w = 3 ∧ (s.loom 0).live = true) ∧ pends s 3 j.outs true = true := by decide +kernel
theorem wit_FullerWords_mustWait :
    let j : FulJob := { smp := { op := 13, word := BitVec.ofNat 64 (wFul 3) }, outs := [wPend (0, 0, 0)] }
    let s := wFulDev 3 { ful := some j, slots := [(2, wFull)] }
    (s.loom 0).live = true ∧ pends s 3 j.outs false = true := by decide +kernel

/-- CAST, TX 1, TY 2, TZ 3, with the flags of its low fields. -/
def wCast (low : Nat) : Nat := wOp 0x31 (1 * 2 ^ 52 + 2 * 2 ^ 48 + 3 * 2 ^ 44 + low)
def wCastDev (low : Nat) (x : LoomSt) : Dev :=
  wLoom 4 ([wOp 0x04 (4 * 2 ^ 52)] ++ wDesc 1 0 0 0 1 0 ++ wDesc 2 0 0 1 1 0 ++ wDesc 3 0 0 2 1 0 ++ wDesc 4 0 0 3 1 0 ++ wDesc 5 0 0 4 1 0 ++
    wDesc 6 0 2 5 1 0 ++ [wCast low, wOp 0x03 0]) 25 x

def castReady (s : Dev) (low : Nat) (p : Ctx → Sample → Desc → Desc → Bool) : Bool :=
  (s.ctx 0).any fun c => (s.loom 0).word == some (wCast low) && opc (wCast low) == 0x31 &&
    (c.st.desc (castTX (wCast low))).any fun dx => (c.st.desc (castTZ (wCast low))).any fun dz =>
      let q := sampleOf (s.loom 0)
      (s.loom 0).ful.isNone && rdSlots c.stall (s.loom 0) (castReads c s q (wCast low) dx dz) == .ready && p c q dx dz

def castGoes (s : Dev) (low : Nat) (c : Ctx) (q : Sample) (dx dz : Desc) : Bool :=
  castTagsOk c s q (wCast low) dx dz && castMapOk c s q (wCast low) dz && wrSlots (s.loom 0) 3 (castWrites c s q (wCast low) dz) == .ready && decide (castWrites c s q (wCast low) dz).Nodup &&
    (castWrites c s q (wCast low) dz).all (fun z => !(castReads c s q (wCast low) dx dz).contains z)

theorem wit_CastWord_plain :
    let s := wCastDev 0 { slots := [(0, wFull)] }
    castReady s 0 (fun c q dx dz => castGoes s 0 c q dx dz && !castOmap (wCast 0)) = true := by decide +kernel
theorem wit_CastWord_gradient :
    let low := 2 ^ 40
    let s := wCastDev low { slots := [(0, wFull), (3, wFull)] }
    castReady s low (fun c q dx dz => castGoes s low c q dx dz && !castOmap (wCast low) && (c.st.desc (castTZ (wCast low) + 2)).isSome) = true := by decide +kernel
theorem wit_CastWord_full :
    let s := wCastDev 0 { slots := [(0, wFull), (2, wFull)] }
    castReady s 0 (fun c q dx dz => castTagsOk c s q (wCast 0) dx dz && castMapOk c s q (wCast 0) dz && !castOmap (wCast 0) && !castGrad (wCast 0) &&
      wrSlot (s.loom 0) 3 (castSlot c s q dz) == .wait && !(castReads c s q (wCast 0) dx dz).contains (castSlot c s q dz)) = true := by decide +kernel
theorem wit_CastWord_tagsDiffer :
    let low := 2 ^ 40
    let off := mkTag { row := 1, col := 0, plane := 0, extR := 63, extC := 63, fmt := 0, scale := 0, stall := 0 }
    let s := wCastDev low { slots := [(0, wFull), (3, { wFull with tag := off })] }
    castReady s low (fun c q dx dz => !castTagsOk c s q (wCast low) dx dz) = true := by decide +kernel
/-- An overflow map of one tile at VA 0x200000, in the raw region of descriptor 6. -/
def wOmapBench (tiles : Nat) : Tab Byte := tsetRange 0 [] (8192 * 5) (natLe 8 2097152 ++ (natLe 8 tiles ++ (natLe 2 6 ++ (natLe 2 64 ++ List.replicate 44 0))))
theorem wit_CastWord_omap :
    let low := 2 ^ 39 + 6 * 2 ^ 35
    let s := wCastDev low { slots := [(0, wFull)], bench := wOmapBench 1 }
    castReady s low (fun c q dx dz => castGoes s low c q dx dz && castOmap (wCast low) && !castGrad (wCast low) &&
      okAnd (castRead c s q (wCast low) dz) (fun entry _ => okAnd (castMapWrite c s (s.resumes 0 q.op).draw.2 q (wCast low) dz
        (castOut c s q (wCast low) dx dz entry s.freeCtr)) (fun _ _ => true))) = true := by decide +kernel
theorem wit_CastWord_noMap :
    let low := 2 ^ 39 + 6 * 2 ^ 35
    let s := wCastDev low { slots := [(0, wFull)], bench := wOmapBench 0 }
    castReady s low (fun c q _ dz => !castMapOk c s q (wCast low) dz) = true := by decide +kernel
/-! ### Witnesses: host port, hoppers, log -/

theorem wit_HostRegistersAreWritten :
    wRun.hub.linkUp = true ∧ ({ wRun with hub := {} } : Dev).hub.linkUp = false ∧ (96 : FnId) ≠ 0 ∧ (0x30010#26) ∈ [0x30010#26, 0x30014#26, 0x60010#26] ∧
    (0x3FFFFFF#26).toNat % 4 ≠ 0 ∧ (0x3FFFFFC#26).toNat % 8 ≠ 0 := by decide

theorem wit_AccessErrorsAreLatched : wRun.hub.linkUp = true ∧ (16 ∉ [4, 8]) ∧ (0xFFFFFFFE#32).toNat % 4 ≠ 0 ∧ (Bar.bar2 = .bar2 ∧ 4 ≠ 8) ∧
    (16#32).toNat % 4 = 0 ∧ wRun.sees 1 (16#32).toNat true = false ∧ wRun.sees 1 (16#32).toNat false = false := by decide

theorem wit_FunctionsAreReset : wRun.hub.linkUp = true ∧ wRun.power.state = .run := by decide

theorem wit_LatchesAreCleared : wRun.hub.linkUp = true ∧ wRun.fnReaches 0 1151 = true ∧ wRun.fnReaches 1 11 = true := by decide +kernel

theorem wit_DeviceWindow :
    let s := wRun
    let busy : Dev := s.setFn 1 { wbuf := [{ stall := 0, va := 2097152, data := [0] }] }
    let locked : Dev := s.modStall 0 (fun x => { x with rstState := .busy })
    let win (b : BitVec 26) : Dev := s.setFn 1 { winBase := b }
    s.hub.linkUp = true ∧ s.window 1 0 = .va 0 stageBase ∧ s.xlate 0 stageBase = .staging 0 ∧ s.stageLocked 0 = false ∧ locked.stageLocked 0 = true ∧
    (s.fn 1).buffered + 65536 ≤ 65536 ∧ (win 0).window 1 0x04200000 = .va 0 2097152 ∧ ((win 0).fn 1).wbuf = [] ∧ (win 0).xlate 0 0 = .unmapped ∧
    (∀ o, (win 0).xlate 0 2097152 ≠ .staging o) ∧
    okAnd ((win 0).tierWrite 0 none none true 2097152 [1]) (fun _ _ => true) = true ∧
    okAnd ((win 0).tierRead 0 none none 2097152 1) (fun b _ => b.length == 1) = true ∧
    65536 < (busy.fn 1).buffered + 65536 ∧ (busy.fn 1).wbuf ≠ [] := by
  refine ⟨by decide +kernel, by decide +kernel, by decide +kernel, by decide +kernel, by decide +kernel, by decide +kernel, by decide +kernel,
    by decide +kernel, by decide +kernel, ?_, by decide +kernel, by decide +kernel, by decide +kernel, by decide +kernel⟩
  intro o h; cases h

/-- The write that waits: its granule is being called up. -/
theorem wit_DeviceWindow_waits :
    let s := wRun.modBlock 0 1 0 (fun x => { x with moving := [(0, .callingUp)] })
    (match s.tierWrite 0 none none true 2097152 [1] with
      | .wait c => c == .callup
      | _ => false) = true := by decide +kernel

theorem wit_Hoppers :
    let s := wRun
    let full : Dev := s.modHub (fun h => { h with hoppers := [(15, List.replicate 8 0)] })
    s.hub.linkUp = true ∧ (s.fn 1).wbuf = [] ∧ s.reachesHop 1 15 = true ∧ s.hopKind 15 = .plain ∧ (s.hopper 15).length < 8 ∧ 8 ≤ (full.hopper 15).length ∧
    full.hopOwner 15 = some (0, 15) ∧ s.hopKind 2 = .completion ∧ s.hopper 2 = [] ∧ s.hopKind 16 = .outside ∧ s.hopKind 1 = .run ∧ s.reachesHop 1 1 = true := by
  decide +kernel

theorem wit_EventLogEntriesAreWritten :
    let e : LogEntry := { seq := 0, source := 3, code := 0x10, stall := 255, severity := 2, hostTime := 0, since := 0, data := [] }
    let s : Dev := { wRun with hub := { wRun.hub with logQueue := [e], logSeq := 131072 } }
    s.hub.logQueue = [e] ∧ s.coreUp 3 = true ∧ s.power.nvInh = false ∧ 131072 < (s.hub.logSeq + 1).toNat ∧ 1 ≤ e.severity.toNat := by decide +kernel

/-! ### Witnesses: UPD, channels, ATT, PICK, APX, XFER, TIER -/

/-- A ledger record (R299): ledger at VA 0x200000, 4 entries, NT 1, LBASE 0. -/
def wLedger : Tab Byte := tsetRange 0 [] (8192 * 40) (natLe 8 2097152 ++ (natLe 4 4 ++ (natLe 2 1 ++ (natLe 2 0 ++ natLe 2 7))))

/-- UPD with TW 0, TG 1, TM1 2, TM2 3, TE 4, TR 5, TQ 6, ALG 2 (no moments), and KEEP as given. -/
def wUpd (low : Nat) : Nat := wOp 0x40 (0 * 2 ^ 52 + 1 * 2 ^ 48 + 2 * 2 ^ 44 + 3 * 2 ^ 40 + 4 * 2 ^ 36 + 5 * 2 ^ 32 + 6 * 2 ^ 28 + 2 * 2 ^ 24 + low)
def wUpdDev (x : LoomSt) : Dev :=
  wLoom 5 ([wOp 0x04 (5 * 2 ^ 52)] ++ wDesc 0 0 0 0 1 0 ++ wDesc 1 0 0 1 1 0 ++ wDesc 5 0 0 5 1 0 ++ wDesc 6 0 0 6 1 0 ++ wDesc 8 0 0 8 1 0 ++
    wDesc 13 0 0 13 1 0 ++ wDesc 15 0 2 40 1 0 ++ [wUpd 0, wOp 0x03 0]) 29 { x with bench := wLedger }
def wUpdJob : UpdJob := { smp := { op := 29, word := BitVec.ofNat 64 (wUpd 0), version := 7 }, va := 2097152 + 64, entry := List.replicate 64 0, nt := 1, n := 0 }

theorem wit_ParameterUpdates_issue :
    let s := wUpdDev { updRun := some (0, 0), version := 1 }
    let x := s.loom 0
    (((s.ctx 0).any fun c => x.word == some (wUpd 0) && opc (wUpd 0) == 0x40 && x.upd.isNone && decide (x.updRun = some (x.runSeq, 0)) &&
      (c.st.desc 15).any fun d15 => (c.st.desc (updTW (wUpd 0))).any fun dw => (ledgerRec x d15).any fun r =>
        let t0 := shardT0 dw (c.at_ s dw (sampleOf x) 0 0 0)
        let e := r.lbase.getD (updTW (wUpd 0)) 0 + t0 / r.nt
        t0 % r.nt == 0 && decide (e < r.entries) &&
          okAnd ((s.resumes 0 (sampleOf x).op).tierRead c.stall c.src none (r.va + 64 + 64 * e) 64)
            (fun b _ => decide (u8 b 20 ≤ 2) && decide ((u32 b 0 + 1) % 2 ^ 32 = x.version.toNat)))) = true := by decide +kernel

/-- The conditions of one shard step. -/
def updStep (s : Dev) (p : UpdEnv → LoomSt → Bool) : Bool :=
  (s.ctx 0).any fun c => ((s.loom 0).upd).any fun j => (s.loom 0).live && (c.st.desc (updTW j.smp.w)).any fun dw =>
    p { c := c, j := j, w := j.smp.w, dw := dw } (s.loom 0)

def wUpdSlots : Tab Slot := [(0, wFull), (1, wFull)]

theorem wit_ParameterUpdates_pass1 :
    updStep (wUpdDev { upd := some wUpdJob, slots := wUpdSlots }) (fun e x => e.j.mode == 0 && e.j.pass == 1 && decide (e.j.i < e.j.nt) &&
      rdSlots e.c.stall x [e.slot (updTG e.w) e.j.i] == .ready) = true := by decide +kernel
theorem wit_ParameterUpdates_gate :
    updStep (wUpdDev { upd := some { wUpdJob with i := 1 } }) (fun e _ => e.j.mode == 0 && e.j.pass == 1 && decide (e.j.nt ≤ e.j.i)) = true := by decide +kernel
theorem wit_ParameterUpdates_pass2 :
    updStep (wUpdDev { upd := some { wUpdJob with pass := 2 }, slots := wUpdSlots }) (fun e x => e.j.mode == 0 && e.j.pass == 2 && e.j.outs.isEmpty &&
      decide (e.j.i < e.j.nt) && rdSlots e.c.stall x e.reads == .ready) = true := by decide +kernel
theorem wit_ParameterUpdates_pass3 :
    updStep (wUpdDev { upd := some { wUpdJob with pass := 3 }, slots := wUpdSlots }) (fun e x => e.j.mode == 0 && e.j.pass == 3 && e.j.outs.isEmpty &&
      decide (e.j.i < e.j.nt) && rdSlots e.c.stall x e.reads == .ready) = true := by decide +kernel
def wUpdPend : PendTile := { t := 6, coord := (0, 0, 0), tile := { tag := wTag, data := [] } }
theorem wit_ParameterUpdates_taken : ([0, 2] : List Nat).all (fun mode =>
    pends (wUpdDev { upd := some { wUpdJob with mode := mode, pass := 2, i := 1, outs := [wUpdPend] } }) 3 [wUpdPend] true) = true := by decide +kernel
theorem wit_ParameterUpdates_mustWait : ([0, 2] : List Nat).all (fun mode =>
    pends (wUpdDev { upd := some { wUpdJob with mode := mode, pass := 2, i := 1, outs := [wUpdPend] }, slots := [(6, wFull)] }) 3 [wUpdPend] false) = true := by
  decide +kernel
theorem wit_ParameterUpdates_publish : ([2, 3] : List Nat).all (fun pass =>
    let s := wUpdDev { upd := some { wUpdJob with pass := pass, i := 1 } }
    updStep s (fun e x => e.j.pass == pass && e.j.outs.isEmpty && decide (e.j.nt ≤ e.j.i) && e.acked x &&
      okAnd (s.tierWrite e.c.stall e.c.src none false e.j.va (e.entryBytes e.j.smp.version.toNat e.j.flags
        (if pass = 2 then u16 e.j.entry 14 else min (u16 e.j.entry 14 + 1) 65535) true)) (fun _ _ => true))) = true := by decide +kernel
theorem wit_ParameterUpdates_fetched :
    let s := wUpdDev { upd := some { wUpdJob with mode := 2, i := 1 } }
    updStep s (fun e x => e.j.mode == 2 && e.j.outs.isEmpty && decide (e.j.nt ≤ e.j.i) && e.acked x &&
      okAnd (s.tierWrite e.c.stall e.c.src none false e.j.va (e.entryBytes e.j.smp.version.toNat (u8 e.j.entry 12) (u16 e.j.entry 14) false)) (fun _ _ => true)) = true := by
  decide +kernel
theorem wit_ParameterUpdates_measure :
    updStep (wUpdDev { upd := some { wUpdJob with mode := 1 }, slots := wUpdSlots }) (fun e x => e.j.mode == 1 && decide (e.j.i < e.j.nt) &&
      rdSlots e.c.stall x [e.slot (updTG e.w) e.j.i] == .ready) = true := by decide +kernel
theorem wit_ParameterUpdates_measured :
    let s := wUpdDev { upd := some { wUpdJob with mode := 1, i := 1 } }
    updStep s (fun e x => e.j.mode == 1 && decide (e.j.nt ≤ e.j.i) && e.acked x && okAnd (s.tierWrite e.c.stall e.c.src none false e.j.va (e.entryBytes (u32 e.j.entry 0)
      (u8 e.j.entry 12 % 2 + 2 * b2n (e.j.nf != 0 || !finiteV (extVal e.j.n)) + 4 * (u8 e.j.entry 12 / 4)) (u16 e.j.entry 14) true)) (fun _ _ => true)) = true := by
  decide +kernel

def wTagE (epoch : Nat) : Tag := mkTag { row := 0, col := 0, plane := 0, extR := 63, extC := 63, fmt := 0, scale := 0, stall := 0, epoch := epoch }

def updBehind (s : Dev) (lo hi : Nat) : Bool :=
  updStep s (fun e x => e.j.mode == 2 && e.j.outs.isEmpty && decide (e.j.i < e.j.nt) && rdSlots e.c.stall x [e.masterAt e.j.i] == .ready &&
    (let behind := (e.j.smp.version.toNat % 65536 + 65536 - tagEpoch (x.slot (e.masterAt e.j.i)).tag) % 65536
     decide (lo ≤ behind) && decide (behind ≤ hi)))
def wFetch (epoch : Nat) : Dev := wUpdDev { upd := some { wUpdJob with mode := 2 }, slots := [(0, { wFull with tag := wTagE epoch })] }
theorem wit_ParameterUpdates_fetch : updBehind (wFetch 7) 0 0 = true := by decide +kernel
theorem wit_ParameterUpdates_older : updBehind (wFetch 6) 1 1 = true := by decide +kernel
theorem wit_ParameterUpdates_oldest : updBehind (wFetch (7 + 65536 - 32767)) 32767 32767 = true := by decide +kernel
theorem wit_ParameterUpdates_newer : updBehind (wFetch 8) 32768 65535 = true := by decide +kernel

/-! Channels: station 0 on loom 0 copies from its channel ring into output half 3, received by station 1 on loom 1 at input half 4. -/

def wSend : Nat := wOp 0x30 (0 * 2 ^ 50 + 1 * 2 ^ 45 + 3 * 2 ^ 37)
def wSndDraft : List Nat := [wOp 0x04 (2 * 2 ^ 52)] ++ wDesc 1 0 0 0 1 0 ++ wDesc 3 0 1 2 1 3 ++ [wSend, wOp 0x03 0]
def wRcvDraft : List Nat := [wOp 0x04 (2 * 2 ^ 52)] ++ wDesc 1 0 1 0 1 4 ++ wDesc 3 0 0 2 1 0 ++ [wSend, wOp 0x03 0]
def wChan : Chan := { num := 0, src := 0, dst := 1, srcPort := 3, dstPort := 4, map := 0, aligned := false, srcMember := 0, dstMember := 0 }
def wPair (x y : LoomSt) (net : Tab (List Token)) (waiters : Tab (List Nat)) (acks : Tab Nat) : Dev :=
  { wBase { stations := [{ num := 0, role := 2, looms := [0], runHop := 1, cplHop := none, draft := wSndDraft },
                         { num := 1, role := 2, looms := [1], runHop := 1, cplHop := none, draft := wRcvDraft }], chans := [wChan] } with
    looms := [(0, { x with station := some 0, draft := wSndDraft }), (1, { y with station := some 1, draft := wRcvDraft })],
    net := net, waiters := waiters, acks := acks }
def wKey : Nat := streamKey 0 3 1 4
def wItem : OutItem := { slot := 2, tag := wTag }

/-- The oldest token is a wave's marker: on the one aligned input the loom takes its snapshot, on another it notes it. -/
theorem wit_TallySnapshotIsTaken_stream : ([true, false] : List Bool).all (fun al =>
    let s0 : Dev := { wPair {} {} [(wKey, [.marker 7])] [] [] with tally := { busy := true, injected := 7 }, units := [(1, { markWave := 7 })] }
    let s := s0.modStall 0 fun y => { y with plan := y.plan.map fun p => { p with chans := [{ wChan with aligned := al }] } }
    s.stream wKey == [.marker 7] && (s.loom 1).live && (s.unit 1).markWave == 7 && (s.unit 1).snap != 7 && s.tally.lost.isEmpty &&
      ((s.inputsOf 1 true).contains wKey && (s.inputsOf 1 true).all (fun i => i == wKey || (s.unit 1).marked.contains i)) == al) = true := by decide +kernel

theorem wit_ChannelTokens_request :
    let s := wPair { outq := [(3, [wItem])] } {} [] [] []
    ((s.conn 0 3 1 4).any fun c => ((tget [] (s.loom 0).outq 3).find? (fun i => !i.sent)).any fun it => (s.stationOf 1).any fun pt =>
      (inputDesc pt.2 4).isSome && (s.loom 0).live && (s.loom 1).live && !it.requested.contains c.key && pt.2.role != 7 && pt.2.role != 5) = true := by
  decide +kernel
theorem wit_ChannelTokens_grant :
    let s := wPair {} {} [] [(waitKey 1 0, [wKey])] []
    tget [] s.waiters (waitKey 1 0) = [wKey] ∧ streamSnd wKey ≠ 1 ∧ slotGrantable (s.loom 1) 0 = true := by decide +kernel
theorem wit_ChannelTokens_send :
    let it := { wItem with requested := [wKey], granted := [(wKey, 0)] }
    let s := wPair { outq := [(3, [it])], slots := [(2, wFull)] } {} [] [] []
    (tget [] (s.loom 0).outq 3).find? (fun i => !i.sent) = some it ∧ s.loomStall 0 = some 0 ∧
    (∀ c ∈ s.connsOf 0, c.sndLoom = 0 → c.outPort = 3 → c.key ∈ it.granted.map (·.1)) ∧ rdSlot 0 (s.loom 0) it.slot = .ready ∧
    it.granted.Pairwise (fun a b => a.1 ≠ b.1) := by decide +kernel
theorem wit_ChannelTokens_arrive :
    let t : Tile := { tag := wTag, data := List.replicate 8192 0 }
    let s := wPair {} {} [(wKey, [.tile t 511])] [] []
    (s.stream wKey).length = 1 ∧ ((s.stationOf 1).any fun pt => (inputDesc pt.2 4).isSome) = true ∧ 511 < 512 ∧
    s.dead (1 / 12) = false ∧ s.held 1 wKey = false := by decide +kernel
theorem wit_ChannelTokens_tileLength : (List.replicate 8192 (0 : Byte)).length = 8192 := List.length_replicate ..
theorem wit_ChannelTokens_ack :
    let it := { wItem with requested := [wKey], granted := [(wKey, 0)], sent := true }
    let s := wPair { outq := [(3, [it])] } {} [] [] [(wKey, 1)]
    tget 0 s.acks wKey = 0 + 1 ∧ (tget [] (s.loom 0).outq 3).find? (fun i => i.sent && !i.acked.contains wKey) = some it ∧
    (∀ c ∈ s.connsOf 0, c.sndLoom = 0 → c.outPort = 3 → c.key = wKey ∨ c.key ∈ it.acked) := by decide +kernel

/-- A station of role 5 whose UPD takes its gradient tiles from a channel ring, with one tile spilled. -/
def wSpill : Dev :=
  wLoom 5 ([wOp 0x04 (5 * 2 ^ 52)] ++ wDesc 0 0 0 0 1 0 ++ wDesc 1 0 1 1 1 2 ++ [wUpd 0, wOp 0x03 0]) 9 { spills := [(0, 1)], spillCap := 4 }
theorem wit_ChannelTokens_spill :
    let s : Dev := { wSpill with waiters := [(waitKey 0 1, [7])] }
    let y : Dev := s.modLoom 0 fun x => { x with slots := [(1, wFull)] }
    (slotGrantable (y.loom 0) 1 = false ∧ ((y.loom 0).slot 1).state ≠ .raw ∧ tget [] y.waiters (waitKey 0 1) = [7]) ∧
    ((y.stationOf 0).any fun pt => (spillFree (y.loom 0)).isSome && tgSlot pt.2 1) = true ∧ ((wSpill.modLoom 0 fun x => { x with slots := [(1, { state := .raw })] }).loom 0).slot 1 = { state := .raw } := by
  decide +kernel
theorem wit_ChannelTokens_refill :
    let s := wSpill
    let x := s.loom 0
    (x.spills.find? (fun e => e.2 == 1) = some (0, 1) ∧ s.loomStall 0 = some 0 ∧ x.live = true ∧ (x.slot 1).state = .empty) ∧
    ((s.stationOf 0).any fun pt => (spillVa pt.1 0 x.spillCap.toNat 0).any fun va =>
      ((chanDescs pt.2 true).find? (fun d => decide (d.base ≤ 1) && decide (1 < d.base + d.depth))).isSome && va == 2097152) = true := by decide +kernel
theorem wit_ChannelTokens_refillRead :
    okAnd (wSpill.tierRead 0 (some 0) none 2097152 4288) (fun _ _ => true) = true := by decide +kernel

/-! ATT: TQ 1, TK 2, TV 3, TO 4, one stream. -/

def wAtt (low : Nat) : Nat := wOp 0x50 (1 * 2 ^ 52 + 2 * 2 ^ 48 + 3 * 2 ^ 44 + 4 * 2 ^ 40 + low)
def wAttDev (low : Nat) (x : LoomSt) : Dev :=
  wLoom 6 ([wOp 0x04 (6 * 2 ^ 52)] ++ wDesc 1 0 0 0 1 0 ++ wDesc 2 0 0 1 1 0 ++ wDesc 3 0 0 2 1 0 ++ wDesc 4 0 0 3 1 0 ++ [wAtt low, wOp 0x03 0]) 17 x
def wAttJob (low : Nat) : AttJob := { smp := { op := 17, word := BitVec.ofNat 64 (wAtt low) }, m := List.replicate 64 0xFF80, l := List.replicate 64 (0, none) }
def wLastTag : Tag := mkTag { row := 0, col := 0, plane := 0, extR := 63, extC := 63, fmt := 0, scale := 0, stall := 0, last := true, epoch := 0 }

theorem wit_AttentionRuns_issue :
    let s := wAttDev 0 { slots := [(0, wFull)] }
    let x := s.loom 0
    ((s.ctx 0).any fun c => x.word == some (wAtt 0) && opc (wAtt 0) == 0x50 && x.att.isNone && x.arr.isNone && x.arrNext.isNone &&
      (attEnv c { smp := sampleOf x, m := List.replicate 64 0xFF80, l := List.replicate 64 (0, none) }).any fun e =>
        decide (e.qSlots s).Nodup && rdSlots c.stall x (e.qSlots s) == .ready) = true := by decide +kernel
theorem wit_AttentionRuns_next :
    let p := (wAttJob 0).smp
    let s := wAttDev 0 { slots := [(0, wFull)], arrNext := some p }
    let x := s.loom 0
    ((s.ctx 0).any fun c => opc p.w == 0x50 && x.live && !x.arrBusy &&
      (attEnv c (wAttJob 0)).any fun e => decide (e.qSlots s).Nodup && rdSlots c.stall x (e.qSlots s) == .ready) = true := by decide +kernel
theorem wit_AttentionRuns_waits :
    let s := wAttDev 0 { arr := some { smp := wSmp } }
    ((s.ctx 0).isSome && (s.loom 0).word == some (wAtt 0) && (s.loom 0).att.isNone && (s.loom 0).arr.isSome && (s.loom 0).arrNext.isNone) = true := by decide +kernel

/-- The conditions of one step of an ATT. -/
def attAt (s : Dev) (p : AttEnv → LoomSt → Bool) : Bool :=
  (s.ctx 0).any fun c => ((s.loom 0).att).any fun j => (s.loom 0).live && ((s.loom 0).word).all (fun w => opc w != 0x50) && (attEnv c j).any fun e => p e (s.loom 0)
/-- An ATT in progress, the loom at the word after it. -/
def wAttGo (low : Nat) (j : AttJob → AttJob) (x : LoomSt) : Dev := (wAttDev low { x with att := some (j (wAttJob low)) }).modLoom 0 fun y => { y with pc := 18 }
def wKeys : KeyGroup := { k := 0, vs := [2], pos := List.range 64 }
def wTiles : Tab Slot := [(0, wFull), (1, { wFull with tag := wLastTag }), (2, wFull)]

theorem wit_AttentionRuns_key :
    let s := wAttGo 0 id { slots := wTiles }
    attAt s (fun e x => !e.paged && !e.j.out && !e.j.done && !e.j.closed && !e.noMore none && decide (e.j.gs.length ≠ 4 - e.dt) &&
      (e.nextGroup s none).any fun q => rdSlot e.c.stall x (q.1.getD e.j.kt 0) == .ready) = true := by decide +kernel
theorem wit_AttentionRuns_close :
    attAt (wAttGo 0 (fun j => { j with gs := [wKeys], group := 1, streams := 1 }) {}) (fun e _ => !e.paged && !e.j.closed && e.j.kt == 0 && e.noMore none) = true := by
  decide +kernel
theorem wit_AttentionRuns_value :
    attAt (wAttGo 0 (fun j => { j with gs := [wKeys], closed := true }) { slots := wTiles }) (fun e x => !e.paged && decide (e.j.vt < e.j.gs.length * e.dt) &&
      (e.j.gs[e.j.vt / e.dt]?).any fun g => rdSlot e.c.stall x (g.vs.getD (e.j.vt % e.dt) 0) == .ready) = true := by decide +kernel
theorem wit_AttentionRuns_blockEnd :
    attAt (wAttGo 0 (fun j => { j with gs := [wKeys], closed := true, vt := 1 }) {}) (fun e _ => !e.paged && decide (e.j.gs.length * e.dt ≤ e.j.vt)) = true := by
  decide +kernel
theorem wit_AttentionRuns_forms :
    let s := wAttGo 0 (fun j => { j with done := true }) {}
    attAt s (fun e x => let o := attOut s e none
      !e.paged && !e.j.out && e.j.done && rdSlots e.c.stall x ((List.range o.n).filterMap (attTy s e o)) == .ready) = true := by decide +kernel
def wAttPend : PendTile := { t := 4, coord := (0, 0, 0), tile := { tag := wTag, data := [] } }
theorem wit_AttentionRuns_ends :
    let s (y : Tab Slot) := wAttGo 0 (fun j => { j with done := true, out := true, outs := [wAttPend] }) { slots := y }
    attAt (s []) (fun e _ => !e.paged && e.j.out) = true ∧ pends (s []) 2 [wAttPend] true = true ∧ pends (s [(3, wFull)]) 2 [wAttPend] false = true := by
  decide +kernel
def wPaged (low : Nat) : Nat := 5 * 2 ^ 36 + low
def wWalkInfo : WalkInfo := { epoch := 9, sigma := 0, plane := 0, seqVa := 2097152, len := 256, new_ := 0, npmax := 1, nplane := 1 }
theorem wit_AttentionRuns_paged :
    attAt (wAttGo (wPaged 0) id {}) (fun e x => e.paged && x.walks.isEmpty) = true ∧
    attAt (wAttGo (wPaged 0) id { walks := [wWalkInfo] }) (fun e x => e.paged && x.walks.head? == some wWalkInfo && !wWalkInfo.ready) = true := by decide +kernel
theorem wit_AttentionRuns_lists :
    let i : WalkInfo := { wWalkInfo with ready := true, scores := [(0, .zero)] }
    attAt (wAttGo (wPaged 0) id { walks := [i] }) (fun e x => e.paged && x.walks.head? == some i && i.list.isNone && !attGnom e.w) = true ∧
    attAt (wAttGo (wPaged (2 ^ 28)) id { walks := [i] }) (fun e x => e.paged && x.walks.head? == some i && attGnom e.w && decide (i.cands.length ≤ i.scores.length)) = true := by
  decide +kernel
theorem wit_AttentionRuns_listed :
    let i : WalkInfo := { wWalkInfo with ready := true, list := some [0], ended := true }
    attAt (wAttGo (wPaged 0) id { walks := [i] }) (fun e x => e.paged && x.walks.head? == some i && i.list.isSome && e.noMore (some i)) = true := by decide +kernel

/-- A state with bytes written at a VA of stall 0. -/
def wPut (s : Dev) (va : Nat) (b : List Byte) : Dev := match s.tierWrite 0 none none true va b with
  | .ok _ s1 => s1
  | _ => s

theorem wit_ParameterUpdates_header :
    let s := wPut (wUpdDev { updRun := some (1, 0), version := 1 }) 2097152 (List.replicate 16 0 ++ [8] ++ List.replicate 47 0)
    let x := s.loom 0
    (decide (x.runSeq = 0) && (s.ctx 0).any fun c => (c.st.desc 15).any fun d15 => (ledgerRec x d15).any fun r =>
      okAnd (s.tierRead c.stall c.src none r.va 64) (fun h s1 => ledgerHeadOk h &&
        okAnd ((s1.resumes 0 (sampleOf x).op).tierRead c.stall c.src none (r.va + 64) 64) (fun b _ => u8 b 20 == 0))) = true := by
  decide +kernel

/-! The page walk: TIDX 5, TDST 6 (keys) and 7 (values), no append; the sequence's header stands at VA 0x200000. -/

def wWalk : Nat := wOp 0x60 (4 * 2 ^ 52 + 5 * 2 ^ 48 + 6 * 2 ^ 36)
def wWalkRec : Tab Byte := tsetRange 0 [] (8192 * 40) (natLe 8 2097152 ++ (natLe 4 4 ++ ([2, 1, 1, 0] ++ (natLe 2 4 ++ (natLe 2 1 ++ List.replicate 44 0)))) ++ natLe 8 2097152)
def wHeader : List Byte := natLe 4 256 ++ (natLe 4 0 ++ (natLe 2 1 ++ (natLe 2 1 ++ (natLe 4 0 ++ natLe 2 5))))
def wWalkDev (x : LoomSt) : Dev :=
  let s := wLoom 6 ([wOp 0x04 (6 * 2 ^ 52)] ++ wDesc 1 0 0 0 1 0 ++ wDesc 4 0 0 3 1 0 ++ wDesc 5 0 2 40 1 0 ++ wDesc 6 0 0 1 1 0 ++
    wDesc 7 0 0 2 1 0 ++ [wWalk, wAtt 0 + 5 * 2 ^ 36, wOp 0x03 0]) 21 { x with bench := wWalkRec }
  wPut (s.modStall 0 fun y => { y with epochs := [(2, { epoch := 9, pinCur := 1 })] }) 2097152 wHeader
def wWalkSmp : Sample := { op := 21, word := BitVec.ofNat 64 wWalk }

/-- A loom past its walk's word. -/
def wWalkGo (x : LoomSt) : Dev := (wWalkDev x).modLoom 0 fun y => { y with pc := 23 }
/-- The conditions of a walk's next step. -/
def walkAt (s : Dev) (p : Ctx → WalkEnv → PickJob → LoomSt → Bool) : Bool :=
  let x := s.loom 0
  x.live && (x.word).all (fun w => opc w != 0x60) && (s.ctx 0).any fun c => (x.pick).any fun j => pickFN j.smp.w == 4 && (walkEnv c j).any fun e => p c e j x

theorem wit_AttentionRuns_walk :
    let s := wWalkDev {}
    let x := s.loom 0
    ((s.ctx 0).any fun c => x.word == some wWalk && opc wWalk == 0x60 && pickFN wWalk == 4 && decide (wWalk < 2 ^ 64) && x.pick.isNone && x.pickNext.isNone &&
      (walkEnv c (walkJob s x c (sampleOf x))).any fun e => e.r.type == 4 && decide ((c.at_ s e.dd (sampleOf x) 0 0 0).1 < e.r.nseq) &&
        e.r.dt == pairedDt c x) = true := by decide +kernel
theorem wit_AttentionRuns_pin :
    let s0 := wWalkDev {}
    let s := (s0.ctx 0).elim s0 fun c => wWalkGo { pick := some (walkJob s0 (s0.loom 0) c wWalkSmp) }
    walkAt s (fun c e j _ => j.outs.isEmpty && decide (j.phase = .pin) &&
      let co := c.at_ s e.dd j.smp 0 0 0
      okAnd (((s.modStall 0 fun y => { y with epochs := tset {} y.epochs e.r.dom { tget {} y.epochs e.r.dom with pinCur := 2 } }).modLoom 0
        fun y => { y with attEpoch := 9, attPinned := true, attPinDom := e.r.dom }).tierRead c.stall c.src none (u64 (j.recs.getD 4 []) 0 % 2 ^ 52) 64)
        (fun h _ => u16 h 16 == 5 && decide (co.2.2 < u16 h 10) && u32 h 0 + u32 h 4 == 256 * u16 h 8)) = true := by decide +kernel
theorem wit_AttentionRuns_append :
    let s := wWalkGo { pick := some { smp := wWalkSmp, phase := .append }, walks := [wWalkInfo] }
    walkAt s (fun _ e j x => j.outs.isEmpty && x.walks.getLast? == some wWalkInfo && decide (j.phase = .append) && pickTSRC e.w == 0) = true := by decide +kernel
theorem wit_AttentionRuns_unpin :
    let i : WalkInfo := { wWalkInfo with ready := true, list := some [] }
    let s := wWalkGo { pick := some { smp := wWalkSmp, phase := .deliver }, walks := [i], attPinned := true }
    walkAt s (fun _ _ j x => j.outs.isEmpty && x.walks.getLast? == some i && decide (j.phase = .deliver) &&
      (i.list).any fun lst => decide (lst.length ≤ j.next / 4)) = true := by decide +kernel
def wWalkPend : PendTile := { t := 6, coord := (0, 0, 0), tile := { tag := wTag, data := [] } }
theorem wit_AttentionRuns_walkTiles :
    let s (y : Tab Slot) := wWalkGo { pick := some { smp := wWalkSmp, phase := .deliver, outs := [wWalkPend] }, slots := y }
    walkAt (s []) (fun _ _ _ _ => true) = true ∧ pends (s []) 4 [wWalkPend] true = true ∧ pends (s [(1, wFull)]) 4 [wWalkPend] false = true := by decide +kernel

theorem wit_PageTablePublication :
    let s := wWalkDev {}
    let pinned : Dev := s.modStall 0 (fun y => { y with epochs := [(15, { epoch := 0xFFFFFFFF, pinPrev := 1 })] })
    s.hub.linkUp = true ∧ (s.fn 1).wbuf = [] ∧ (tget {} (s.stall 0).epochs 2).pinPrev = 0 ∧ (tget {} (pinned.stall 0).epochs 15).pinPrev ≠ 0 ∧
    ((s.setFn 1 { wbuf := [{ stall := 0, va := 2097152, data := [0] }] }).fn 1).wbuf ≠ [] := by decide +kernel

/-! PICK: TIDX 5 (64 indices), TSRC 6, TDST 7, TSEG 8; tables are raw regions where the function wants a table. -/

def wPick (fn : Nat) : Nat := wOp 0x60 (fn * 2 ^ 52 + 5 * 2 ^ 48 + 8 * 2 ^ 44 + 6 * 2 ^ 40 + 7 * 2 ^ 36)
/-- A stream of 64 words at VA 0x210000; a table of 16 rows of one BF16 tile column at VA 0x200000; 2 offsets at VA 0x220000. -/
def wStreamRec (va n : Nat) : List Byte := natLe 8 va ++ (natLe 8 n ++ (natLe 2 1 ++ List.replicate 46 0))
def wTableRec : List Byte := natLe 8 2097152 ++ (natLe 8 16 ++ (natLe 2 2 ++ (natLe 2 1 ++ (natLe 4 128 ++ ([1] ++ (List.replicate 39 0))))))
def wPickBench (n : Nat) : Tab Byte :=
  tsetRange 0 (tsetRange 0 (tsetRange 0 [] (8192 * 40) (wStreamRec 2162688 n)) (8192 * 41) wTableRec) (8192 * 42) (wStreamRec 2228224 2)
/-- The table stands at TSRC for a gather, at TDST for a scatter-add and a segment reduce. -/
def wPickDev (fn n : Nat) (x : LoomSt) : Dev :=
  let src := if fn = 0 then wDesc 6 0 2 41 1 0 else wDesc 6 1 0 0 1 0
  let dst := if fn = 0 then wDesc 7 1 0 2 1 0 else if fn = 3 then wDesc 7 0 2 43 1 0 else wDesc 7 0 2 41 1 0
  wLoom 7 ([wOp 0x04 (7 * 2 ^ 52)] ++ wDesc 5 0 2 40 1 0 ++ src ++ dst ++ wDesc 8 0 2 42 1 0 ++ [wPick fn, wOp 0x03 0]) 17 { x with bench := wPickBench n }
def wPickJob (fn n : Nat) : PickJob :=
  { smp := { op := 17, word := BitVec.ofNat 64 (wPick fn) }, b := 0, e := 64, rows := 1, pos := 0,
    recs := [wStreamRec 2162688 n, wStreamRec 2228224 2, wTableRec, wTableRec] }

/-- What every clause about the issue of function `fn` asks. -/
def pickIssue (fn : Nat) (p : Ctx → LoomSt → Desc → Desc → Bool) : Bool :=
  let s := wPickDev fn 64 {}
  let x := s.loom 0
  (s.ctx 0).any fun c => (c.st.desc (pickTIDX (wPick fn))).any fun di => (streamRec (recLine x di)).isSome && (c.st.desc (pickTSRC (wPick fn))).any fun ds =>
    (c.st.desc (pickTDST (wPick fn))).any fun dd => x.word == some (wPick fn) && opc (wPick fn) == 0x60 && decide (wPick fn < 2 ^ 64) && pickFN (wPick fn) == fn &&
      x.pick.isNone && x.pickNext.isNone && p c x ds dd

theorem wit_PickerWords_gather :
    pickIssue 0 (fun _ x ds dd => (tableRec (recLine x ds)).any fun t => dd.fmt == t.f.code && dd.scale == t.scale) = true := by decide +kernel
theorem wit_PickerWords_scatter : pickIssue 1 (fun _ x _ dd => (tableRec (recLine x dd)).any (·.plain)) = true := by decide +kernel
theorem wit_PickerWords_segment :
    pickIssue 2 (fun c x ds dd => (c.st.desc (pickTSEG (wPick 2))).any (fun dg => (streamRec (recLine x dg)).isSome) && (tableRec (recLine x dd)).isSome &&
      ds.kind != 2) = true := by decide +kernel
theorem wit_PickerWords_dedup : pickIssue 3 (fun c x _ _ => !dedupTable c (pickJob x c (sampleOf x))) = true := by decide +kernel
theorem wit_PickerWords_busy : (List.range 4).all (fun fn =>
    let s := wPickDev fn 64 { pick := some (wPickJob ((fn + 1) % 4) 64) }
    (s.loom 0).word == some (wPick fn) && (s.loom 0).pickNext.isNone && ((s.loom 0).pick).any (fun j => pickFN j.smp.w != fn)) = true := by decide +kernel
theorem wit_PickerWords_next : (List.range 4).all (fun fn =>
    let s := wPickDev fn 64 { pickNext := some (wPickJob fn 64) }
    (s.ctx 0).isSome && (s.loom 0).pick.isNone && (s.loom 0).live && ((s.loom 0).pickNext).any (fun j => pickFN j.smp.w == fn)) = true := by decide +kernel

/-- What every clause about a PICK of function `fn` in progress asks, the loom being past its word. -/
def wPickGo (fn n : Nat) (j : PickJob → PickJob) (x : LoomSt) : Dev :=
  (wPickDev fn n { x with pick := some (j (wPickJob fn n)) }).modLoom 0 fun y => { y with pc := 18 }
def pickGoes (fn : Nat) (s : Dev) (p : PickEnv → PickJob → LoomSt → Bool) : Bool :=
  let x := s.loom 0
  x.live && (x.word).all (fun w => opc w != 0x60) && (s.ctx 0).any fun c => (x.pick).any fun j => pickFN j.smp.w == fn && (pickEnv c j).any fun e => p e j x

theorem wit_PickerWords_gatherEnd :
    pickGoes 0 (wPickGo 0 64 (fun j => { j with next := 1, cols := 1 }) {})
      (fun _ j _ => (j.src).any (fun t => decide (t.colt ≤ j.cols)) && decide (j.rows ≤ j.next) && j.todo == [] && j.pend == []) = true := by decide +kernel
theorem wit_PickerWords_gatherRow :
    let s := wPickGo 0 64 id {}
    pickGoes 0 s (fun e j x => j.src.isSome && decide (j.next < j.rows) && j.next == 0 && gatherClaim x j (s.gatherSlot e j.next 0) == .ready &&
      decide (j.b + 64 * j.next < j.e) && okAnd (s.tierRead e.c.stall e.c.src none (e.idx.va + 4 * (j.b + 64 * j.next)) (4 * min 64 (j.e - (j.b + 64 * j.next))))
        (fun _ _ => true)) = true := by decide +kernel
theorem wit_PickerWords_lineArrive :
    let s := wPickGo 0 128 (fun j => { j with
      rows := 2, next := 1, e := 128, pend := [(0, 0), (0, 1)], fetches := [(0, { idx := 15, va := 2097152 + 15 * 128, lines := 2, users := [] })] }) {}
    pickGoes 0 s (fun e j _ => j.src.isSome && j.pend[1]? == some (0, 1) && j.todo == [] && decide (j.next < j.rows) &&
      okAnd (s.tierRead e.c.stall e.c.src none ((tget {} j.fetches 0).va + 64) 64) (fun _ _ => true)) = true := by decide +kernel
theorem wit_PickerWords_scatterEnd :
    pickGoes 1 (wPickGo 1 64 (fun j => { j with next := 1 }) {}) (fun _ j _ => j.dst.isSome && decide (j.rows ≤ j.next)) = true := by decide +kernel
theorem wit_PickerWords_padding :
    let s := wPickGo 1 64 (fun j => { j with next := 1, rows := 3 }) { slots := [(0, wFull)] }
    pickGoes 1 s (fun e j x => (j.dst).any fun t => decide (j.next + 1 < j.rows) && decide (j.e ≤ j.b + 64 * j.next) && j.winAcc.isEmpty &&
      rdSlots e.c.stall x (ringSlots s e t.colt j.next) == .ready) = true := by decide +kernel
theorem wit_PickerWords_open :
    let s0 := wPickGo 2 64 (fun j => { j with phase := .append }) {}
    let s2 : Dev := s0.modStall 0 fun y => { y with plan := y.plan.map fun p =>
      { p with stations := p.stations.map fun t => { t with looms := [0, 1] } } }
    let s := wPut s2 2228228 (natLe 4 64)
    pickGoes 2 s (fun e j x => (j.dst).any fun t => (j.offs).any fun g => decide (j.phase = .append) && !j.open_ && x.member + 1 != e.c.st.m &&
      decide (max j.lo j.b < j.e) && (!j.split j.lo 64 || t.plain) &&
        okAnd (s.tierRead e.c.stall e.c.src none (g.va + 4 * (j.seg + 1)) 4) (fun b _ => u32 b 0 == 64 && decide (j.lo ≤ u32 b 0))) = true := by decide +kernel
theorem wit_PickerWords_openLast :
    let s := wPut (wPickGo 2 64 (fun j => { j with phase := .append }) {}) 2228228 (natLe 4 64)
    pickGoes 2 s (fun e j x => (j.offs).any fun g => x.member + 1 == e.c.st.m && decide (j.seg < g.count - 1) && j.seg + 1 == g.count - 1 &&
      okAnd (s.tierRead e.c.stall e.c.src none (g.va + 4 * (j.seg + 1)) 4) (fun b _ => u32 b 0 == e.idx.count)) = true := by decide +kernel
theorem wit_PickerWords_window :
    let s := wPickGo 3 512 (fun j => { j with e := 512, rows := 8 }) {}
    pickGoes 3 s (fun e j _ => dedupRows e.c j == 2 ^ 32 && min 256 (j.e - (j.b + 256 * j.next)) == 256 && decide (j.b + 256 * j.next + 256 < j.e) &&
      okAnd (s.tierRead e.c.stall e.c.src none (e.idx.va + 4 * (j.b + 256 * j.next)) 1024) (fun b _ => b == List.replicate 1024 0)) = true := by decide +kernel
/-- Bytes of zeros read as words of zero. -/
theorem u32_zeros (n i : Nat) : u32 (List.replicate n 0) i = 0 := by
  have h (k : Nat) : u8 (List.replicate n 0) k = 0 := by
    simp only [u8, List.getD, List.getElem?_replicate]; split <;> rfl
  simp only [u32, u16, h]
theorem wit_PickerWords_windowWords :
    ((((List.range 256).map (fun i => let w := u32 (List.replicate 1024 0) (4 * i); if w = 0xFFFFFFFF ∨ 2 ^ 32 ≤ w then none else some w)).filterMap id).eraseDups).length ≤ 192 := by
  simp only [u32_zeros]; decide +kernel

/-! ### Witnesses: line accesses, APX, XFER, TIER -/

theorem wit_LineAccesses_reduce :
    let s := wLoom 1 wMmDraft 13 {}
    (s.loomStall 0 == some 0 && (match s.xlate 0 2097152 with
      | .at_ r _ _ (.store st a) => r.write && !quireBusy (s.stall 0).quire.state && ((s.locRead 0 r (.store st a) r.hint).1.any (·.length == 64)) &&
          !storePoisoned s.mem st (a / 64) && !reserveFrame st (64 * (a / 64) / frameSz) && (s.shelfLines (st / 3)).isEmpty && (s.shelfRead 0 r st (a / 64) 1).1.isSome &&
          (s.shelfWrite 0 r st (a / 64) 1 0 (List.replicate 64 7)).1 && !(s.loom 0).fault.faulted && !(s.loom 0).tierFault.valid
      | _ => false) && decide (s.xlate 0 (2 ^ 52 - 1) = .unmapped)) = true := by decide +kernel
theorem wit_LineAccesses_shelf :
    let s := wLoom 1 wMmDraft 13 {}
    let x : ShelfLine := { line := shelfLineKey 1 (frameSz * 30 / 64), stall := 0, region := 1, data := List.replicate 64 3 }
    let t : Dev := s.setShelf 0 [x]
    ((t.shelfRead 0 wReg 1 (frameSz * 30 / 64) 3).1 == some x.data && (t.shelfWrite 0 wReg 1 (frameSz * 30 / 64) 2 0 x.data).1) = true := by
  decide +kernel
theorem wit_LineAccesses_partial :
    let s := wLoom 1 wMmDraft 13 {}
    okAnd (s.tierWrite 0 (some 0) none false 2097152 [1, 2]) (fun _ _ => true) = true := by decide +kernel
theorem wit_LineAccesses_readOnly :
    let s := wLoom 1 wMmDraft 13 {}
    let t : Dev := s.modStall 0 fun y => { y with plan := y.plan.map fun p => { p with regions := [{ wReg with write := false }] } }
    (match t.xlate 0 2097152 with
      | .at_ r _ _ (.store _ _) => !r.write
      | _ => false) = true := by decide +kernel

/-- APX of two partials: TIN 1 with a depth of 2, TOUT 2. -/
def wApx : Nat := wOp 0x70 (1 * 2 ^ 52 + 2 * 2 ^ 48 + 1 * 2 ^ 40)
def wApxDev (x : LoomSt) : Dev := wLoom 7 ([wOp 0x04 (7 * 2 ^ 52)] ++ wDesc 1 0 0 0 2 0 ++ wDesc 2 0 0 2 1 0 ++ [wApx, wOp 0x03 0]) 9 x
def wApxJob : ApxJob := { smp := { op := 9, word := BitVec.ofNat 64 wApx }, j := 0 }

theorem wit_ApexWords_issue :
    let s := wApxDev { apxRun := [(1, (1, 255))] }
    ((s.ctx 0).isSome && (s.loom 0).word == some wApx && opc wApx == 0x70 && (s.loom 0).apx.isNone) = true := by decide +kernel

def apxReady (s : Dev) (want : Bool) : Bool :=
  let x := s.loom 0
  (s.ctx 0).any fun c => (x.apx).any fun j => x.live && (c.st.desc (apxTIN j.smp.w)).any fun di => (c.st.desc (apxTOUT j.smp.w)).any fun dz =>
    let ins := apxIns di j
    rdSlots c.stall x (ins ++ apxMls di ((c.st.desc (apxTML j.smp.w)).getD di) j) == .ready &&
      (ins.all (fun i => tagCoord (x.slot i).tag == tagCoord (x.slot (ins.headD 0)).tag)) == want &&
      wrSlots x 3 [ringSlot dz (c.at_ s dz j.smp 0 0 0)] == .ready
theorem wit_ApexWords_same : apxReady (wApxDev { apx := some wApxJob, slots := [(0, wFull), (1, wFull)] }) true = true := by decide +kernel
theorem wit_ApexWords_different :
    let off := mkTag { row := 1, col := 0, plane := 0, extR := 63, extC := 63, fmt := 0, scale := 0, stall := 0 }
    apxReady (wApxDev { apx := some wApxJob, slots := [(0, wFull), (1, { wFull with tag := off })] }) false = true := by decide +kernel

/-- XFER of a collective over group 1: TX 1, TZ 2, four tiles, axis 0; rank 0 of two. -/
def wXfer (coll : Nat) : Nat := wOp 0x80 (1 * 2 ^ 52 + (if coll = 5 then 0 else 2) * 2 ^ 48 + coll * 2 ^ 44 + 1 * 2 ^ 27)
def wXferDev (coll : Nat) (x : LoomSt) : Dev :=
  let s := wLoom 8 ([wOp 0x04 (8 * 2 ^ 52)] ++ wDesc 1 0 0 0 4 0 ++ wDesc 2 0 0 4 4 0 ++ [wXfer coll, wOp 0x03 0]) 9 x
  s.modStall 0 fun y => { y with groups := [(1, some { axis := 0, epoch := 5, members := [(0, 0), (1, 0)] })] }
def wXferSmp (coll : Nat) : Sample := { op := 9, word := BitVec.ofNat 64 (wXfer coll) }

theorem wit_XferWords_issue : (List.range 7).all (fun coll =>
    let s := wXferDev coll {}
    (s.ctx 0).any fun c => (s.loom 0).word == some (wXfer coll) && opc (wXfer coll) == 0x80 && xferColl (wXfer coll) == coll && (s.loom 0).xfer.isNone &&
      (s.xferEnv c (sampleOf (s.loom 0))).any fun e => (coll != 5 || (e.rank == 0 && xferTX (wXfer coll) != 0)) && e.g.axis == xferAxis (wXfer coll) &&
        e.g.routes.isEmpty) = true := by decide +kernel
theorem wit_XferWords_routes (r : Nat) : (([] : List (Option (Bool × Nat))).getD r (some (false, 0))).isSome = true := by simp
theorem wit_XferWords_aborts :
    let s := (wXferDev 2 { xfer := some { smp := wXferSmp 2 } }).modStall 0 fun y => { y with groups := [] }
    ((s.ctx 0).any fun c => (s.loom 0).live && ((s.loom 0).xfer).any fun j => xferColl j.smp.w == 2 && !j.aborted && (s.xferEnv c j.smp).isNone) = true := by
  decide +kernel
theorem wit_XferWords_goes :
    let o : XferOut := { k := 0, minus := false, dst := 1, coord := (0, 0, 0), st := .granted, tx := some 0 }
    let s := wXferDev 0 { xfer := some { smp := wXferSmp 0 } }
    let t := wXferDev 0 { xfer := some { smp := wXferSmp 0, outs := [o] } }
    ((s.ctx 0).any fun c => (s.loom 0).live && (s.loom 0).xferIn.isEmpty && ((s.loom 0).xfer).any fun j => (s.xferEnv c j.smp).isSome && j.own.isEmpty &&
      j.outs.isEmpty && j.toWrite.isEmpty && !j.aborted) = true ∧
    ((t.ctx 0).any fun c => (t.loom 0).live && ((t.loom 0).xfer).any fun j => (t.xferEnv c j.smp).isSome && j.own.isEmpty &&
      j.outs.find? (fun o => o.st == SendSt.granted) == some o) = true := by decide +kernel
theorem wit_XferWords_acked :
    let o : XferOut := { k := 0, minus := true, dst := 1, coord := (0, 0, 0), st := .sent, tx := some 0 }
    let s := wXferDev 0 { xfer := some { smp := wXferSmp 0, outs := [o] }, slots := [(0, wFull)] }
    let j : XferJob := { smp := wXferSmp 0, outs := [o] }
    (s.ctx 0).isSome = true ∧ (s.loom 0).xfer = some j ∧ j.outs.find? (fun o => o.st == .sent && o.minus == true) = some o ∧ o.tx = some 0 ∧
    (j.outs.erase o).any (fun q => q.tx == some 0) = false ∧ ((s.loom 0).slot 0).state = .full ∧ ((s.loom 0).slot 0).readers ≤ 1 := by decide +kernel

/-- TIER of a function over region 2; TZ 3, raw. -/
def wTierW (fn tz : Nat) : Nat := wOp 0x90 (fn * 2 ^ 52 + 2 * 2 ^ 40 + tz * 2 ^ 20)
def wTierDev (w : Nat) (x : LoomSt) : Dev := wLoom 10 ([wOp 0x04 (10 * 2 ^ 52)] ++ wDesc 3 0 2 4 1 0 ++ [w, wOp 0x03 0]) 5 x

theorem wit_TierWords_issue : (List.range 4).all (fun fn =>
    let w := wTierW fn 0
    let s := wTierDev w {}
    (s.ctx 0).any fun c => (s.loom 0).word == some w && opc w == 0x90 && (s.loom 0).tier.isNone && tierFN w == fn && tierEntry w == 0 && tierTZ w == 0 &&
      tierHint w == 0 && (c.plan.region (tierRegion w)).any (·.cellar)) = true := by decide +kernel
theorem wit_TierWords_fetch :
    let w := wTierW 1 3
    let small : Region := { wReg with num := 2, len := 128, va := 2 * 2097152 }
    let s0 := wTierDev w { tier := some { smp := { op := 5, word := BitVec.ofNat 64 w } } }
    let s : Dev := s0.modStall 0 fun y => { y with plan := y.plan.map fun p => { p with regions := [small] } }
    ((s.ctx 0).any fun c => (s.loom 0).live && ((s.loom 0).tier).any fun j => tierFN j.smp.w == 1 && (s.regionOf c.stall (tierRegion j.smp.w)).any fun r =>
      (c.st.desc (tierTZ j.smp.w)).any fun dz => dz.kind == 2 &&
        okAnd (s.tierRead c.stall c.src (some (tierHint j.smp.w)) r.va (min r.len (8192 * dz.depth))) (fun b _ => b.length == 128)) = true := by decide +kernel
theorem wit_TierWords_ends : ([2, 3] : List Nat).all (fun fn =>
    let w := wTierW fn 0
    let s := wTierDev w { tier := some { smp := { op := 5, word := BitVec.ofNat 64 w }, next := 1 } }
    (s.ctx 0).any fun c => (s.loom 0).live && ((s.loom 0).tier).any fun j => tierFN j.smp.w == fn && j.next != 0 &&
      (s.regionOf c.stall (tierRegion j.smp.w)).any fun r => if fn = 2 then s.noneMoving c.stall r .writingBack else s.noGuests c.stall r) = true := by decide +kernel

def wEntry (next : Nat) : RouteEntry :=
  { layer := 0, region := 2, action := 0, hint := 1, next := next, lead := 2, offset := 0, len := 64, rowBase := 0, colBase := 0, planeBase := 0, sr := 1 }
def wPass (q : PassSt) : Dev :=
  let w := wTierW 0 0
  let s := wTierDev w { tier := some { smp := { op := 5, word := BitVec.ofNat 64 w } } }
  s.modStall 0 fun y => { y with passes := [q], plan := y.plan.map fun p => { p with route := [wEntry 1, wEntry 0xFFFF] } }
theorem wit_TierWords_start :
    let q : PassSt := { station := 0, op := 5, runSeq := 0, ctr := [], entries := [{ pos := 0, entry := 0 }] }
    let s := wPass q
    (s.passOf 0 == some (0, q) && (s.loom 0).live && ((s.stall 0).plan).any fun p => routeAt p (passEntry p q) 1 == some 1 &&
      (p.route[1]?).any (fun re => decide (re.action < 2) && decide (1 < q.frontier + leadOf (s.stall 0) 1 re)) && decide (1 < passLen p (passEntry p q))) = true := by
  decide +kernel
theorem wit_TierWords_lowest (m : Nat) (h : m ≤ 1) : m = 1 ↔ ∀ y ∈ ([{ pos := 0, entry := 0 }] : List RoutePos), y.pos ≠ m := by
  simp; omega
theorem wit_TierWords_complete :
    let q : PassSt := { station := 0, op := 5, runSeq := 0, ctr := [], frontier := 1,
                        entries := [{ pos := 0, entry := 0, complete := true }, { pos := 1, entry := 1, done := [0] }] }
    let s := wPass q
    (s.passOf 0 == some (0, q) && ((s.stall 0).plan).any fun p => (p.station q.station).any fun t =>
      q.entries.find? (fun y => !y.complete && t.looms.all (fun m => y.done.contains m)) == some { pos := 1, entry := 1, done := [0] } &&
        p.route[1]?.isSome && decide (passLen p (passEntry p q) ≤
          ((q.entries.map fun z => if z.pos = 1 then { z with complete := true } else z).filter (·.complete)).length)) = true := by decide +kernel

/-! ### Witnesses: plans, regulators, tier units, faults -/

def wUnloaded (st : PlanState) : Dev := wRun.modStall 0 fun y => { y with plan := none, blk := { state := st, len := 64 } }

theorem wit_PlanCommandsAreAccepted :
    let x := wUnloaded .none
    let y := wUnloaded .placing
    let z := wRun
    let dev (st : PlanState) : Dev := { wRun with stalls := [], hub := { wRun.hub with dblk := { state := st } } }
    x.hub.linkUp = true ∧ (x.fn 0).wbuf = [] ∧ (x.fn 1).wbuf = [] ∧ (x.stall 0).blk.state.busy = false ∧ (y.stall 0).blk.state.busy = true ∧
    ((z.stall 0).blk.state = .loaded ∧ (z.stall 0).plan.isSome = true ∧ z.devInProgress = false ∧ z.tally.busy = false ∧ z.coreUp 2 = true ∧ z.links.grants = [] ∧ z.links.reqs = []) ∧
    (dev .none).hub.dblk.state.busy = false ∧ (dev .verifying).hub.dblk.state.busy = true ∧ (dev .loaded).hub.dblk.state = .loaded ∧
    (dev .loaded).hub.held = [] ∧ (dev .loaded).stalls = [] := by
  decide +kernel

def wHeld (c : HeldCmd) (d : Dev) : Dev := d.modHub fun h => { h with held := [c] }
def wVerify (stage : Tab Byte) (len : Nat) : Dev :=
  wHeld { tgt := 1, unload := false } (wRun.modStall 0 fun y => { y with plan := none, blk := { state := .waiting, len := BitVec.ofNat 27 len }, stage := stage })

theorem wit_PlanChecksDecide_refuse :
    let s := wVerify [] 64
    (s.stall 0).blk.state = .waiting ∧ (s.hub.held.any fun c => c.tgt == 1 && !c.unload && !c.verified) = true ∧ s.mayVerify (.stall 0) = true ∧
    s.coreUp 0 = true ∧ s.coreUp 2 = true ∧ planRefuse (s.planEnv (.stall 0)) (s.staged (.stall 0)) = some (refuse 1 0 0 0) := by decide +kernel

/-- A stall plan of one station and no channel; its digest is the one word that the spec does not let a test compute. -/
def wPlanDraft : List Nat := [wOp 0x04 (2 * 2 ^ 52)] ++ wDesc 1 0 0 0 1 0 ++ (wDesc 3 0 0 2 1 0).set 2 ((wDesc 3 0 0 2 1 0).getD 2 0 + 2 ^ 26) ++
  [wSend, wOp 0x03 0]
def wPlanHead : List Byte :=
  natLe 4 0x4C485446 ++ (natLe 2 0x0300 ++ (natLe 2 2 ++ (natLe 4 264 ++ (natLe 4 264 ++ (natLe 2 0 ++ (natLe 2 1 ++ (natLe 4 0 ++ natLe 8 77)))))))
def wPlanTail : List Byte :=
  List.replicate 64 0 ++ ((natLe 2 1 ++ (natLe 2 0 ++ (natLe 4 144 ++ (natLe 4 120 ++ natLe 4 1)))) ++
    ((natLe 2 0x101 ++ (natLe 2 15 ++ (natLe 2 0 ++ ([2, 0] ++ (natLe 2 1 ++ (natLe 2 11 ++ (natLe 4 1 ++ (natLe 4 0xFFFFFFFF ++ List.replicate 4 0)))))))) ++
      (natLe 2 0 ++ (List.replicate 6 0 ++ wPlanDraft.flatMap (natLe 8)))))

/-- The plan with a digest. -/
def wPlanOf (d : BitVec 256) : List Byte := wPlanHead ++ (natLe 32 d.toNat ++ wPlanTail)
def wPlanBytes : List Byte := wPlanOf (Config.sha3_256 (wPlanHead ++ List.replicate 32 0 ++ wPlanTail))
def wGood : Dev := wVerify (wPlanBytes.zipIdx.map fun e => (e.2, e.1)) 264

/-- The bytes of a number are read back as the number. -/
theorem leNat_natLe (n v : Nat) : leNat (natLe n v) = v % 256 ^ n := by
  induction n generalizing v with
  | zero => simp [natLe, leNat, Nat.mod_one]
  | succ n ih =>
    have h : (BitVec.ofNat 8 v).toNat = v % 256 := by simp
    rw [natLe, leNat, ih, h, Nat.pow_succ', Nat.mod_mul]
theorem natLe_length (n v : Nat) : (natLe n v).length = n := by
  induction n generalizing v with
  | zero => rfl
  | succ n ih => simp [natLe, ih]
theorem wPlan_digest : planDigest wPlanBytes = Config.sha3_256 (wPlanHead ++ List.replicate 32 0 ++ wPlanTail) := by
  have h (d : BitVec 256) : slice (wPlanOf d) 32 32 = natLe 32 d.toNat := by
    have a : wPlanHead.length = 32 := by decide
    rw [slice, wPlanOf, List.drop_left' a, List.take_left' (natLe_length _ _)]
  rw [planDigest, wPlanBytes, h, leNat_natLe, show 256 ^ 32 = 2 ^ 256 from rfl, Nat.mod_eq_of_lt (BitVec.isLt _), BitVec.ofNat_toNat,
    BitVec.setWidth_eq]
/-- Bytes listed under their positions read back. -/
theorem tget_zipIdx {α : Type} (d : α) (b : List α) (k j : Nat) (h : j < b.length) :
    tget d ((b.zipIdx k).map fun e => (e.2, e.1)) (k + j) = b[j] := by
  induction b generalizing k j with
  | nil => simp at h
  | cons a t ih =>
    cases j with
    | zero => simp [tget]
    | succ j =>
      have := ih (k + 1) j (by simpa using h)
      simp only [List.zipIdx_cons, List.map_cons, tget, show k + (j + 1) ≠ k by omega, if_false, List.getElem_cons_succ]
      rw [← this]; congr 1; omega
theorem tgetRange_zipIdx {α : Type} (d : α) (b : List α) :
    tgetRange d (b.zipIdx.map fun e => (e.2, e.1)) 0 b.length = b := by
  apply List.ext_getElem
  · simp [tgetRange]
  · intro i h _
    simp only [tgetRange, List.getElem_map, List.getElem_range]
    exact tget_zipIdx d b 0 i (by simpa [tgetRange] using h)
theorem wPlan_bytes : wGood.staged (.stall 0) = wPlanBytes := by
  have h : wPlanBytes.length = 264 := by decide +kernel
  have g := tgetRange_zipIdx (0 : Byte) wPlanBytes
  rw [h] at g; exact g
theorem wPlan_rest :
    let e := wGood.planEnv (.stall 0)
    sigRefuse e wPlanBytes = none ∧ tableRefuse e wPlanBytes = none ∧ recordsRefuse e wPlanBytes = none ∧ stallRefuse e wPlanBytes = none := by decide +kernel
/-- The digest's place in the bytes that R205 hashes is zero, so the hash is the one that the plan carries. -/
theorem hashed_bytes (a d c : List Byte) (ha : a.length = 32) (hd : d.length = 32) :
    ((a ++ (d ++ c)).zipIdx.map fun e => if 32 ≤ e.2 ∧ e.2 < 64 then (0 : Byte) else e.1) = a ++ List.replicate 32 0 ++ c := by
  apply List.ext_getElem
  · simp [ha, hd]; omega
  · intro i _ _
    simp only [List.getElem_map, List.getElem_zipIdx, List.getElem_append, List.getElem_replicate, List.length_append, List.length_replicate, ha, hd, Nat.zero_add]
    rcases Nat.lt_or_ge i 32 with h | h
    · simp [h, show ¬32 ≤ i by omega, show i < 64 by omega]
    · rcases Nat.lt_or_ge i 64 with g | g
      · simp [h, g, show ¬i < 32 by omega]
      · simp [show ¬i < 64 by omega, show ¬i < 32 by omega, show ¬i - 32 < 32 by omega, Nat.sub_sub]
theorem wPlan_header : headerRefuse (wGood.planEnv (.stall 0)) wPlanBytes = none := by
  have h1 : u32 wPlanBytes 8 = 264 := by decide +kernel
  have h2 : u32 wPlanBytes 12 = 264 := by decide +kernel
  have h3 : u32 wPlanBytes 0 = 0x4C485446 ∧ u16 wPlanBytes 4 = 0x0300 ∧ u16 wPlanBytes 6 = 2 ∧ u16 wPlanBytes 16 = 0 := by decide +kernel
  have h4 : (wGood.planEnv (.stall 0)).dev = false ∧ (wGood.planEnv (.stall 0)).stall = 0 ∧ (wGood.planEnv (.stall 0)).lenReg = 264 ∧
    264 ≤ (wGood.planEnv (.stall 0)).stageBytes := by decide +kernel
  have h5 : slice wPlanBytes 0 264 = wPlanBytes := List.take_of_length_le (Nat.le_of_eq (show wPlanBytes.length = 264 by decide +kernel))
  have h6 : (wPlanBytes.zipIdx.map fun e => if 32 ≤ e.2 ∧ e.2 < 64 then (0 : Byte) else e.1) = wPlanHead ++ List.replicate 32 0 ++ wPlanTail :=
    hashed_bytes _ _ _ (by decide) (natLe_length _ _)
  simp only [headerRefuse, h1, h2, h3.1, h3.2.1, h3.2.2.1, h3.2.2.2, h4.1, h4.2.1, h4.2.2.1, h4.2.2.2, h5, h6, wPlan_digest,
    firstSome, if_true, and_self, Nat.le_refl, Nat.reduceMod]
  rfl
theorem wit_PlanChecksDecide_accept :
    ((wGood.stall 0).blk.state = .waiting ∧ (wGood.hub.held.any fun c => c.tgt == 1 && !c.unload && !c.verified) = true ∧
      wGood.mayVerify (.stall 0) = true ∧ wGood.coreUp 0 = true ∧ wGood.coreUp 2 = true) ∧
    planRefuse (wGood.planEnv (.stall 0)) (wGood.staged (.stall 0)) = none := by
  refine ⟨by decide +kernel, ?_⟩
  have d : (wGood.planEnv (.stall 0)).dev = false := by decide +kernel
  have n : (!(wGood.planEnv (.stall 0)).dev && !(wGood.planEnv (.stall 0)).devPlan.stalls.any (fun s => s.stall == (wGood.planEnv (.stall 0)).stall)) = false := by
    decide +kernel
  obtain ⟨h1, h2, h3, h4⟩ := wPlan_rest
  rw [wPlan_bytes, planRefuse, if_neg (by rw [n]; exact Bool.false_ne_true), wPlan_header, h1, h2, h3, d, if_neg Bool.false_ne_true, h4]; rfl

theorem wit_PlansTakeForce_placing :
    let c : HeldCmd := { tgt := 1, unload := false, verified := true }
    let s := wHeld c (wUnloaded .verifying)
    s.hub.held.find? (fun c => c.tgt == 1) = some c ∧ (s.stall 0).blk.state = .verifying ∧ s.tally.busy = false ∧ s.coreUp 2 = true ∧ (s.stall 0).plan = none := by
  decide +kernel
theorem wit_PlansTakeForce_device :
    let c : HeldCmd := { tgt := 0, unload := false, verified := true }
    let s := (wHeld c wRun).modHub fun h => { h with dcand := some { stalls := [wRec] } }
    s.hub.held.find? (fun c => c.tgt == 0) = some c ∧ s.coreUp 2 = true ∧ s.hub.dcand = some { stalls := [wRec] } := by decide +kernel
theorem wit_PlansTakeForce_regions :
    let p : StallPlan := { stations := [{ num := 0, role := 2, looms := [0], runHop := 1, cplHop := none, draft := wPlanDraft }], regions := [wCel] }
    let s := (wUnloaded .placing).modStall 0 fun y => { y with cand := some p, blocks := [] }
    ((s.stall 0).cand = some p ∧ (s.stall 0).blk.state = .placing ∧ s.coreUp 2 = true ∧ s.hub.moduleFault = false ∧ s.power.dark = [] ∧ s.fw.held = []) ∧
    ((s.stallRec 0).any fun r => (List.range 96).all fun c => !r.clusters.getLsbD c || s.coreUp (16 + c)) = true ∧ draftFailures p = [] ∧
    (placeRegions (s.newRegions 0 p.regions)
      (((s.regions 0).filter (fun r => !p.regions.any (sameRegion r))).foldl (fun t r => t.releaseRegion 0 r) s).mem).isSome = true ∧
    (p.stations.flatMap (·.looms)).Nodup := by decide +kernel
theorem wit_PlansTakeForce_zeroing :
    let s := wRun.modStall 0 fun y => { y with zeroing := [(⟨30, 0⟩, 2, 1, false)] }
    (s.stall 0).zeroing ≠ [] ∧ s.zeroServed 0 = true ∧ s.hub.dblk.state ≠ .unloading := by decide +kernel

theorem wit_RegulatorsServeInTurn :
    let at_ (r : RegSt) : Dev := wRun.modReg 0 fun _ => r
    let one := at_ { waiting := [(0, 1)], sinceDevice := 65535 }
    let dev := at_ { waiting := [(96, 1)] }
    ((one.reg (regKey (.store 0))).sinceDevice < 65536 ∧ 0 < tget 0 (one.reg 0).waiting 0 ∧ 0 < one.weightAt (.store 0) 0) ∧
    (0 < tget 0 (dev.reg 0).waiting 96 ∧ (dev.reg 0).waiting.all (fun e => e.1 == 96) = true) ∧
    ((at_ {}).reg 0).waiting = [] ∧ ((at_ {}).reg 0).withdrawn = [] ∧ ((wRun.modStall 0 fun y => { y with faulted := true }).stall 0).faulted = true := by decide +kernel

theorem wit_CalledUpGranules :
    let at_ (r : Nat) (f : Block → Block) : Dev := wRun.modBlock 0 r 0 f
    let up := at_ 2 fun x => { x with guest := some (5, 40), moving := [(31, .callingUp)] }
    let back := at_ 2 fun x => { x with guest := some (5, 40), present := 1, dirty := 1, moving := [(0, .writingBack)] }
    let down := at_ 2 fun x => { x with guest := some (5, 40), present := 3, moving := [(1, .puttingDown)] }
    let move := (at_ 1 fun x => { x with fresh := some ⟨31, 0⟩, moved := 1 }).modMem fun m => m.modStack 1 fun y => { y with retiring := [30] }
    (∀ e ∈ up.hub.fns, e.2.wbuf = []) ∧
    ((up.regionOf 0 2) == some wCel && (List.range 32).find? (fun g => tget .still (up.block 0 2 0).moving g == .callingUp) == some 31 &&
      (up.block 0 2 0).home.isSome && !(up.block 0 2 0).waitPool && wCel.cellar && up.mem.portUp (celPortOf up.mem wCel 0)) = true ∧
    (tget .still (back.block 0 2 0).moving 0 = .writingBack ∧ (back.block 0 2 0).home.isSome = true ∧ (back.block 0 2 0).guest.isSome = true) ∧
    (tget .still (down.block 0 2 0).moving 1 = .puttingDown ∧ (down.block 0 2 0).dirty.getLsbD 1 = false ∧ clrBit (down.block 0 2 0).present 1 ≠ 0) ∧
    ((move.block 0 1 0).home.any (onRetiring move.mem wReg 0) = true ∧ wReg.migrate = true ∧
      (List.range 32).find? (fun g => !(move.block 0 1 0).moved.getLsbD g) = some 1 ∧ setBit (move.block 0 1 0).moved 1 ≠ BitVec.allOnes 32) := by
  decide +kernel

theorem wit_TierUnitEvents :
    let s := wRun
    let t := s.modMem fun m => { m with celState := tset .absent m.celState 3 .failed }
    (s.mem.stack 23).state = .inService ∧ s.mem.portUp 3 = true ∧ tget .absent t.mem.celState 3 = .failed ∧ t.coreUp 3 = true ∧
    (∀ e ∈ t.hub.fns, e.2.wbuf = []) := by decide +kernel

theorem wit_StallFaults :
    let loom := wLoom 1 wMmDraft 13 { fault := { faulted := true } }
    let s : Dev := { wRun with power := { wRun.power with lost := [0] } }
    let t : Dev := { wRun with fw := { wRun.fw with held := [16] } }
    let u := wRun.modHub fun h => { h with moduleFault := true }
    (loom.stallExists 0 = true ∧ (loom.stall 0).faulted = false ∧ loom.causeHolds 0 (.loom 0) = true) ∧ s.causeHolds 0 .regulation = true ∧
    t.causeHolds 0 .coreHeld = true ∧ u.causeHolds 0 .moduleFault = true ∧ wRun.hub.moduleFault = false ∧
    (let v := wRun.modStall 0 fun y => { y with faulted := true }
     (v.stall 0).faulted = true ∧ (v.stall 0).notified = false ∧ v.coreUp 2 = true) := by decide +kernel

/-! ### Witnesses: firmware, supply, power, management, security. Whether an image verifies rests on opaque functions (log entries 4
and 6), so those witnesses are given for any bytes that do. -/

theorem wit_FirmwareCrashes :
    let s := wRun
    let full : Dev := s.modFw fun f => { f with dumpBuf := List.replicate 4 (1, []), times := [(111, [0, 1, 2])] }
    (s.alive (procNum (.cluster 95)) = true ∧ ((tget [] s.fw.times 111).filter (fun t => decide (600000000 ≤ t + 600000000))).length < 3 ∧ s.fw.dumpBuf.length < 4) ∧
    (full.alive 111 = true ∧ 3 ≤ ((tget [] full.fw.times 111).filter (fun t => decide (600000000 ≤ t + 600000000))).length ∧ 4 ≤ full.fw.dumpBuf.length) ∧
    full.fw.handing = [] := by decide +kernel
theorem wit_FirmwareStarts (b : List Byte) (h : slotSound 3 b = true) :
    let s : Dev := { wRun with fw := { released := [0, 1, 2, 3], down := [2], slots := [(6, some b)] }, power := { state := .run, ramped := true } }
    let t : Dev := { s with fw := { released := [0, 1, 3], slots := [(6, some b)] } }
    (s.canBoot (procNum .scheduler) = true ∧ s.slotOk (imageOf 2) (s.fw.activeKey (imageOf 2)) = true ∧ 2 ∉ s.fw.held ∧ 2 ∉ s.fw.handing ∧ s.sec.waiting = none ∧
      2 ∈ s.fw.down) ∧
    (t.canBoot 2 = true ∧ t.slotOk (imageOf 2) (t.fw.activeKey (imageOf 2)) = true ∧ 2 ∉ t.fw.released) := by
  have g (s : Dev) (k : s.fw.slots = [(6, some b)]) (f : s.sec.floors = []) : s.slotOk 3 6 = true := by
    simp [Dev.slotOk, FwSt.image, k, tget, h, SecSt.floor, f]
  exact ⟨⟨rfl, g _ rfl rfl, show 2 ∉ [] by decide, show 2 ∉ [] by decide, rfl, show 2 ∈ [2] by decide⟩, rfl, g _ rfl rfl, show 2 ∉ [0, 1, 3] by decide⟩
theorem wit_DumpsAreCopied :
    let s := wRun.modFw fun f => { f with dumpBuf := [(33, [])] }
    s.fw.dumpBuf = (33, []) :: [] ∧ s.coreUp 3 = true ∧ s.power.nvInh = false ∧ s.power.nvWarn = false := by decide +kernel

theorem wit_ActivationStarts (b : List Byte) (h : slotSound 5 b = true) :
    let s : Dev := wRun.modFw fun f => { f with slots := [(11, some b)] }
    s.hub.linkUp = true ∧ (s.modFw fun f => { f with actImage := 5 }).activationCode 5 false = 0 := by
  refine ⟨rfl, ?_⟩
  have g : ((wRun.modFw fun f => { f with slots := [(11, some b)] }).modFw fun f => { f with actImage := 5 }).slotOk 5 11 = true := by
    simp [Dev.slotOk, FwSt.image, Dev.modFw, tget, h, SecSt.floor, wRun, wBase]
  have k : ((wRun.modFw fun f => { f with slots := [(11, some b)] }).modFw fun f => { f with actImage := 5 }).fw.otherKey 5 = 11 := rfl
  have e : ((wRun.modFw fun f => { f with slots := [(11, some b)] }).modFw fun f => { f with actImage := 5 }).power.emerg = 0 := rfl
  rw [Dev.activationCode, k, g, e]; rfl
theorem wit_ActivationRefused : wRun.hub.linkUp = true ∧ (wRun.modFw fun f => { f with actImage := 7 }).activationCode 7 false = 5 := by decide +kernel
theorem wit_ActivationGoesOn :
    let a : ActJob := { image := 5, wait := [16, 111] }
    let s := wRun.modFw fun f => { f with act := some a }
    let t := wRun.modFw fun f => { f with act := some { a with wait := [], writing := true } }
    let u := wRun.modFw fun f => { f with nv := [.log 1] }
    (s.fw.act = some a ∧ procNum (.cluster 95) ∈ a.wait ∧ ([] : List Byte).length ≤ 65472) ∧
    (t.fw.act = some { a with wait := [], writing := true } ∧ a.pldm = false ∧ t.mgt.activating = false) ∧
    (u.fw.nv = [.log 1] ∧ 2900 < 2901) := by decide
theorem wit_ActivationAndFlash_inhibit :
    let s := wRun.modPower fun w => { w with nvInh := true }
    s.power.state ≠ .off ∧ 39999 < 40000 ∧ 3049 < 3050 ∧ 41999 < 42000 ∧ 3149 < 3150 ∧ s.power.nvInh = true ∧ s.hub.logLost = 0 ∧ s.fw.bootHeld = none ∧
    s.fw.act = none := by decide

theorem wit_SupplyLimits : wRun.mainOn = true ∧ wRun.power.state = .run ∧ wRun.hub.linkUp = true ∧ 37999 < 38000 ∧ 62000 < 62001 ∧ 84999 < 85000 ∧ 29999 < 30000 := by
  decide

theorem wit_PowerUpSteps :
    let st (w : PowerSt) : Dev := { wRun with power := w }
    let ready := st { state := .standby }
    let ramped := st { state := .ramp, ramped := true }
    let trained := st { state := .ramp, ramped := true, trained := true }
    (st { state := .off, aux := false }).power.state = .off ∧ (st { state := .off, aux := true }).power.aux = true ∧
    (ready.power.trip = 0 ∧ ready.power.stay = false ∧ ready.coreUp 1 = true ∧ 3 ∈ ready.fw.released) ∧
    (ramped.power.trained = false ∧ ramped.coresSettled = true ∧ (23 : StackId) ∉ ([] : List StackId)) ∧
    (trained.power.state = .ramp ∧ trained.power.trained = true ∧ ∀ k : StackId, (trained.mem.stack k.val).state ≠ .training) := by decide +kernel

theorem wit_PowerUpSteps_ports :
    let ports : List (CelPortId × Bool) := [(0, true), (1, true), (2, true), (3, true)]
    let cap : List W32 := [4194304, 1048576, 4194304, 4194304]
    (∀ p : CelPortId, ∃ e ∈ ports, e.1 = p ∧ e.2 = true) ∧ 1048576 ∈ cap ∧ (∀ c ∈ cap, (1048576#32).toNat ≤ c.toNat) ∧
    4194304 ≤ 4 * (1048576#32).toNat := ⟨by decide, by simp, by simp, by simp⟩

theorem wit_PowerLoopsAndEmergencies :
    let s := wRun
    let lost : Dev := s.modPower fun w => { w with lost := [128] }
    let hot : Dev := s.modPower fun w => { w with emerg := 1 }
    (s.power.state = .run ∧ s.coreUp 1 = true ∧ 95 ∉ s.power.lost ∧ 95 ∉ s.power.dark ∧ s.active 95 = false) ∧
    min (10000 * min 3800 s.power.pcap.toNat) (882 * 48000) < 10 * 3800001 ∧ s.mainOn = true ∧ s.clusterStall 0 = some 0 ∧ 128 ∈ lost.power.lost ∧
    (s.emergHolds (.therm 1010) = true ∧ s.power.emerg.getLsbD (emergBit (.therm 1010)) = false) ∧
    (s.emergHolds (.cool 421 50 false) = true ∧ s.emergHolds (.cool 420 50 false) = false ∧ s.emergHolds (.reg true) = true) ∧
    (hot.emergHolds (.therm 1009) = false ∧ hot.power.emerg.getLsbD (emergBit (.therm 1009)) = true) := by decide +kernel

theorem wit_ManagementMessages :
    let s := wRun
    let u : Dev := s.modMgt fun m => { m with updated := [1, 3, 5] }
    s.mctpUp .i3c = true ∧ s.mctpUp .vdm = true ∧ s.power.state = .run ∧ s.fw.act = none ∧ s.power.nvInh = false ∧ s.power.nvWarn = false ∧
    [5, 3, 2, 4, 1].filter (fun i => u.mgt.updated.contains i) = 5 :: [3, 1] ∧ u.mgt.activating = false := by decide +kernel
theorem wit_ManagementActivates (b : List Byte) (h : slotSound 5 b = true) :
    (wRun.modFw fun f => { f with slots := [(11, some b)] }).activationCode 5 true = 0 := by
  have g : (wRun.modFw fun f => { f with slots := [(11, some b)] }).slotOk 5 11 = true := by
    simp [Dev.slotOk, FwSt.image, Dev.modFw, tget, h, SecSt.floor, wRun, wBase]
  have k : (wRun.modFw fun f => { f with slots := [(11, some b)] }).fw.otherKey 5 = 11 := rfl
  have e : (wRun.modFw fun f => { f with slots := [(11, some b)] }).power.emerg = 0 := rfl
  rw [Dev.activationCode, k, g, e]; rfl

/-- A command of the security core, unsigned, over a key of zeros. -/
def wSecCmd (t : Nat) : List Byte := natLe 2 t ++ (natLe 2 1360 ++ List.replicate 1356 0)
theorem wit_SecurityCoreCommands_fuse :
    wRun.sec.state ≠ 1 ∧ wRun.coreUp 0 = true ∧ u16 (wSecCmd 0x302) 0 = 0x302 ∧ wRun.secCode (wSecCmd 0x302) = 0 := by decide +kernel
theorem wit_SecurityCoreCommands_present :
    let s := wRun.modSec fun x => { x with opFuses := [(keyDigest (slice (wSecCmd 0x301) 48 1312), true)] }
    u16 (wSecCmd 0x301) 0 = 0x301 ∧ s.secCode (wSecCmd 0x301) = 0 := by
  refine ⟨by decide +kernel, ?_⟩
  have a : u16 (wSecCmd 0x301) 0 = 0x301 := by decide +kernel
  have b : u16 (wSecCmd 0x301) 2 = 1360 := by decide +kernel
  have c : (wSecCmd 0x301).length = 1360 := by decide +kernel
  have d : allZero (wSecCmd 0x301) 4 4 = true := by decide +kernel
  simp [Dev.secCode, a, b, c, d, secPayload, SecSt.signed, SecSt.opDigest, Dev.modSec]
theorem wit_SecurityCoreCommands_refused : ([0x301, 0x303, 0x304, 0x305, 0x306] : List Nat).all (fun t =>
    u16 (wSecCmd t) 0 == t && wRun.secCode (wSecCmd t) != 0) = true := by decide +kernel
theorem wit_SecurityCoreCommands_spdm :
    let s := wRun.modSec fun x => { x with spdm := 3 }
    s.mctpUp .vdm = true ∧ s.coreUp 0 = true ∧ 3 ≤ s.sec.spdm ∧ s.sec.identity = true ∧ s.power.state ≠ .off ∧ s.sec.testOpen = false := by decide +kernel

/-! ### Witnesses: links, rosters, quire, the meter, the invariant -/

def wLink (x : LinkOne) : Dev := wRun.modLinks fun y => { y with links := tset {} y.links 95 x }
def wFrameOf (vc : Nat) : Frame := { idleFrame with vc := vc, payload := [1, 2] }

theorem wit_LinkCommands_send :
    let up : LinkOne := { state := .up }
    let a := wLink { up with replay := [(4095, wFrameOf 0)] }
    let b := wLink { up with ctl := [wFrameOf 3] }
    let c := wLink { up with loc := [(0, [wFrameOf 1])] }
    ((a.link 95).replay[(a.link 95).cursor]? = some (4095, wFrameOf 0) ∧ (a.link 95).state = .up) ∧
    ((b.link 95).replay[(b.link 95).cursor]? = none ∧ (b.link 95).replay.length < 512 ∧ (b.link 95).ctl.find? (b.link 95).credit = some (wFrameOf 3)) ∧
    (tget [] (c.link 95).loc 0 = [wFrameOf 1] ∧ twf [] (c.link 95).loc = true ∧ (c.link 95).credit (wFrameOf 1) = true ∧ 0 < c.weightAt (.link 95) 0) ∧
    ((wLink up).link 95).ctl = [] ∧ ((wLink up).link 95).loc = [] ∧ ((wLink up).link 95).fwd = [] := by decide +kernel
theorem wit_LinkCommands_states :
    let t := wLink { state := .training }
    (t.link 95).state = .training ∧ t.coreUp 3 = true ∧ ((wLink { state := .down }).link 95).state = .down := by decide +kernel
theorem wit_LinkCommands_receive :
    let frame (type lseq : Nat) : List Byte := natLe 2 type ++ (natLe 2 lseq ++ List.replicate 524 0)
    let s := wLink { state := .up, rxSeq := 4095 }
    let seqOf (b : List Byte) : Nat := u16 b 2 % 4096
    (s.link 95).state = .up ∧ bit (u16 (frame 1 4095) 4) 12 = false ∧ u8 (frame 1 4095) 0 % 16 = 1 ∧ seqOf (frame 1 4095) = (s.link 95).rxSeq ∧
    u8 (frame 2 0) 0 % 16 = 2 ∧ seqOf (frame 2 0) ≠ (s.link 95).rxSeq ∧ (seqOf (frame 2 0) + 4096 - (s.link 95).rxSeq) % 4096 < 2048 ∧
    (s.link 95).naked = false ∧ u8 (frame 0 7) 0 % 16 = 0 := by decide +kernel

def wMsg (op : Nat) : CtlMsg :=
  { op := op, srcDev := 1, srcStall := 0, dstStall := 0, group := 1, member := 0, minus := false, epoch := 5, row := 0, col := 0, plane := 0, link := 0 }
def wInbox (m : CtlMsg) (d : Dev) : Dev := d.modLinks fun y => { y with inbox := [m] }
theorem wit_ControlMessages_req :
    let m := wMsg 1
    let s := wInbox m (wXferDev 2 {})
    let full := wInbox m (wXferDev 2 { slots := [(4, wFull)] })
    let frozen := wInbox m (wXferDev 2 { frzFault := true })
    let stale := wInbox { m with epoch := 4 } (wXferDev 2 {})
    let absent := wInbox { m with group := 9 } (wXferDev 2 {})
    s.links.inbox.find? (fun m => m.op == 1) = some m ∧ s.links.inbox.find? (fun m => m.op == 5) = none ∧ (s.stall 0).settled = false ∧
    ((s.groupLoom 0 1 0).any fun e => e.1 == 0 && (s.groupTz 0 e.2 1).any fun dz => ringSlot dz (0, 0, 0) == 4) = true ∧ (s.loom 0).live = true ∧
    s.ctlJudge m = none ∧ ((s.loom 0).slot 4).state = .empty ∧ ((full.loom 0).slot 4).state ≠ .empty ∧ (frozen.loom 0).live = false ∧
    stale.ctlJudge { m with epoch := 4 } ≠ none ∧ absent.groupLoom 0 9 0 = none := by decide +kernel
theorem wit_ControlMessages_replies : ([2, 3, 4, 5] : List Nat).all (fun op =>
    let m := wMsg op
    let o : XferOut := { k := 0, minus := false, dst := 1, coord := (0, 0, 0), st := .requested, tx := some 0 }
    let j : XferJob := { smp := wXferSmp 2, outs := [o] }
    let s := wInbox m (wXferDev 2 { xfer := some j })
    s.replyTo m == some (0, j, o) && s.links.inbox.find? (fun m => m.op == op) == some m && (s.ctx 0).isSome && !j.aborted) = true := by decide +kernel

/-- A staged roster record of group 1 with two members. -/
def wRosterBytes (epoch : Nat) : List Byte :=
  natLe 2 0x701 ++ (natLe 2 3 ++ (natLe 2 1 ++ ([255, 0] ++ (natLe 4 epoch ++ (natLe 4 2 ++ (natLe 4 0 ++ (natLe 4 1 ++ natLe 8 0)))))))
def wRosterDev (epoch : Nat) : Dev := (wXferDev 2 {}).modStall 0 fun y => { y with stage := tsetRange 0 [] 0 (wRosterBytes epoch) }
theorem wit_Rosters_judged :
    let s := wRosterDev 6
    let away : Dev := s.modFw fun f => { f with down := [2] }
    (s.hub.linkUp = true ∧ (s.fn 1).wbuf = [] ∧ (s.stall 0).rstState ≠ .busy ∧ (s.stall 0).plan.isSome = true ∧ (s.stall 0).blk.state = .loaded ∧ s.coreUp 2 = true) ∧
    away.coreUp 2 = false ∧ s.judgeRoster 0 1 = .inr ({ group := 1, axis := 255, epoch := 6, members := [(0, 0), (1, 0)] }, []) ∧
    s.judgeRoster 0 2 = .inl 3 ∧ (wRosterDev 5).judgeRoster 0 1 = .inl 4 := by decide +kernel
theorem wit_Rosters_done :
    let busy (x : LoomSt) : Dev := (wXferDev 2 x).modStall 0 fun y => { y with rstState := .busy, rstGroup := 1 }
    let s := busy {}
    let t := busy { xfer := some { smp := wXferSmp 2, aborted := true } }
    ((s.stall 0).rstState = .busy ∧ (s.stall 0).rstWaits = false ∧ s.coreUp 2 = true ∧ s.groupXfers 0 1 = []) ∧
    t.groupXfers 0 1 = [0] ∧ ((t.loom 0).xfer.map (·.aborted)) = some true := by decide +kernel

/-- A quire of two members; this one of the rank given. SRC region 1, COPY region 2 and STG, PAR regions 3 and 4, entries of 128 bytes. -/
def wQuireRec (data : Bool) : List Byte :=
  natLe 2 3 ++ ([1, 1] ++ (natLe 2 1 ++ (natLe 2 (if data then 0xFFFF else 3) ++ (natLe 8 0 ++ (natLe 2 9 ++ (List.replicate 46 0 ++
    (natLe 2 (if data then 1 else 0xFFFF) ++ (natLe 2 (if data then 2 else 0xFFFF) ++ (natLe 2 (if data then 0xFFFF else 4) ++ (natLe 2 0 ++
      (natLe 8 128 ++ List.replicate 16 0)))))))))))
def wQuireDev (data : Bool) (x : Quire) : Dev :=
  let r (n : Nat) : Region := { wCel with num := n, va := n * 2097152 }
  let s := wRun.modStall 0 fun y => { y with
    plan := y.plan.map fun p => { p with regions := [wReg, r 2, r 3, r 4] },
    groups := [(3, some { axis := 255, epoch := 1, members := if data then [(0, 0), (1, 0)] else [(1, 0), (0, 0)] })],
    blocks := y.blocks ++ [(blockKey 3 0, { home := some ⟨0, 0⟩ }), (blockKey 4 0, { home := some ⟨0, 0⟩ })],
    quire := { x with table := 3 * 2097152 + 4096 } }
  wPut s (3 * 2097152 + 4096) (wQuireRec data)
/-- The record of the quire can be read and is in order, in a state that `p` describes. -/
def quireAt (s : Dev) (p : QRec → Dev → Bool) : Bool :=
  s.hub.fns.all (fun e => e.2.wbuf.isEmpty) && okAnd (s.qread 0 (s.stall 0).quire.table.toNat 64) fun h s1 =>
    u16 h 4 == 1 && okAnd (s1.qread 0 ((s.stall 0).quire.table.toNat + 64) 32) fun b t => (t.parseQuire 0 h b).any fun q =>
      decide ((t.stall 0).quire = (s.stall 0).quire) && t.hub.fns.all (fun e => e.2.wbuf.isEmpty) && p q t

theorem wit_QuireCommands_refused :
    let busy : Quire := { state := .committing }
    busy.state ≠ .idle ∧ busy.state ≠ .prepared ∧ busy.state ≠ .preparing ∧ (0xFFFFFFFF#32) + 1 = 0 := by decide
theorem wit_QuireCommands_parity : quireAt (wQuireDev false {}) (fun q _ => !q.isData && q.k == 1 && q.p == 1) = true := by decide +kernel
theorem wit_QuireCommands_data : quireAt (wQuireDev true {}) (fun q t => q.isData && (t.dirtyPieces 0 q).isEmpty) = true := by decide +kernel
theorem wit_QuireCommands_stage :
    quireAt (wQuireDev false { state := .preparing }) (fun q t => !q.isData && (t.regionOf 0 q.stg).any (fun y => decide (64 + 2 ≤ y.len)) &&
      (q.ents[0]?).any (fun n => decide (126 + 2 ≤ n.len)) && okAnd (t.qwrites 0 [((t.regionVa 0 q.stg) + 64, [5, 6])]) (fun _ _ => true)) = true := by decide +kernel
theorem wit_QuireCommands_commit :
    quireAt (wQuireDev false { state := .prepared, target := 1 }) (fun q t =>
      let t1 := t.modQuire 0 fun x => { x with resume := false }
      okAnd (t1.qwrites 0 ((t1.commitVas 0 q).map fun va => (va, commitLine 1 1))) (fun _ t2 => (t2.quireApply 0 q).isSome)) = true := by decide +kernel
theorem wit_QuireCommands_complete :
    quireAt (wQuireDev false { state := .committing, target := 1 }) (fun q t => (t.quireFinish 0 q 1).any fun d => d.hub.fns.all (fun e => e.2.wbuf.isEmpty)) = true := by
  decide +kernel
theorem wit_QuireCommands_reconstruct :
    quireAt (wQuireDev false {}) (fun q t =>
      let from_ : List (Nat × List (List Byte)) := [(0, [List.replicate 128 3])]
      from_.length == q.k && decide (1 < q.k + q.p) && from_.all (fun f => f.2.map List.length == q.ents.map QEnt.len) &&
        (gfWeights q.k q.p 1 [0]).any fun ws => okAnd ((t.modQuire 0 fun x => { x with resume := false }).qwrites 0 (q.ents.zipIdx.map fun e' =>
          (t.regionVa 0 e'.1.par, gfMix e'.1.len ws (from_.map fun f => f.2.getD e'.2 []) ++ commitLine 7 2))) (fun _ _ => true)) = true := by decide +kernel
theorem wit_QuireCommands_resume :
    let s := wQuireDev false { resume := true }
    let t := wPut s (3 * 2097152) (commitLine 9 1)
    (s.stall 0).blk.state = .loaded ∧ quireAt s (fun q t => (t.openCommit 0 q).isNone) = true ∧
    quireAt t (fun q t => t.openCommit 0 q == some 9 && ((t.quireApply 0 q).bind fun t1 => t1.quireFinish 0 q 9).isSome) = true := by decide +kernel

theorem wit_EnergyApportionment :
    let w : MtrWork := { stalls := List.range 96, tsOpen := List.replicate 16 0 }
    0 < ((List.range 97).map fun i => if i = 96 then 1 else 0).sum ∧ ((List.range 97).map fun _ => 0).sum = 0 ∧ w.tsOpen.length ≤ 16 ∧ w.stalls.length ≤ 96 ∧
    96 ≤ w.stalls.length ∧ 48 ≤ (List.replicate 48 (0 : Byte)).length := by decide +kernel

/-- A serving meter. -/
def wMtr (m : MeterSt) : State := { toDev := wRun, meter := { m with present := true, ready := true } }
theorem wit_MeterMeasures :
    let old : SenseLast := { charge := List.replicate 16 0, usage := [], at_ := 0 }
    let s := wMtr { polling := true, cycle := 100, last := [(8, some old)], sincePulse := pulseEvery, nextMap := some { stalls := List.replicate 96 255, digest := 0 } }
    let t := wMtr { inhibit := true, bank0 := { good := true }, sinceWrite := writeEvery }
    s.mtrUp = true ∧ pulseEvery ≤ s.meter.sincePulse ∧ s.meter.polling = true ∧ tget none s.meter.last 8 = some old ∧ s.meter.cycle - old.at_ ≤ 100 ∧
    s.meter.closing = none ∧ s.meter.nextMap.isSome = true ∧ s.coreUp 0 = true ∧ s.meter.inhibit = false ∧ s.meter.sinceWrite < writeEvery ∧
    t.mtrUp = true ∧ writeEvery ≤ t.meter.sinceWrite ∧ t.meter.inhibit = true ∧ t.meter.evHeld = [] ∧ t.meter.bank0.good = true := by decide +kernel
theorem wit_MeterMeasures_write :
    let s := wMtr { sinceWrite := writeEvery, bank1 := { good := true } }
    s.mtrUp = true ∧ s.meter.inhibit = false ∧ writeEvery ≤ s.meter.sinceWrite ∧
    (if s.meter.bank0.wseq ≤ s.meter.bank1.wseq then s.meter.bank1.good else s.meter.bank0.good) = true := by decide +kernel
theorem wit_MeterCommands_arrive :
    let s := wMtr {}
    let off : State := { s with meter := { s.meter with ready := false } }
    let gone : State := { s with meter := {} }
    let cmd := natLe 2 0x201 ++ natLe 2 48
    s.mctpUp .i3c = true ∧ s.meter.mbx1.state ≠ 1 ∧ s.meter.mbx1.state ≠ 2 ∧ s.meter.present = true ∧ off.mtrUp = false ∧ gone.meter.present = false ∧
    s.meter.queue = [] ∧ mtrKnown (u16 (cmd.take 4096) 0) = true := by decide +kernel

/-- A command of the meter: TYPE, LEN, and a number at byte 8. -/
def wMtrCmd (t len n : Nat) : List Byte := natLe 2 t ++ (natLe 2 len ++ (natLe 4 0 ++ (natLe 8 n ++ List.replicate (len - 16) 0)))
theorem wit_MeterCommands_codes :
    let at_ (c : List Byte) (m : MeterSt) : State := wMtr { m with queue := [(1, c)] }
    let rd := at_ (wMtrCmd 0x201 48 7) { records := [(7, some (7, []))], work := { seq := 7 } }
    let en := at_ (wMtrCmd 0x103 1360 0) {}
    (rd.mtrUp = true ∧ rd.meter.closing = none ∧ rd.meter.code (wMtrCmd 0x201 48 7) = 0 ∧ u16 (wMtrCmd 0x201 48 7) 0 = 0x201 ∧ (rd.meter.record 7).isSome = true) ∧
    (en.meter.code (wMtrCmd 0x103 1360 0) = 0 ∧ u16 (wMtrCmd 0x103 1360 0) 0 = 0x103 ∧ en.meter.work.authKeys.length = 2) ∧
    rd.meter.code (wMtrCmd 0x201 48 8) = 8 ∧ ([0x101, 0x102, 0x104, 0x105] : List Nat).all (fun t => rd.meter.code (wMtrCmd t 2468 7) == 2) = true := by decide +kernel

/-- A signed command under the key of no bytes. Signatures are opaque (log entry 4), so what follows holds for a verification that accepts. -/
def wSigned (t n : Nat) : List Byte :=
  (natLe 2 t ++ (natLe 2 2468 ++ (natLe 4 0 ++ (natLe 8 n ++ List.replicate 24 0)))) ++ (natLe 8 (keyIdOf []).toNat ++ List.replicate 2420 0)
theorem u64_at (a z : List Byte) (v : Nat) : u64 (a ++ (natLe 8 v ++ z)) a.length = v % 2 ^ 64 := by
  have g (i : Nat) : u8 (a ++ (natLe 8 v ++ z)) (a.length + i) = u8 (natLe 8 v ++ z) i := by
    simp only [u8, List.getD, List.getElem?_append_right (Nat.le_add_right _ _), Nat.add_sub_cancel_left]
  have e (i : Nat) : u8 (natLe 8 v ++ z) i = u8 (natLe 8 v ++ z) i := rfl
  have h0 := g 0
  rw [Nat.add_zero] at h0
  simp only [u64, u32, u16, Nat.add_assoc, Nat.reduceAdd, h0, g]
  simp only [natLe, List.cons_append, List.nil_append, u8, List.getD_cons_succ, List.getD_cons_zero, BitVec.toNat_ofNat]
  omega
theorem wSigned_key (t n : Nat) : u64 (wSigned t n) 40 = (keyIdOf []).toNat := by
  have h := u64_at (natLe 2 t ++ (natLe 2 2468 ++ (natLe 4 0 ++ (natLe 8 n ++ List.replicate 24 0)))) (List.replicate 2420 0) (keyIdOf []).toNat
  rw [show (natLe 2 t ++ (natLe 2 2468 ++ (natLe 4 0 ++ (natLe 8 n ++ List.replicate 24 (0 : Byte))))).length = 40 by simp [natLe_length]] at h
  rw [wSigned, h, Nat.mod_eq_of_lt (BitVec.isLt _)]
def wSignedMtr : MeterSt := { work := { authKeys := [some [], some [1]], verKey := some [], seq := 8, acked := 6 } }
theorem wSigned_find (w : MtrWork) (l : List (List Byte)) (t n : Nat) (h : w.signers t = [] :: l) :
    (w.signers t).find? (fun k => (keyIdOf k).toNat == u64 (wSigned t n) 40) = some [] := by
  rw [h, wSigned_key]; simp
/-- What does not depend on the opaque bytes. -/
def wSignedOk (t : Nat) : Bool :=
  let c := wSigned t 7
  u16 c 0 == t && u16 c 2 == 2468 && c.length == 2468 && allZero c 4 4 && slice c 24 16 == List.replicate 16 0 && u64 c 8 == 7 && u32 c 16 == 0
theorem wSigned_ok (t : Nat) (ht : wSignedOk t = true) (hs : mtrLen t 2468 = true) (h1 : t / 256 = 1) (h3 : t ≠ 0x103)
    (hk : ∃ l, wSignedMtr.work.signers t = [] :: l) (hv : ∀ k m s, Config.mldsaVerify k m s = true) : wSignedMtr.code (wSigned t 7) = 0 := by
  obtain ⟨l, hl⟩ := hk
  simp only [wSignedOk, Bool.and_eq_true, beq_iff_eq] at ht
  obtain ⟨⟨⟨⟨⟨⟨a, b⟩, c⟩, d⟩, e⟩, f⟩, g⟩ := ht
  have x2 : t ≠ 0x201 := by intro h; subst h; simp at h1
  have x3 : t ≠ 0x202 := by intro h; subst h; simp at h1
  simp only [MeterSt.code, a, b, c, d, e, f, g, h1, hs, hv, wSigned_find _ l _ _ hl, beq_eq_false_iff_ne.mpr h3, beq_eq_false_iff_ne.mpr x2,
    beq_eq_false_iff_ne.mpr x3]
  simp [wSignedMtr, MtrWork.freePlaces, MtrWork.keyCount]
theorem wit_MeterCommands_signed (hv : ∀ k m s, Config.mldsaVerify k m s = true) (t : Nat) (ht : t ∈ [0x101, 0x102, 0x104, 0x105]) :
    wSignedMtr.code (wSigned t 7) = 0 := by
  simp only [List.mem_cons, List.not_mem_nil, or_false] at ht
  rcases ht with rfl | rfl | rfl | rfl <;>
    exact wSigned_ok _ (by decide +kernel) (by decide) (by decide) (by decide) ⟨_, rfl⟩ hv
theorem wit_MeterCommands_commit :
    let j : CloseJob := { mbx := 1, cmd := List.replicate 2468 0, cut := some {} }
    let s := wMtr { closing := some j }
    s.mtrUp = true ∧ s.meter.inhibit = false ∧ s.meter.closing = some j ∧ j.cut = some {} ∧ s.meter.evHeld = [] ∧ j.mbx < 2 ∧ s.meter.queue = [] := by decide +kernel
theorem wit_MeterPowerAndSeal :
    let off := wMtr { bank0 := { good := true, work := { seq := 95 } } }
    let s : State := { off with meter := { off.meter with ready := false } }
    let t := wMtr { traceBroken := true }
    (s.power.state ≠ .off ∧ s.meter.ready = false ∧ s.meter.governs = some { good := true, work := { seq := 95 } } ∧ s.meter.laterRecords 95 = [] ∧
      0 < ({ seq := 95 } : MtrWork).freePlaces) ∧ t.meter.present = true ∧ t.mtrUp = true ∧ (wMtr {}).meter.traceBroken = false := by decide +kernel
theorem wit_MeterFirmware (image : List Byte) (h : Config.sha3_256 image ≠ 0) : Config.sha3_256 image ≠ (wMtr { traceBroken := true }).meter.fwDigest := h

theorem wit_Inv : Machine.Inv State.reset ∧ Machine.Inv (wMtr { work := { seq := 96, acked := 0 } }) := by
  unfold Machine.Inv; decide +kernel
theorem wit_OnlySamples (b : Bool) (ma mv : Nat) :
    Instr.testPulse ≠ .frontEndSample ma mv ∧ Instr.testPulse ≠ .meterPowerUp b ∧ Instr.testPulse ≠ .cartRemove := by simp
theorem wit_Inhibit (b : Bool) (mv sb ms : Nat) :
    (wMtr { inhibit := true }).meter.inhibit = true ∧ Instr.meterPoll 0 ≠ .meterInhibitRelease mv sb ms ∧ Instr.meterPoll 0 ≠ .meterPowerUp b ∧
    Instr.meterPoll 0 ≠ .cartRemove := by simp [wMtr]

end Sys2Proof.Tests
end

section
/-!
PROOFS. The host's register writes (R7, R445, R447) and HUB_ACC_ERR (R445).
-/
namespace Sys2Proof.Machine

/-! ### Host accesses while the link is up and while it is down -/

/-- A host access to the module takes its effect while the host link is up, and none otherwise. -/
theorem State.onDev_host (s : State) (k : Dev → Dev) :
    s.onDev (fun d => d.host (k d)) = .next { s with toDev := if s.hub.linkUp then k s.toDev else s.toDev } :=
  s.onDev_next _ _ (Dev.host_eq s.toDev (k s.toDev))

/-- A command that is one host access runs with that access's effect while the link is up. -/
theorem runs_of_hostAccess {c : Instr} {s : State} {k : Dev → Dev} (up : s.hub.linkUp = true)
    (h : exec c s = s.onDev fun d => d.host (k d)) : Runs c s (k s.toDev) := by
  rw [Runs, h, State.onDev_host, if_pos up]

/-! ### Updates one after another -/

@[simp] theorem State.modDev_modDev (s : State) (f g : Dev → Dev) : (s.modDev f).modDev g = s.modDev fun d => g (f d) := rfl
@[simp] theorem Dev.modHub_modHub (d : Dev) (f g : HubSt → HubSt) : (d.modHub f).modHub g = d.modHub fun h => g (f h) := rfl

/-! ### REGISTER_WRITE by alignment and size -/

/-- A misaligned write is one host access that latches it with KIND 1 (R445). -/
theorem exec_registerWrite_misaligned (fn : FnId) (off : BitVec 26) (eight : Bool) (v : W64) (s : State)
    (h : off.toNat % (if eight then 8 else 4) ≠ 0) :
    exec (.registerWrite fn off eight v) s = s.onDev fun d => d.host (d.latchAcc fn.val 0 1 off.toNat) := by
  simp only [exec, execRegisterWrite, if_pos h]

/-- No write reaches the block while the link is down. -/
theorem exec_registerWrite_linkDown (fn : FnId) (off : BitVec 26) (eight : Bool) (v : W64) (s : State) (down : s.hub.linkUp = false) :
    exec (.registerWrite fn off eight v) s = .next s := by
  by_cases h : off.toNat % (if eight then 8 else 4) = 0
  · simp only [exec, execRegisterWrite, h, down, ne_eq, not_true_eq_false, if_false, Bool.not_false, if_true, ite_self]
  · rw [exec_registerWrite_misaligned fn off eight v s h, State.onDev_host]
    simp [down]

/-- An aligned 4-byte write outside the commands of R450 writes one dword. `o` is the offset as a number, so that a caller's
numeral stands in the result. -/
theorem exec_registerWrite_dword (fn : FnId) (off : BitVec 26) (o : Nat) (v : W64) (s : State) (up : s.hub.linkUp = true)
    (ho : off.toNat = o) (aligned : o % 4 = 0) (plain : isCommand o = false) :
    exec (.registerWrite fn off false v) s = .next (s.dwordWrite fn o (v.toNat % 2 ^ 32) 0) := by
  subst ho
  simp [exec, execRegisterWrite, up, aligned, plain]

/-- An aligned 8-byte write outside the commands of R450 writes the upper dword, then the lower one. -/
theorem exec_registerWrite_qword (fn : FnId) (off : BitVec 26) (o : Nat) (v : W64) (s : State) (up : s.hub.linkUp = true)
    (ho : off.toNat = o) (aligned : o % 8 = 0) (plain : isCommand o = false) (plain' : isCommand (o + 4) = false) :
    exec (.registerWrite fn off true v) s = .next
      ((s.dwordWrite fn (o + 4) (v.toNat / 2 ^ 32) 0).dwordWrite fn o (v.toNat % 2 ^ 32) (v.toNat / 2 ^ 32)) := by
  subst ho
  simp [exec, execRegisterWrite, up, aligned, plain, plain']

/-! ### The fields of a written value -/

/-- The lower dword of a 64-bit register, written with the value's lower half. -/
theorem ofNat_putHalf_lower (o : Nat) (old v : W64) (ho : o % 8 = 0) :
    BitVec.ofNat 64 (putHalf o old.toNat (v.toNat % 2 ^ 32)) = old >>> 32 <<< 32 ||| (v.setWidth 32).setWidth 64 := by
  apply BitVec.eq_of_toNat_eq
  have low : v.toNat % 2 ^ 32 < 2 ^ 32 := Nat.mod_lt _ (by decide)
  have keep : old.toNat / 2 ^ 32 * 2 ^ 32 ≤ old.toNat := Nat.div_mul_le_self ..
  simp only [putHalf, ho, if_true, BitVec.toNat_ofNat, BitVec.toNat_or, BitVec.toNat_shiftLeft, BitVec.toNat_ushiftRight,
    BitVec.toNat_setWidth, Nat.shiftRight_eq_div_pow]
  rw [Nat.shiftLeft_eq, Nat.mod_eq_of_lt (Nat.lt_of_le_of_lt keep old.isLt), Nat.mod_eq_of_lt (Nat.lt_trans low (by decide)),
    ← Nat.shiftLeft_eq, ← Nat.shiftLeft_add_eq_or_of_lt low, Nat.shiftLeft_eq]
  omega

/-- Both dwords of a 64-bit register, the upper one written first, make the value whole. -/
theorem ofNat_putHalf_both (o : Nat) (old v : W64) (ho : o % 8 = 0) :
    BitVec.ofNat 64 (putHalf o (BitVec.ofNat 64 (putHalf (o + 4) old.toNat (v.toNat / 2 ^ 32))).toNat (v.toNat % 2 ^ 32)) = v := by
  apply BitVec.eq_of_toNat_eq
  have upper : (o + 4) % 8 ≠ 0 := by omega
  simp only [putHalf, ho, upper, if_true, if_false, BitVec.toNat_ofNat]
  omega

/-- A field within a value's lower dword. -/
theorem ofNat_field (v : W64) (i n : Nat) (h : i + n ≤ 32) :
    BitVec.ofNat n (v.toNat % 2 ^ 32 / 2 ^ i) = (v >>> i).setWidth n := by
  apply BitVec.eq_of_toNat_eq
  rw [BitVec.toNat_ofNat, BitVec.toNat_setWidth, BitVec.toNat_ushiftRight, Nat.shiftRight_eq_div_pow]
  obtain ⟨m, hm⟩ := Nat.exists_eq_add_of_le h
  rw [hm, Nat.pow_add, Nat.pow_add, Nat.mul_assoc, Nat.mod_mul_right_div_self, Nat.mod_mul_right_mod]

/-- The field at the bottom of a value's lower dword. -/
theorem ofNat_lowField (v : W64) (n : Nat) (h : n ≤ 32) : BitVec.ofNat n (v.toNat % 2 ^ 32) = v.setWidth n := by
  simpa using ofNat_field v 0 n (by omega)

/-! ### The dwords of the physical function's registers -/

/-- HUB_HOSTTIME with the half at an offset written, and marked as set. -/
def HubSt.putTime (o v : Nat) (h : HubSt) : HubSt :=
  { h with hostTime := BitVec.ofNat 64 (putHalf o h.hostTime.toNat v), hostTimeSet := true }

theorem HubSt.putTime_lower (v : W64) : HubSt.putTime 0x10 (v.toNat % 2 ^ 32) = fun h =>
    { h with hostTime := h.hostTime >>> 32 <<< 32 ||| (v.setWidth 32).setWidth 64, hostTimeSet := true } := by
  funext h
  rw [HubSt.putTime, ofNat_putHalf_lower 0x10 h.hostTime v rfl]

theorem HubSt.putTime_hostTime (h : HubSt) (o v : Nat) : (h.putTime o v).hostTime = BitVec.ofNat 64 (putHalf o h.hostTime.toNat v) := rfl

theorem HubSt.putTime_putTime (h : HubSt) (o p v w : Nat) : (h.putTime o v).putTime p w =
    { h with hostTime := BitVec.ofNat 64 (putHalf p (h.putTime o v).hostTime.toNat w), hostTimeSet := true } := rfl

theorem HubSt.putTime_both (v : W64) :
    (fun h : HubSt => (h.putTime (0x10 + 4) (v.toNat / 2 ^ 32)).putTime 0x10 (v.toNat % 2 ^ 32)) =
      fun h => { h with hostTime := v, hostTimeSet := true } := by
  funext h
  rw [HubSt.putTime_putTime, HubSt.putTime_hostTime, ofNat_putHalf_both 0x10 h.hostTime v rfl]

/-- A dword of HUB_HOSTTIME replaces its half and marks the time as set. -/
theorem State.dwordWrite_hostTime (s : State) (o v hi : Nat) (ho : o / 8 = 2) :
    s.dwordWrite 0 o v hi = s.modDev fun d => d.modHub (HubSt.putTime o v) := by
  simp only [State.dwordWrite, State.pfWrite, ho, Fin.val_zero, if_true]
  rfl

theorem State.dwordWrite_tallyGap (s : State) (v hi : Nat) :
    s.dwordWrite 0 0x30010 v hi = s.modDev fun d => d.modTally fun t => { t with gap := BitVec.ofNat 24 v } := by
  simp [State.dwordWrite, State.pfWrite]

theorem State.dwordWrite_tallyTimeout (s : State) (v hi : Nat) :
    s.dwordWrite 0 0x30014 v hi = s.modDev fun d => d.modTally fun t => { t with timeout := BitVec.ofNat 24 v } := by
  simp [State.dwordWrite, State.pfWrite]

theorem State.dwordWrite_powerLimit (s : State) (v hi : Nat) :
    s.dwordWrite 0 0x60010 v hi =
      s.modDev fun d => d.modPower fun w => { w with pcap := BitVec.ofNat 12 v, tlim := BitVec.ofNat 7 (v / 2 ^ 12) } := by
  simp [State.dwordWrite, State.pfWrite]

/-- A virtual function's dword outside its view is discarded and latched with KIND 2 (R447). -/
theorem State.dwordWrite_outOfView (s : State) (fn : FnId) (o v hi : Nat) (vf : fn ≠ 0) (h : s.vfSees (fn.val - 1) o true = false) :
    s.dwordWrite fn o v hi = s.modDev fun d => d.latchAcc fn.val 0 2 o := by
  simp [State.dwordWrite, Fin.val_ne_zero_iff.mpr vf, h]

/-- No virtual function's view holds SCH_TALLY_GAP, SCH_TALLY_TIMEOUT or PWR_LIMIT (R447). -/
theorem Dev.vfSees_limits (s : Dev) (k o : Nat) (hk : k < 96) (ho : o = 0x30010 ∨ o = 0x30014 ∨ o = 0x60010) :
    s.vfSees k o true = false := by
  have far : inArr o 0x1000000 0x40000 96 = none := by rcases ho with rfl | rfl | rfl <;> rfl
  simp only [Dev.vfSees, far, if_true, Bool.or_eq_false_iff, Bool.and_eq_false_iff, decide_eq_false_iff_not, beq_eq_false_iff_ne, and_true]
  rcases ho with rfl | rfl | rfl <;> omega

/-! ### The registers by command -/

theorem runs_registerWrite_misaligned (fn : FnId) (off : BitVec 26) (eight : Bool) (v : W64) (s : State) (up : s.hub.linkUp = true)
    (h : off.toNat % (if eight then 8 else 4) ≠ 0) : Runs (.registerWrite fn off eight v) s (s.latchAcc fn.val 0 1 off.toNat) :=
  runs_of_hostAccess up (exec_registerWrite_misaligned fn off eight v s h)

/-- An 8-byte write to HUB_HOSTTIME sets it whole. -/
theorem runs_registerWrite_hostTime (v : W64) (s : State) (up : s.hub.linkUp = true) :
    Runs (.registerWrite 0 0x10 true v) s (s.modHub fun h => { h with hostTime := v, hostTimeSet := true }) := by
  rw [Runs, exec_registerWrite_qword 0 0x10 0x10 v s up rfl rfl (by decide) (by decide), State.dwordWrite_hostTime _ _ _ _ (by decide),
    State.dwordWrite_hostTime _ _ _ _ (by decide), State.modDev_modDev, State.modDev, Dev.modHub_modHub, HubSt.putTime_both]

/-- A 4-byte write to HUB_HOSTTIME sets its lower half. -/
theorem runs_registerWrite_hostTimeLow (v : W64) (s : State) (up : s.hub.linkUp = true) :
    Runs (.registerWrite 0 0x10 false v) s (s.modHub fun h =>
      { h with hostTime := h.hostTime >>> 32 <<< 32 ||| (v.setWidth 32).setWidth 64, hostTimeSet := true }) := by
  rw [Runs, exec_registerWrite_dword 0 0x10 0x10 v s up rfl rfl (by decide), State.dwordWrite_hostTime _ _ _ _ (by decide), State.modDev,
    HubSt.putTime_lower]

theorem runs_registerWrite_tallyGap (v : W64) (s : State) (up : s.hub.linkUp = true) :
    Runs (.registerWrite 0 0x30010 false v) s (s.modTally fun t => { t with gap := v.setWidth 24 }) := by
  rw [Runs, exec_registerWrite_dword 0 0x30010 0x30010 v s up rfl rfl (by decide), State.dwordWrite_tallyGap, State.modDev,
    ofNat_lowField v 24 (by decide)]

theorem runs_registerWrite_tallyTimeout (v : W64) (s : State) (up : s.hub.linkUp = true) :
    Runs (.registerWrite 0 0x30014 false v) s (s.modTally fun t => { t with timeout := v.setWidth 24 }) := by
  rw [Runs, exec_registerWrite_dword 0 0x30014 0x30014 v s up rfl rfl (by decide), State.dwordWrite_tallyTimeout, State.modDev,
    ofNat_lowField v 24 (by decide)]

theorem runs_registerWrite_powerLimit (v : W64) (s : State) (up : s.hub.linkUp = true) :
    Runs (.registerWrite 0 0x60010 false v) s
      (s.modPower fun w => { w with pcap := v.setWidth 12, tlim := (v >>> 12).setWidth 7 }) := by
  rw [Runs, exec_registerWrite_dword 0 0x60010 0x60010 v s up rfl rfl (by decide), State.dwordWrite_powerLimit, State.modDev,
    ofNat_lowField v 12 (by decide), ofNat_field v 12 7 (by decide)]

/-- A virtual function's write to a register that only the physical function reaches is latched with KIND 2 (R447). -/
theorem runs_registerWrite_outOfView (fn : FnId) (off : BitVec 26) (v : W64) (s : State) (up : s.hub.linkUp = true) (vf : fn ≠ 0)
    (h : off ∈ [0x30010#26, 0x30014#26, 0x60010#26]) :
    Runs (.registerWrite fn off false v) s (s.latchAcc fn.val 0 2 off.toNat) := by
  simp only [List.mem_cons, List.not_mem_nil, or_false] at h
  have index : fn.val - 1 < 96 := by omega
  have unseen : s.vfSees (fn.val - 1) off.toNat true = false :=
    s.vfSees_limits _ _ index (by rcases h with rfl | rfl | rfl <;> decide)
  have aligned : off.toNat % 4 = 0 := by rcases h with rfl | rfl | rfl <;> rfl
  have plain : isCommand off.toNat = false := by rcases h with rfl | rfl | rfl <;> decide
  rw [Runs, exec_registerWrite_dword fn off _ v s up rfl aligned plain, State.dwordWrite_outOfView s fn _ _ _ vf unseen, State.modDev]

/-- Settles O24: by alignment first, then register by register; the view of a virtual function holds none of the three. -/
theorem hostRegistersAreWritten : Obligations.HostRegistersAreWritten := fun s v =>
  ⟨fun up => ⟨runs_registerWrite_hostTime v s up, runs_registerWrite_hostTimeLow v s up, runs_registerWrite_tallyGap v s up,
    runs_registerWrite_tallyTimeout v s up, runs_registerWrite_powerLimit v s up,
    fun fn off vf h => runs_registerWrite_outOfView fn off v s up vf h,
    fun fn off h => runs_registerWrite_misaligned fn off false v s up h,
    fun fn off h => runs_registerWrite_misaligned fn off true v s up h⟩,
   fun down fn off eight => exec_registerWrite_linkDown fn off eight v s down⟩

/-! ### HUB_ACC_ERR (R445, R447) -/

/-- BAR0_ACCESS_ERROR's answer to an erroneous access: zeros to a read, nothing to a write. -/
def Dev.errAnswer (d : Dev) (fn : Nat) (write : Bool) (size : Nat) : Dev :=
  if write then d else d.emit (.readData fn (List.replicate size 0))

/-- The size and alignment that an access to a BAR must have (R445). -/
def accessFits (bar : Bar) (off size : Nat) : Bool := match bar with
  | .bar0 => (size == 4 || size == 8) && off % size == 0
  | .bar2 => size == 8 && off % 8 == 0

/-- The BAR field of HUB_ACC_ERR. -/
def barCode (bar : Bar) : Nat := match bar with
  | .bar0 => 0
  | .bar2 => 1

theorem barCode_field (bar : Bar) : BitVec.ofNat 2 (barCode bar) = if bar = .bar0 then 0 else 1 := by cases bar <;> rfl

theorem accessFits_false (bar : Bar) (off size : Nat) (h : size ∉ [4, 8] ∨ off % size ≠ 0 ∨ bar = .bar2 ∧ size ≠ 8) :
    accessFits bar off size = false := by
  cases bar with
  | bar0 =>
    simp only [List.mem_cons, List.not_mem_nil, or_false, reduceCtorEq, false_and] at h
    simpa only [accessFits, Bool.and_eq_false_iff, Bool.or_eq_false_iff, beq_eq_false_iff_ne, ← not_or] using h
  | bar2 =>
    by_cases eight : size = 8
    · subst eight; simpa [accessFits] using h
    · simp [accessFits, eight]

/-- An access of a wrong size or alignment is one host access that latches it with KIND 1. -/
theorem exec_bar0AccessError_misshapen (fn : FnId) (bar : Bar) (write : Bool) (off : W32) (size : Nat) (s : State)
    (h : accessFits bar off.toNat size = false) :
    exec (.bar0AccessError fn bar write off size) s =
      s.onDev fun d => d.host ((d.latchAcc fn.val (barCode bar) 1 off.toNat).errAnswer fn.val write size) := by
  cases bar with
  | bar0 => rw [accessFits] at h; simp only [exec, execBar0AccessError, h]; rfl
  | bar2 => rw [accessFits] at h; simp only [exec, execBar0AccessError, h]; rfl

/-- A well-shaped access outside the function's view is one host access that latches a write with KIND 2, a read not. -/
theorem exec_bar0AccessError_outOfView (fn : FnId) (write : Bool) (off : W32) (s : State)
    (aligned : off.toNat % 4 = 0) (h : s.sees fn.val off.toNat write = false) :
    exec (.bar0AccessError fn .bar0 write off 4) s = s.onDev fun d => d.host
      ((if write then d.latchAcc fn.val 0 2 off.toNat else d).errAnswer fn.val write 4) := by
  simp only [exec, execBar0AccessError, State.onDev, Dev.outOfView, aligned, h]
  rfl

/-- An update of one function sets that function and nothing else. -/
theorem Dev.modFn_eq_setFn (d : Dev) (fn : Nat) (g : FnSt → FnSt) : d.modFn fn g = d.setFn fn ((d.modFn fn g).fn fn) := by
  rw [Dev.modFn_fn_same, Dev.modFn]

/-- HUB_ACC_ERR after ones written to VALID, WRITE_LOST and READ_ABORT. -/
def AccErr.clear (a : AccErr) (mask : BitVec 3) : AccErr :=
  { a with valid := a.valid && !mask.getLsbD 0, writeLost := a.writeLost && !mask.getLsbD 1, readAbort := a.readAbort && !mask.getLsbD 2 }

theorem runs_accErrClear (fn : FnId) (mask : BitVec 3) (s : State) (up : s.hub.linkUp = true) :
    Runs (.accErrClear fn mask) s (s.modFn fn.val fun f => { f with acc := f.acc.clear mask }) :=
  runs_of_hostAccess (k := fun d => d.modFn fn.val fun f => { f with acc := f.acc.clear mask }) up rfl

/-- The latch of a misshapen access, as the update of the function's own HUB_ACC_ERR. -/
theorem Dev.latchAcc_misshapen (d : Dev) (fn : Nat) (bar : Bar) (off : W32) :
    d.latchAcc fn (barCode bar) 1 off.toNat = d.setFn fn (let f := d.fn fn
      if f.acc.valid then f else
        { f with acc := { f.acc with valid := true, bar := if bar = .bar0 then 0 else 1, kind := 1, offset := off } }) := by
  rw [Dev.latchAcc, Dev.modFn, barCode_field, BitVec.ofNat_toNat, BitVec.setWidth_eq]
  rfl

/-- Settles O25: each access is one host access, whose latch is an update of the function's own register. -/
theorem accessErrorsAreLatched : Obligations.AccessErrorsAreLatched := by
  intro fn s up
  refine ⟨fun bar off size h => ?_, fun off aligned h => ?_, fun off aligned h => ?_, fun mask => ?_⟩
  · have answer (write : Bool) := runs_of_hostAccess up
      (exec_bar0AccessError_misshapen fn bar write off size s (accessFits_false bar off.toNat size h))
    rw [s.latchAcc_misshapen fn.val bar off] at answer
    exact ⟨answer true, answer false⟩
  · exact runs_of_hostAccess up (exec_bar0AccessError_outOfView fn true off s aligned h)
  · exact runs_of_hostAccess up (exec_bar0AccessError_outOfView fn false off s aligned h)
  · exact ⟨_, runs_accErrClear fn mask s up, Dev.modFn_eq_setFn .., Dev.modFn_fn_same ..⟩

end Sys2Proof.Machine
end

section
/-!
PROOFS. The tally wave (R37 to R53): its request, its injection, the snapshot of a unit, the report and the abandonment.
-/
namespace Sys2Proof.Machine

/-! ### Rising lists without repeats -/

@[simp] theorem mem_sinsert (x y : Nat) (l : List Nat) : y ∈ sinsert x l ↔ y = x ∨ y ∈ l := by
  induction l with
  | nil => simp [sinsert]
  | cons a t ih =>
    simp only [sinsert]
    split
    · simp
    · split
      · next h => subst h; simp
      · simp [ih, or_left_comm]

/-! ### Several tally units updated one after another -/

/-- Updating units one after another changes the units' table alone. -/
theorem Dev.foldl_modUnit_frame (ls : List Nat) (f : Nat → UnitSt → UnitSt) (s : Dev) :
    ls.foldl (fun d k => d.modUnit k (f k)) s = { s with units := (ls.foldl (fun d k => d.modUnit k (f k)) s).units } := by
  induction ls generalizing s with
  | nil => rfl
  | cons a t ih => rw [List.foldl_cons, ih]; rfl

theorem Dev.foldl_modUnit_unit_of_notMem {ls : List Nat} {i : Nat} (h : i ∉ ls) (f : Nat → UnitSt → UnitSt) (s : Dev) :
    (ls.foldl (fun d k => d.modUnit k (f k)) s).unit i = s.unit i := by
  induction ls generalizing s with
  | nil => rfl
  | cons a t ih =>
    obtain ⟨ne, notMem⟩ := not_or.mp (mt List.mem_cons.mpr h)
    rw [List.foldl_cons, ih notMem, Dev.modUnit_unit, if_neg ne]

theorem Dev.foldl_modUnit_unit_of_nodup {ls : List Nat} (nd : ls.Nodup) {i : Nat} (h : i ∈ ls) (f : Nat → UnitSt → UnitSt) (s : Dev) :
    (ls.foldl (fun d k => d.modUnit k (f k)) s).unit i = f i (s.unit i) := by
  induction ls generalizing s with
  | nil => exact absurd h List.not_mem_nil
  | cons a t ih =>
    obtain ⟨fresh, nd⟩ := List.nodup_cons.mp nd
    rw [List.foldl_cons]
    rcases List.mem_cons.mp h with rfl | later
    · rw [Dev.foldl_modUnit_unit_of_notMem fresh, Dev.modUnit_unit, if_pos rfl]
    · rw [ih nd later, Dev.modUnit_unit, if_neg (fun e : i = a => fresh (e ▸ later))]

/-- An idempotent update may name a unit more than once. -/
theorem Dev.foldl_modUnit_unit_of_idem {ls : List Nat} {i : Nat} (h : i ∈ ls) (f : Nat → UnitSt → UnitSt)
    (idem : ∀ x, f i (f i x) = f i x) (s : Dev) : (ls.foldl (fun d k => d.modUnit k (f k)) s).unit i = f i (s.unit i) := by
  induction ls generalizing s with
  | nil => exact absurd h List.not_mem_nil
  | cons a t ih =>
    rw [List.foldl_cons]
    by_cases later : i ∈ t
    · rw [ih later, Dev.modUnit_unit]
      split
      next e => rw [← e, idem]
      next => rfl
    · obtain rfl | mem := List.mem_cons.mp h
      · rw [Dev.foldl_modUnit_unit_of_notMem later, Dev.modUnit_unit, if_pos rfl]
      · exact absurd mem later

/-! ### The keys of the shared units -/

theorem sharedKeys_nodup : sharedKeys.Nodup := by decide
theorem sharedKeys_ge {k : Nat} (h : k ∈ sharedKeys) : 2000 ≤ k :=
  (by decide : ∀ k ∈ sharedKeys, 2000 ≤ k) k h

theorem Dev.mem_stallLooms_lt {s : Dev} {k l : Nat} (h : l ∈ s.stallLooms k) : l < 1152 := by
  unfold Dev.stallLooms at h
  split at h
  · exact List.mem_range.mp (List.mem_filter.mp h).1
  · exact absurd h List.not_mem_nil

/-! ### Vectors -/

@[simp] theorem Dev.msix_tally (s : Dev) (i v : Nat) : (s.msix i v).tally = s.tally := by rw [msix_frame]
@[simp] theorem Dev.msix_units (s : Dev) (i v : Nat) : (s.msix i v).units = s.units := by rw [msix_frame]
@[simp] theorem Dev.msix_looms (s : Dev) (i v : Nat) : (s.msix i v).looms = s.looms := by rw [msix_frame]
@[simp] theorem Dev.msix_unit (s : Dev) (i v k : Nat) : (s.msix i v).unit k = s.unit k := by rw [msix_frame]; rfl

@[simp] theorem Dev.modTally_tally (s : Dev) (f : TallySt → TallySt) : (s.modTally f).tally = f s.tally := rfl

/-! ### Requests (R45) -/

/-- Settles O9: each request is one host access. -/
theorem tallyRequestsAreRecorded : Obligations.TallyRequestsAreRecorded := fun _ up =>
  ⟨runs_of_hostAccess (k := fun d => d.modTally fun t => { t with pendPf := true }) up rfl,
   fun st => runs_of_hostAccess (k := fun d => d.modTally fun t => { t with pendStalls := sinsert st.val t.pendStalls }) up rfl⟩

/-! ### Injection (R45, R46, R48) -/

theorem nextWave_ne_zero (n : W32) : nextWave n ≠ 0 := by
  unfold nextWave
  split
  · decide
  · assumption

/-- A unit at the start of wave `n`, with the controller's marker waiting at it or not. -/
def UnitSt.startWave (n : W32) (marker : Bool) (x : UnitSt) : UnitSt :=
  { x with markWave := n, marked := [], early := [], ctlMarker := marker }

theorem UnitSt.startWave_startWave (n : W32) (b : Bool) (x : UnitSt) : (x.startWave n b).startWave n b = x.startWave n b := rfl

/-- The (stall, loom) pairs that a wave injected now includes. -/
def Dev.waveMembers (s : Dev) : List (Nat × Nat) := s.tallyStalls.flatMap fun k => (s.stallLooms k).map fun l => (k, l)

/-- The looms of the stalls that take part. -/
def Dev.waveLooms (s : Dev) : List Nat := s.waveMembers.map Prod.snd

theorem Dev.mem_waveLooms {s : Dev} {l : Nat} : l ∈ s.waveLooms ↔ ∃ k ∈ s.tallyStalls, l ∈ s.stallLooms k := by
  simp [Dev.waveLooms, Dev.waveMembers]

theorem Dev.notMem_sharedKeys_of_waveLooms {s : Dev} {l : Nat} (h : l ∈ s.waveLooms) : l ∉ sharedKeys := by
  obtain ⟨k, _, hl⟩ := Dev.mem_waveLooms.mp h
  intro hs
  have := sharedKeys_ge hs
  have := Dev.mem_stallLooms_lt hl
  omega

/-- The tally controller once it has injected the next wave. -/
def Dev.startTally (s : Dev) : TallySt :=
  { s.tally with
    busy := true, injected := nextWave s.tally.injected, pendPf := false, pendStalls := s.tally.pendStalls.filter s.withdrawn,
    timeoutNow := max s.tally.timeout.toNat 100, participants := s.tallyStalls, members := s.waveMembers,
    loose := (List.range 96).filter fun c => (s.clusterStall c).isNone, reported := [],
    lost := s.tally.lost.filter (· != (nextWave s.tally.injected).toNat) }

/-- What injection makes of the unit at a key: looms get the controller's marker where they have no aligned input, shared units
always. -/
def Dev.startLoom (s : Dev) (l : Nat) : UnitSt → UnitSt := .startWave (nextWave s.tally.injected) (s.inputsOf l true).isEmpty
def Dev.startShared (s : Dev) (_ : Nat) : UnitSt → UnitSt := .startWave (nextWave s.tally.injected) true

/-- The looms at the start of the next wave. -/
def Dev.startLooms (s : Dev) : Dev := s.waveLooms.foldl (fun d l => d.modUnit l (s.startLoom l)) (s.modTally fun _ => s.startTally)

/-- The module at the start of the next wave. -/
def Dev.injectWave (s : Dev) : Dev := sharedKeys.foldl (fun d k => d.modUnit k (s.startShared k)) s.startLooms

theorem Dev.injectWave_frame (s : Dev) : s.injectWave = { s with tally := s.startTally, units := s.injectWave.units } := by
  have looms : s.startLooms = { s with tally := s.startTally, units := s.startLooms.units } := Dev.foldl_modUnit_frame ..
  exact (Dev.foldl_modUnit_frame ..).trans (congrArg (fun d : Dev => { d with units := s.injectWave.units }) looms)

theorem Dev.injectWave_unit_shared (s : Dev) {k : Nat} (h : k ∈ sharedKeys) : s.injectWave.unit k = s.startShared k (s.startLooms.unit k) :=
  Dev.foldl_modUnit_unit_of_nodup sharedKeys_nodup h _ _

theorem Dev.injectWave_unit_unshared (s : Dev) {k : Nat} (h : k ∉ sharedKeys) : s.injectWave.unit k = s.startLooms.unit k :=
  Dev.foldl_modUnit_unit_of_notMem h _ _

theorem Dev.startLooms_unit_member (s : Dev) {l : Nat} (h : l ∈ s.waveLooms) : s.startLooms.unit l = s.startLoom l (s.unit l) :=
  Dev.foldl_modUnit_unit_of_idem h _ (fun _ => UnitSt.startWave_startWave ..) _

theorem Dev.startLooms_unit_other (s : Dev) {l : Nat} (h : l ∉ s.waveLooms) : s.startLooms.unit l = s.unit l :=
  Dev.foldl_modUnit_unit_of_notMem h _ _

theorem Dev.startLooms_live (s : Dev) (k : Nat) : (s.startLooms.unit k).live = (s.unit k).live := by
  by_cases h : k ∈ s.waveLooms
  · rw [s.startLooms_unit_member h]; rfl
  · rw [s.startLooms_unit_other h]

/-- No counter changes at injection. -/
theorem Dev.injectWave_live (s : Dev) (k : Nat) : (s.injectWave.unit k).live = (s.unit k).live := by
  rw [← s.startLooms_live k]
  by_cases h : k ∈ sharedKeys
  · rw [s.injectWave_unit_shared h]; rfl
  · rw [s.injectWave_unit_unshared h]

theorem Dev.injectWave_ctlMarker_loom (s : Dev) {l : Nat} (h : l ∈ s.waveLooms) :
    (s.injectWave.unit l).ctlMarker = (s.inputsOf l true).isEmpty := by
  rw [s.injectWave_unit_unshared (Dev.notMem_sharedKeys_of_waveLooms h), s.startLooms_unit_member h]
  rfl

/-- TALLY_INJECT with a request of the physical function begins the wave (R45). -/
theorem runs_tallyInject (us : Nat) (s : State) (enabled : s.tally.enable = true) (idle : s.tally.busy = false) (core : s.coreUp 2 = true)
    (request : s.tally.pendPf = true) (gap : max s.tally.gap.toNat 10 ≤ us) : Runs (.tallyInject us) s s.injectWave := by
  rw [Runs, exec, execTallyInject]
  refine s.onDev_next _ _ ?_
  simp only [enabled, idle, core, request, gap, decide_true, Bool.or_true, Bool.true_or, Bool.not_false, Bool.and_self, if_true]
  rw [Dev.injectWave, Dev.startLooms, Dev.waveLooms, List.foldl_map]
  rfl

/-- Settles O10: injection starts the wave at the looms that take part and then at the shared units, whose keys no loom has. -/
theorem tallyWaveBegins : Obligations.TallyWaveBegins := by
  intro us s enabled idle core request gap
  have frame := s.injectWave_frame
  have tally : s.injectWave.tally = s.startTally := congrArg Dev.tally frame
  refine ⟨s.injectWave, runs_tallyInject us s enabled idle core request gap, ?_⟩
  rw [tally]
  refine ⟨rfl, rfl, nextWave_ne_zero _, rfl, rfl, rfl, rfl, rfl, fun c hc => ?_, fun k hk => ?_, s.injectWave_live, fun k hk l hl => ?_, frame⟩
  · simp [Dev.startTally, hc]
  · rw [s.injectWave_unit_shared hk]; rfl
  · exact s.injectWave_ctlMarker_loom (Dev.mem_waveLooms.mpr ⟨k, hk, hl⟩)

/-! ### The snapshot of one unit (R40 to R43, R51) -/

/-- The unit `y` is `x` after its snapshot of wave `n`: its counters are in the bank of the wave's parity, tagged with the wave. -/
def UnitSt.Snapped (n : W32) (x y : UnitSt) : Prop :=
  y.live = x.live ∧ y.snap = n ∧ y.abandoned = false ∧ y.ctlMarker = false ∧
  (n.toNat % 2 = 0 → y.bank0 = x.live ∧ y.wave0 = n ∧ y.bank1 = x.bank1 ∧ y.wave1 = x.wave1) ∧
  (n.toNat % 2 = 1 → y.bank1 = x.live ∧ y.wave1 = n ∧ y.bank0 = x.bank0 ∧ y.wave0 = x.wave0)

theorem takeSnap_snapped (n : W32) (ins : List Nat) (x : UnitSt) : x.Snapped n (takeSnap n ins x) := by
  unfold takeSnap UnitSt.Snapped
  by_cases even : n.toNat % 2 = 0 <;> simp [even]

/-- What a unit has marked of the wave has no part in its snapshot's banks. -/
theorem UnitSt.Snapped.of_marked {n : W32} {x y : UnitSt} {m : List Nat} (h : UnitSt.Snapped n { x with marked := m } y) : x.Snapped n y := h

/-- A marker changes what the shared unit has marked of the wave and its in-flight records (R42). -/
theorem takeMark_frame (n : W32) (i : Nat) (x : UnitSt) :
    takeMark n i x = { x with marked := (takeMark n i x).marked, rec0 := (takeMark n i x).rec0, rec1 := (takeMark n i x).rec1 } := by
  unfold takeMark
  dsimp only
  split
  · split
    · rfl
    · split <;> rfl
  · rfl

theorem mem_takeMark_marked {n : W32} {x : UnitSt} (i : Nat) (h : x.markWave = n) : i ∈ (takeMark n i x).marked := by
  have marked : (takeMark n i x).marked = sinsert i x.marked := by
    unfold takeMark
    rw [if_pos h]
    dsimp only
    split
    · rfl
    · split <;> rfl
  rw [marked]
  exact (mem_sinsert ..).mpr (.inl rfl)

/-! ### The marker on a loom's outputs -/

/-- Token `t` joins the streams `ks`. -/
def Dev.present (s : Dev) (t : Token) (ks : List Nat) : Dev := ks.foldl (fun d k => d.setStream k (d.stream k ++ [t])) s

theorem Dev.present_frame (s : Dev) (t : Token) (ks : List Nat) : s.present t ks = { s with net := (s.present t ks).net } := by
  unfold Dev.present
  induction ks generalizing s with
  | nil => rfl
  | cons a ks ih => rw [List.foldl_cons, ih]; rfl

theorem Dev.present_stream (s : Dev) (t : Token) {ks : List Nat} (nd : ks.Nodup) (i : Nat) :
    (s.present t ks).stream i = if i ∈ ks then s.stream i ++ [t] else s.stream i := by
  unfold Dev.present
  induction ks generalizing s with
  | nil => rfl
  | cons a ks ih =>
    obtain ⟨fresh, nd⟩ := List.nodup_cons.mp nd
    rw [List.foldl_cons, ih _ nd, Dev.setStream_stream]
    by_cases h : i = a
    · subst h; simp [fresh]
    · simp [h]

/-! ### The snapshot in the module -/

/-- The unaligned inputs of a unit: a loom's by the plan, a shared unit's those with EARLY counts. -/
def Dev.openInputs (s : Dev) (u : Nat) : List Nat := if u < 2000 then s.inputsOf u false else (s.unit u).early.map (·.1)

/-- The streams on which a unit presents the marker: a loom's outputs. -/
def Dev.markerOutputs (s : Dev) (u : Nat) : List Nat := if u < 2000 then s.outputsOf u else []

/-- A snapshot: the unit's own, the marker on its outputs, and the marker at every other shared unit. -/
theorem Dev.snapshot_eq (s : Dev) (u : Nat) (n : W32) :
    s.snapshot u n = (sharedKeys.filter (· != u)).foldl (fun d k => d.modUnit k (takeMark n u))
      ((s.modUnit u (takeSnap n (s.openInputs u))).present (.marker n) (s.markerOutputs u)) := by
  unfold Dev.snapshot Dev.openInputs Dev.markerOutputs
  split <;> rfl

theorem Dev.snapshot_frame (s : Dev) (u : Nat) (n : W32) :
    s.snapshot u n = { s with units := (s.snapshot u n).units, net := (s.snapshot u n).net } := by
  rw [Dev.snapshot_eq, Dev.foldl_modUnit_frame _ (fun _ => takeMark n u), Dev.present_frame]
  rfl

theorem Dev.present_unit (s : Dev) (t : Token) (ks : List Nat) (i : Nat) : (s.present t ks).unit i = s.unit i := by
  rw [Dev.present_frame]; rfl

theorem mem_otherShared {k u : Nat} : k ∈ sharedKeys.filter (· != u) ↔ k ∈ sharedKeys ∧ k ≠ u := by simp

theorem Dev.snapshot_unit_self (s : Dev) (u : Nat) (n : W32) : (s.snapshot u n).unit u = takeSnap n (s.openInputs u) (s.unit u) := by
  rw [Dev.snapshot_eq, Dev.foldl_modUnit_unit_of_notMem (by simp) (fun _ => takeMark n u), Dev.present_unit, Dev.modUnit_unit, if_pos rfl]

theorem Dev.snapshot_unit_shared (s : Dev) {u k : Nat} (n : W32) (hk : k ∈ sharedKeys) (ne : k ≠ u) :
    (s.snapshot u n).unit k = takeMark n u (s.unit k) := by
  rw [Dev.snapshot_eq, Dev.foldl_modUnit_unit_of_nodup (sharedKeys_nodup.filter _) (mem_otherShared.mpr ⟨hk, ne⟩) (fun _ => takeMark n u),
    Dev.present_unit, Dev.modUnit_unit, if_neg ne]

theorem Dev.snapshot_unit_other (s : Dev) {u k : Nat} (n : W32) (ne : k ≠ u) (hk : k ∉ sharedKeys) : (s.snapshot u n).unit k = s.unit k := by
  rw [Dev.snapshot_eq, Dev.foldl_modUnit_unit_of_notMem (fun h => hk (mem_otherShared.mp h).1) (fun _ => takeMark n u),
    Dev.present_unit, Dev.modUnit_unit, if_neg ne]

/-- A loom presents the marker on every output. -/
theorem Dev.snapshot_stream_loom (s : Dev) {u : Nat} (n : W32) (loom : u < 2000) (nd : (s.outputsOf u).Nodup) (k : Nat) :
    (s.snapshot u n).stream k = if k ∈ s.outputsOf u then s.stream k ++ [.marker n] else s.stream k := by
  rw [Dev.snapshot_eq, Dev.foldl_modUnit_frame _ (fun _ => takeMark n u), Dev.markerOutputs, if_pos loom]
  exact Dev.present_stream _ _ nd k

/-- `d` is `s` after unit `u` has taken its snapshot of wave `n` and presented the marker to the shared units. -/
def Dev.Snapped (s : Dev) (n : W32) (u : Nat) (d : Dev) : Prop :=
  (s.unit u).Snapped n (d.unit u) ∧
  (∀ k, k ≠ u → k ∉ sharedKeys → d.unit k = s.unit k) ∧
  (∀ k ∈ sharedKeys, k ≠ u → ((s.unit k).markWave = n → u ∈ (d.unit k).marked) ∧
    d.unit k = { s.unit k with marked := (d.unit k).marked, rec0 := (d.unit k).rec0, rec1 := (d.unit k).rec1 }) ∧
  d = { s with units := d.units, net := d.net }

theorem Dev.snapshot_snapped (s : Dev) (u : Nat) (n : W32) : s.Snapped n u (s.snapshot u n) := by
  refine ⟨?_, fun k ne hk => s.snapshot_unit_other n ne hk, fun k hk ne => ?_, s.snapshot_frame u n⟩
  · rw [s.snapshot_unit_self]; exact takeSnap_snapped ..
  · rw [s.snapshot_unit_shared n hk ne]; exact ⟨mem_takeMark_marked u, takeMark_frame ..⟩

/-! ### TALLY_MARKER_ACCEPT -/

theorem Dev.wave_of_busy {s : Dev} (busy : s.tally.busy = true) : s.wave = some s.tally.injected := by rw [Dev.wave, if_pos busy]

/-- While a wave is in progress, the controller's marker makes the unit take its snapshot. -/
theorem Dev.ctlAccept_marker {s : Dev} {u : Nat} (busy : s.tally.busy = true) (marker : (s.unit u).ctlMarker = true) :
    s.ctlAccept u = s.snapshot u s.tally.injected := by
  rw [Dev.ctlAccept, Dev.wave_of_busy busy]
  simp only [marker, Bool.true_or, if_true]

/-- A unit takes the controller's marker, a loom only while it is live. -/
theorem runs_tallyMarkerAccept_controller (u : TUnit) (s : State) (live : ∀ l, u = .loom l → (s.loom l.val).live = true) :
    Runs (.tallyMarkerAccept u none) s (s.ctlAccept (unitKey u)) := by
  rw [Runs, exec, execTallyMarkerAccept]
  cases u with
  | loom l => exact s.onDev_next _ _ (if_pos (live l rfl))
  | shelf | store | ring | port | cellar | hopper => rfl

/-- A live loom takes the marker at the front of an input's stream. -/
theorem runs_tallyMarkerAccept_input {snd l : LoomId} {op ip : Fin 16} {n : W32} {rest : List Token} (s : State)
    (front : s.stream (streamKey snd.val op.val l.val ip.val) = .marker n :: rest) (live : (s.loom l.val).live = true) :
    Runs (.tallyMarkerAccept (.loom l) (some (snd, op, ip))) s
      ((s.setStream (streamKey snd.val op.val l.val ip.val) rest).inAccept l.val (streamKey snd.val op.val l.val ip.val) n) := by
  rw [Runs, exec, execTallyMarkerAccept]
  refine s.onDev_next _ _ ?_
  simp only [front, live, if_true]

/-- The marker of input `k` is taken from its stream and noted at loom `l` (R40, R41). -/
def Dev.noteMarker (s : Dev) (l k : Nat) (rest : List Token) : Dev :=
  (s.setStream k rest).modUnit l fun x => { x with marked := sinsert k x.marked }

/-- A marker of the wave in progress is noted, and that of the last aligned input makes the loom take its snapshot. -/
theorem Dev.inAccept_wave {s : Dev} {l k : Nat} {rest : List Token} (busy : s.tally.busy = true) (wave : (s.unit l).markWave = s.tally.injected)
    (due : (s.unit l).snap ≠ s.tally.injected) (kept : s.tally.injected.toNat ∉ s.tally.lost) :
    (s.setStream k rest).inAccept l k s.tally.injected =
      if k ∈ s.inputsOf l true ∧ ∀ i ∈ s.inputsOf l true, i = k ∨ i ∈ (s.unit l).marked
      then (s.noteMarker l k rest).snapshot l s.tally.injected else s.noteMarker l k rest := by
  have noted : (((s.setStream k rest).modUnit l fun x => { x with marked := sinsert k x.marked }).unit l).marked = sinsert k (s.unit l).marked := by
    rw [Dev.modUnit_unit, if_pos rfl]; rfl
  have inProgress : (s.setStream k rest).wave = some s.tally.injected := Dev.wave_of_busy busy
  have inputs : (s.setStream k rest).inputsOf l true = s.inputsOf l true := rfl
  rw [Dev.inAccept, inProgress, inputs]
  dsimp only
  rw [noted]
  simp [kept, wave, due, Dev.noteMarker]

/-- What the loom has marked has no part in its snapshot, so `noteMarker` before it shows in the streams alone. -/
theorem Dev.noteMarker_snapped (s : Dev) (l k : Nat) (rest : List Token) (n : W32) :
    s.Snapped n l ((s.noteMarker l k rest).snapshot l n) := by
  have self : (s.noteMarker l k rest).unit l = { s.unit l with marked := sinsert k (s.unit l).marked } := by
    rw [Dev.noteMarker, Dev.modUnit_unit, if_pos rfl]; rfl
  have other : ∀ i, i ≠ l → (s.noteMarker l k rest).unit i = s.unit i := fun i h => by
    rw [Dev.noteMarker, Dev.modUnit_unit, if_neg h]; rfl
  obtain ⟨own, unshared, shared, frame⟩ := (s.noteMarker l k rest).snapshot_snapped l n
  refine ⟨?_, fun i ne h => (unshared i ne h).trans (other i ne), fun i h ne => other i ne ▸ shared i h ne, frame⟩
  rw [self] at own
  exact own.of_marked

/-- Settles O11: the controller's marker and the last aligned input's both lead to the one snapshot. -/
theorem tallySnapshotIsTaken : Obligations.TallySnapshotIsTaken := by
  intro s busy
  refine ⟨fun u marker live => ?_, fun snd l op ip rest front live wave due kept => ?_⟩
  · have run := runs_tallyMarkerAccept_controller u s live
    rw [Dev.ctlAccept_marker busy marker] at run
    refine ⟨_, run, s.snapshot_snapped _ _, fun l loom nd => ?_⟩
    subst loom
    exact s.snapshot_stream_loom _ (show l.val < 2000 by omega) nd
  · have run := runs_tallyMarkerAccept_input s front live
    rw [Dev.inAccept_wave busy wave due kept] at run
    refine ⟨fun last => ?_, fun early => ?_⟩
    · rw [if_pos last] at run; exact ⟨_, run, s.noteMarker_snapped ..⟩
    · rw [if_neg early] at run; exact run

/-! ### Reports (R47) -/

/-- `d` is `s` but for the stalls' last complete waves, messages and functions. -/
def StallDoneFrame (s d : Dev) : Prop :=
  ∃ done ou fs, d = { s with tally := { s.tally with stallDone := done }, out := ou, hub := { s.hub with fns := fs } }

theorem StallDoneFrame.refl (s : Dev) : StallDoneFrame s s := ⟨_, _, _, rfl⟩
theorem StallDoneFrame.trans {s d e : Dev} : StallDoneFrame s d → StallDoneFrame d e → StallDoneFrame s e := by
  rintro ⟨_, _, _, rfl⟩ ⟨_, _, _, rfl⟩; exact ⟨_, _, _, rfl⟩

/-- A stall's entry advances and its function's vector is raised (R47). -/
def Dev.completeStall (s : Dev) (k : Nat) : Dev :=
  (s.modTally fun t => { t with stallDone := tset 0 t.stallDone k t.injected }).msix (k + 1) 1

theorem Dev.completeStall_frame (s : Dev) (k : Nat) : StallDoneFrame s (s.completeStall k) := ⟨_, _, _, Dev.msix_frame ..⟩

theorem Dev.foldl_completeStall_frame (ks : List Nat) (s : Dev) : StallDoneFrame s (ks.foldl Dev.completeStall s) := by
  induction ks generalizing s with
  | nil => exact .refl s
  | cons k ks ih => exact (s.completeStall_frame k).trans (ih _)

/-- The report of unit `u` reaches the controller. -/
def Dev.noteReport (s : Dev) (u : Nat) : Dev := s.modTally fun t => { t with reported := sinsert u t.reported }

/-- The stalls for which that report completes the wave. -/
def Dev.completedStalls (s : Dev) (u : Nat) : List Nat :=
  s.tally.participants.filter fun k => (s.noteReport u).tally.stallComplete k && !s.tally.stallComplete k

/-- The module once the report of unit `u` has advanced the entries of those stalls. -/
def Dev.reportUnit (s : Dev) (u : Nat) : Dev := (s.completedStalls u).foldl Dev.completeStall (s.noteReport u)

theorem Dev.reportUnit_frame (s : Dev) (u : Nat) : StallDoneFrame (s.noteReport u) (s.reportUnit u) := Dev.foldl_completeStall_frame ..

/-- The wave completes for the module. -/
def Dev.completeWave (s : Dev) : Dev :=
  (s.modTally fun t => { t with done := t.injected, busy := false, partialWave := false, lag := 0 }).msix 0 0

/-- Every shared unit has reported, and the wave is complete for every participating stall. -/
def TallySt.waveComplete (t : TallySt) : Bool := sharedKeys.all (fun k => t.reported.contains k) && t.participants.all t.stallComplete

/-- TALLY_REPORT of a unit of the wave that has taken its snapshot and not reported it yet. -/
theorem runs_tallyReport (u : TUnit) (s : State) (busy : s.tally.busy = true) (snap : (s.unit (unitKey u)).snap = s.tally.injected)
    (unreported : s.tally.reported.contains (unitKey u) = false)
    (member : 2000 ≤ unitKey u ∨ s.tally.members.any (fun m => m.2 == unitKey u) = true ∨ s.tally.looseUnit (unitKey u) = true) :
    Runs (.tallyReport u) s (if (s.noteReport (unitKey u)).tally.waveComplete
      then (s.reportUnit (unitKey u)).completeWave else s.reportUnit (unitKey u)) := by
  have due : (decide (2000 ≤ unitKey u) || s.tally.members.any (fun m => m.2 == unitKey u) || s.tally.looseUnit (unitKey u)) = true := by
    simpa only [Bool.or_eq_true, decide_eq_true_eq, or_assoc] using member
  rw [Runs, exec, execTallyReport]
  refine s.onDev_next _ _ ?_
  simp only [busy, snap, unreported, due, beq_self_eq_true, Bool.not_false, Bool.and_self, if_true]
  exact (apply_ite Host.Outcome.next ..).symm

/-- Settles O12: the report changes what has been reported and the entries of the stalls it completes; the last one completes the wave. -/
theorem tallyReportIsTaken : Obligations.TallyReportIsTaken := by
  intro u s busy snap unreported member
  have run := runs_tallyReport u s busy snap unreported member
  obtain ⟨done, ou, fs, frame⟩ := s.reportUnit_frame (unitKey u)
  refine ⟨_, run, ?_⟩
  by_cases complete : (s.noteReport (unitKey u)).tally.waveComplete = true
  · rw [if_pos complete, Dev.completeWave, frame]
    simp [Dev.noteReport]
  · rw [if_neg complete, frame]
    exact ⟨rfl, rfl, rfl, fun last => absurd ((Bool.and_eq_true ..).mpr last) complete⟩

/-! ### Abandonment (R48) -/

/-- The wave's units without a snapshot, looms of unassigned clusters among them. -/
def Dev.lateUnits (s : Dev) : List Nat :=
  (s.tally.members.map Prod.snd ++ (s.tally.loose.flatMap (fun c => (List.range 12).map (12 * c + ·)) ++ sharedKeys)).filter
    fun k => (s.unit k).snap != s.tally.injected

/-- The unit has missed the wave in progress: its banks and counters stay. -/
def UnitSt.abandon (x : UnitSt) : UnitSt := { x with abandoned := true, ctlMarker := false, marked := [], early := [], markWave := 0 }

/-- The units without a snapshot have missed the wave. -/
def Dev.abandonUnits (s : Dev) : Dev := s.lateUnits.foldl (fun d k => d.modUnit k .abandon) s

theorem Dev.abandonUnits_frame (s : Dev) : s.abandonUnits = { s with units := s.abandonUnits.units } :=
  Dev.foldl_modUnit_frame s.lateUnits (fun _ => .abandon) s

theorem Dev.abandonUnits_unit (s : Dev) (k : Nat) : s.abandonUnits.unit k = if k ∈ s.lateUnits then (s.unit k).abandon else s.unit k := by
  split
  next h => exact Dev.foldl_modUnit_unit_of_idem h (fun _ => .abandon) (fun _ => rfl) s
  next h => exact Dev.foldl_modUnit_unit_of_notMem h (fun _ => .abandon) s

/-- The module once the wave in progress is abandoned. -/
def Dev.abandonWave (s : Dev) : Dev :=
  (s.abandonUnits.modTally fun t => { t with
    done := t.injected, busy := false, partialWave := true, lag := BitVec.ofNat 12 (s.lateUnits.length + s.lateStations s.lateUnits),
    lost := sinsert t.injected.toNat t.lost }).msix 0 0

theorem Dev.abandonWave_tally (s : Dev) : s.abandonWave.tally = { s.tally with
    done := s.tally.injected, busy := false, partialWave := true, lag := BitVec.ofNat 12 (s.lateUnits.length + s.lateStations s.lateUnits),
    lost := sinsert s.tally.injected.toNat s.tally.lost } := by
  rw [Dev.abandonWave, Dev.msix_tally, Dev.modTally_tally, Dev.abandonUnits_frame]

theorem Dev.abandonWave_looms (s : Dev) : s.abandonWave.looms = s.looms := by
  rw [Dev.abandonWave, Dev.msix_looms, Dev.modTally_looms, Dev.abandonUnits_frame]

theorem Dev.abandonWave_unit (s : Dev) (k : Nat) : s.abandonWave.unit k = if k ∈ s.lateUnits then (s.unit k).abandon else s.unit k := by
  rw [Dev.abandonWave, Dev.msix_unit, Dev.modTally_unit, Dev.abandonUnits_unit]

theorem runs_tallyAbandon (us : Nat) (s : State) (busy : s.tally.busy = true) (elapsed : s.tally.timeoutNow ≤ us) :
    Runs (.tallyAbandon us) s s.abandonWave := by
  rw [Runs, exec, execTallyAbandon]
  refine s.onDev_next _ _ ?_
  simp only [busy, elapsed, decide_true, Bool.and_self, if_true]
  rfl

/-- Settles O13: only the units without a snapshot change, and of them no bank and no counter. -/
theorem tallyAbandonment : Obligations.TallyAbandonment := by
  intro us s busy elapsed
  have unit := s.abandonWave_unit
  have kept (k : Nat) : (s.abandonWave.unit k).live = (s.unit k).live ∧ (s.abandonWave.unit k).bank0 = (s.unit k).bank0 ∧
      (s.abandonWave.unit k).bank1 = (s.unit k).bank1 := by
    rw [unit]; split <;> exact ⟨rfl, rfl, rfl⟩
  refine ⟨s.abandonWave, runs_tallyAbandon us s busy elapsed, ?_⟩
  rw [s.abandonWave_tally]
  refine ⟨rfl, rfl, rfl, rfl, ⟨rfl, fun k late => ?_, fun k inTime => ?_⟩, kept, s.abandonWave_looms⟩
  · rw [unit]; exact congrArg UnitSt.abandoned (if_pos late)
  · rw [unit]; exact if_neg inTime

end Sys2Proof.Machine
end

section
/-!
PROOFS. What every station operation shares: its context and the start of its word, what reading tiles, raising events and writing
a tile leave as it is, and the slot of a written tile (R78 to R82, R104, R108, R132).
-/
namespace Sys2Proof.Machine

/-- The context of a loom is its own. -/
theorem Dev.ctx_l {s : Dev} {l : Nat} {c : Ctx} (h : s.ctx l = some c) : c.l = l := by
  unfold Dev.ctx at h
  dsimp only at h
  repeat' split at h
  all_goals cases h
  all_goals rfl

/-- A word that issues starts its operation. -/
theorem Dev.withWord_issues {s : Dev} {l o : Nat} {c : Ctx} {w : Nat} (h : s.issues l o c w) (k : Ctx → Sample → Nat → Dev) :
    s.withWord l o k = k c (sampleOf (s.loom l)) w := by
  obtain ⟨ctx, word, op⟩ := h
  simp only [Dev.withWord, ctx, word, op, if_true]

/-! ### Work of one loom -/

/-- `d` is `s` after work of loom `l`: no other loom and no other part of the module changes, and of the loom's counters at most
those in `ns`. -/
structure LoomWork (l : Nat) (ns : List Nat) (s d : Dev) : Prop where
  loomsOnly : s.loomsOnly d
  otherLooms : s.otherLooms d l
  counters : ∀ n, n ∉ ns → d.counter l n = s.counter l n

namespace LoomWork
variable {l : Nat} {ns : List Nat} {s d e : Dev}

theorem refl (s : Dev) : LoomWork l ns s s := ⟨rfl, fun _ _ => rfl, fun _ _ => rfl⟩

theorem trans (h : LoomWork l ns s d) (g : LoomWork l ns d e) : LoomWork l ns s e := by
  refine ⟨?_, fun i ne => (g.otherLooms i ne).trans (h.otherLooms i ne), fun n hn => (g.counters n hn).trans (h.counters n hn)⟩
  have he := g.loomsOnly
  rw [Dev.loomsOnly, h.loomsOnly] at he
  exact he

theorem draw (s : Dev) : LoomWork l ns s s.draw.2 := ⟨rfl, fun _ _ => rfl, fun _ _ => rfl⟩

theorem setLoom (h : LoomWork l ns s d) (x : LoomSt) : LoomWork l ns s (d.setLoom l x) :=
  h.trans ⟨rfl, fun i ne => by rw [Dev.setLoom_loom, if_neg ne], fun _ _ => rfl⟩

theorem modLoom (h : LoomWork l ns s d) (f : LoomSt → LoomSt) : LoomWork l ns s (d.modLoom l f) := h.setLoom _

theorem mono {ms : List Nat} (h : LoomWork l ns s d) (sub : ns ⊆ ms) : LoomWork l ms s d :=
  ⟨h.loomsOnly, h.otherLooms, fun n hn => h.counters n fun mem => hn (sub mem)⟩

theorem emit (h : LoomWork l ns s d) (o : Out) : LoomWork l ns s (d.emit o) := h.trans ⟨rfl, fun _ _ => rfl, fun _ _ => rfl⟩

theorem count (h : LoomWork l ns s d) {n : Nat} (hn : n ∈ ns) (k : Nat) : LoomWork l ns s (d.count l n k) :=
  h.trans ⟨rfl, fun _ _ => rfl, fun m hm => by
    rw [Dev.count_counter, if_neg (fun same : l = l ∧ m = n => hm (same.2 ▸ hn))]⟩

theorem ite {c : Prop} [Decidable c] (h : LoomWork l ns s d) (g : LoomWork l ns s e) : LoomWork l ns s (if c then d else e) := by
  split
  · exact h
  · exact g

theorem foldl {α : Type} {f : Dev → α → Dev} (g : ∀ t a, LoomWork l ns t (f t a)) (as : List α) (h : LoomWork l ns s d) :
    LoomWork l ns s (as.foldl f d) := by
  induction as generalizing d with
  | nil => exact h
  | cons a as ih => exact ih (h.trans (g d a))

/-- An event in the loom's record (R81). -/
theorem excEvent (h : LoomWork l ns s d) (row col plane op run er ec ord : Nat) (ev : Nat × Nat × Nat) :
    LoomWork l ns s (d.excEvent l row col plane op run er ec ord ev) :=
  .ite ((h.setLoom _).emit _) (h.setLoom _)

/-- The events of a tile (R78 to R82). -/
theorem recordEvents (h : LoomWork l ns s d) (hns : [3, 4, 5, 6] ⊆ ns) (row col plane op run : Nat) (evs : EvList)
    (ord : Option (Nat → Nat → Nat)) : LoomWork l ns s (d.recordEvents l row col plane op run evs ord) := by
  unfold Dev.recordEvents
  refine ((((ite (modLoom ?latched _) ?latched).count (hns (by decide)) _).count (hns (by decide)) _).count (hns (by decide)) _).count
    (hns (by decide)) _
  exact foldl (fun t e => foldl (fun t r => ite (refl t) ((refl t).excEvent ..)) _ (refl t)) _ h

theorem readTiles (h : LoomWork l ns s d) (h13 : 13 ∈ ns) (slots : List Nat) : LoomWork l ns s (d.readTiles l slots) :=
  h.foldl (fun t _ => ((refl t).modLoom _).count h13 _) slots

theorem raiseOut {c : Ctx} (h : LoomWork c.l ns s d) (hns : [3, 4, 5, 6] ⊆ ns) (p : Sample) (o : OutTile) : LoomWork c.l ns s (d.raiseOut c p o) :=
  h.recordEvents hns ..

theorem putTile {c : Ctx} (h : LoomWork c.l ns s d) (h14 : 14 ∈ ns) (port run : Nat) (dz : Desc) (coord : Nat × Nat × Nat) (t : Tile) :
    LoomWork c.l ns s (d.putTile c port run dz coord t) :=
  have written := (h.modLoom _).count h14 _
  .ite (written.modLoom _) written

end LoomWork

/-! ### A written tile -/

/-- The slot holds the tile: its bytes, its selvedge, and it can be read. -/
structure LoomSt.HoldsTile (x : LoomSt) (i : Nat) (t : Tile) : Prop where
  bytes : benchBytes x (8192 * i) t.data.length = t.data
  tag : (x.slot i).tag = t.tag
  readable : readable x i = true

theorem benchBytes_benchWrite (x : LoomSt) (a : Nat) (v : List Byte) : benchBytes (benchWrite x a v) a v.length = v := by
  refine List.ext_getElem (by simp only [benchBytes, tgetRange, List.length_map, List.length_range]) fun k _ hk => ?_
  have byte := benchByte_benchWrite x a (a + k) v
  rw [if_pos ⟨Nat.le_add_right .., Nat.add_lt_add_left hk a⟩, Nat.add_sub_cancel_left, List.getD_eq_getElem?_getD,
    List.getElem?_eq_getElem hk, Option.getD_some] at byte
  simp only [benchBytes, tgetRange, List.getElem_map, List.getElem_range]
  exact byte

theorem LoomSt.HoldsTile.congr {x y : LoomSt} {i : Nat} {t : Tile} (h : x.HoldsTile i t) (slots : y.slots = x.slots) (bench : y.bench = x.bench) :
    y.HoldsTile i t := by
  obtain ⟨bytes, tag, readable⟩ := h
  simp only [benchBytes, LoomSt.slot, Sys2Proof.Machine.readable, ← slots, ← bench] at bytes tag readable
  exact ⟨bytes, tag, readable⟩

theorem writeTile_holdsTile (x : LoomSt) (i : Nat) (t : Tile) (r port : Nat) : (writeTile x i t r port).HoldsTile i t :=
  have ⟨tag, readable, _⟩ := writeTile_slot x i i t r port
  ⟨benchBytes_benchWrite x (8192 * i) t.data, tag, readable⟩

/-- Placing a tile in a queue after it is written leaves slots and Bench. -/
theorem Dev.putTile_holdsTile (s : Dev) (c : Ctx) (port run : Nat) (d : Desc) (coord : Nat × Nat × Nat) (t : Tile) :
    ((s.putTile c port run d coord t).loom c.l).HoldsTile (ringSlot d coord) t := by
  have written (r : Nat) := writeTile_holdsTile (s.loom c.l) (ringSlot d coord) t r port
  unfold Dev.putTile
  dsimp only
  split
  · rw [Dev.modLoom_loom_same, Dev.count_loom, Dev.modLoom_loom_same]
    exact (written 0).congr rfl rfl
  · rw [Dev.count_loom, Dev.modLoom_loom_same]
    exact written d.readers

end Sys2Proof.Machine
end

section
/-!
PROOFS. The apex's words: APX and APX_COMBINE (R145, R226, R352, R354).
-/
namespace Sys2Proof.Machine

/-! ### APX -/

/-- The number that the next partial of `TIN` takes in the loom's run (R352). -/
def LoomSt.apxNumber (x : LoomSt) (tin : Nat) : Nat :=
  let run := tget (0, 0) x.apxRun tin
  if run.1 = x.runSeq + 1 then run.2 else 0

/-- The loom with an APX begun that takes partial number `n`. -/
def LoomSt.apxBegin (x : LoomSt) (tin n : Nat) : LoomSt :=
  { x with apx := some { smp := sampleOf x, j := n }, apxRun := tset (0, 0) x.apxRun tin (x.runSeq + 1, n + 1) }

/-- The module after loom `l` has issued an APX of `TIN`. -/
def Dev.apxIssue (s : Dev) (l tin : Nat) : Dev := advance (s.modLoom l fun x => x.apxBegin tin (x.apxNumber tin)) l

theorem runs_apx {l : LoomId} {s : State} {c : Ctx} {w : Nat} (issues : s.issues l.val 0x70 c w) (idle : (s.loom l.val).apx = none) :
    Runs (.apx l) s (s.apxIssue l.val (apxTIN w)) := by
  rw [Runs, exec, execApx]
  refine s.onDev_next _ _ (congrArg Host.Outcome.next ?_)
  rw [Dev.withWord_issues issues]
  simp only [idle, Option.isSome_none, Bool.false_eq_true, if_false]
  rfl

theorem Dev.apxIssue_loom (s : Dev) (l tin : Nat) : (s.apxIssue l tin).loom l =
    ((s.loom l).apxBegin tin ((s.loom l).apxNumber tin)).goto (nextPc (s.loom l)) := by
  rw [Dev.apxIssue, advance, Dev.modLoom_loom_same, Dev.modLoom_loom_same]
  rfl

theorem Dev.apxIssue_work (s : Dev) (l tin : Nat) : LoomWork l [] s (s.apxIssue l tin) :=
  ((LoomWork.refl s).modLoom _).modLoom fun x => x.goto (nextPc x)

/-! ### APX_COMBINE -/

theorem apxIns_length (di : Desc) (j : ApxJob) : (apxIns di j).length = apxP j.smp.w := by
  simp only [apxIns, List.length_map, List.length_range]

/-- The descriptor of the (m, l) tiles. -/
def Ctx.apxMlDesc (c : Ctx) (di : Desc) (j : ApxJob) : Desc := (c.st.desc (apxTML j.smp.w)).getD di

/-- The slots that an apex reads: the partials, then their (m, l) tiles. -/
def apxReads (di dm : Desc) (j : ApxJob) : List Nat := apxIns di j ++ apxMls di dm j

/-- The partials name one output tile (R354). -/
def apxSame (x : LoomSt) (di : Desc) (j : ApxJob) : Bool :=
  (apxIns di j).all fun i => tagCoord (x.slot i).tag == tagCoord (x.slot ((apxIns di j).headD 0)).tag

/-- What the apex makes of the partials, with the next free draw. -/
def Dev.apxResult (s : Dev) (c : Ctx) (di dm dz : Desc) (j : ApxJob) : OutTile := apxOut c s.draw.2 di dm dz j s.freeCtr

/-- The tile that the apex writes: the result, with the partials' V, O, U and X in its selvedge. -/
def Dev.apxTile (s : Dev) (c : Ctx) (di dm dz : Desc) (j : ApxJob) : Tile :=
  let o := s.apxResult c di dm dz j
  { tag := apxTag o c.stall ((apxReads di dm j).map fun i => ((s.loom c.l).slot i).tag), data := o.data }

/-- The module once the apex has read the partials and written its tile. -/
def Dev.apxWrite (s : Dev) (c : Ctx) (di dm dz : Desc) (j : ApxJob) : Dev :=
  let o := s.apxResult c di dm dz j
  (((s.draw.2.readTiles c.l (apxReads di dm j)).raiseOut c j.smp o).count c.l 2 1).putTile c 3 j.smp.runSeq dz o.coord (s.apxTile c di dm dz j)

/-- The loom once its APX is over. -/
def LoomSt.apxEnd (x : LoomSt) (read : List Nat) : LoomSt := { x with apx := none, apxOrder := x.apxOrder.filter fun i => !read.contains i }

/-- The module once the apex has combined the partials. -/
def Dev.apxCombine (s : Dev) (c : Ctx) (di dm dz : Desc) (j : ApxJob) : Dev :=
  ((s.apxWrite c di dm dz j).count c.l 58 (apxIns di j).length).modLoom c.l fun x => x.apxEnd (apxReads di dm j)

/-- The slot of the apex's output tile. -/
def Dev.apxSlot (s : Dev) (c : Ctx) (dz : Desc) (j : ApxJob) : Nat := ringSlot dz (c.at_ s dz j.smp 0 0 0)

section
variable {l : LoomId} {s : State} {c : Ctx} {j : ApxJob} {di dz : Desc}
variable (ctx : s.ctx l.val = some c) (job : (s.loom l.val).apx = some j) (live : (s.loom l.val).live = true)
  (tin : c.st.desc (apxTIN j.smp.w) = some di) (tout : c.st.desc (apxTOUT j.smp.w) = some dz)
include ctx job live tin tout

/-- Partials of different tiles fault the loom. -/
theorem runs_apxCombine_differ
    (ready : rdSlots c.stall (s.loom l.val) (apxReads di (c.apxMlDesc di j) j) = .ready)
    (differ : apxSame (s.loom l.val) di j = false) : Runs (.apxCombine l) s (s.faultLoom l.val 5 0 0 0 j.smp.op) := by
  rw [apxReads, Ctx.apxMlDesc] at ready
  rw [apxSame] at differ
  rw [Runs, exec, execApxCombine]
  refine s.onDev_next _ _ (congrArg Host.Outcome.next ?_)
  simp only [ctx, job, tin, tout, live, ready, differ, Bool.not_true, Bool.not_false, Bool.false_eq_true, if_false, if_true]

/-- Partials of one tile whose slot can be claimed are combined. -/
theorem runs_apxCombine_same
    (ready : rdSlots c.stall (s.loom l.val) (apxReads di (c.apxMlDesc di j) j) = .ready)
    (same : apxSame (s.loom l.val) di j = true) (free : wrSlots (s.loom l.val) 3 [s.apxSlot c dz j] = .ready) :
    Runs (.apxCombine l) s (s.apxCombine c di (c.apxMlDesc di j) dz j) := by
  rw [apxReads, Ctx.apxMlDesc] at ready
  rw [apxSame] at same
  rw [Dev.apxSlot] at free
  rw [Runs, exec, execApxCombine]
  refine s.onDev_next _ _ (congrArg Host.Outcome.next ?_)
  simp only [ctx, job, tin, tout, live, ready, same, free, Bool.not_true, Bool.false_eq_true, if_false]
  rw [← Dev.ctx_l ctx]
  rfl

end

/-! ### What the combined tile leaves -/

section
variable (s : Dev) (c : Ctx) (di dm dz : Desc) (j : ApxJob)

theorem Dev.apxWrite_work : LoomWork c.l [2, 3, 4, 5, 6, 13, 14] s (s.apxWrite c di dm dz j) :=
  ((((LoomWork.draw s).readTiles (by decide) _).raiseOut (by decide) _ _).count (by decide) _).putTile (by decide) ..

theorem Dev.apxWrite_holdsTile : ((s.apxWrite c di dm dz j).loom c.l).HoldsTile (s.apxSlot c dz j) (s.apxTile c di dm dz j) :=
  Dev.putTile_holdsTile ..

theorem Dev.apxCombine_loom : (s.apxCombine c di dm dz j).loom c.l = ((s.apxWrite c di dm dz j).loom c.l).apxEnd (apxReads di dm j) := by
  rw [Dev.apxCombine, Dev.modLoom_loom_same, Dev.count_loom]

theorem Dev.apxCombine_holdsTile : ((s.apxCombine c di dm dz j).loom c.l).HoldsTile (s.apxSlot c dz j) (s.apxTile c di dm dz j) := by
  rw [Dev.apxCombine_loom]
  exact (s.apxWrite_holdsTile c di dm dz j).congr rfl rfl

theorem Dev.apxCombine_counter :
    (s.apxCombine c di dm dz j).counter c.l 58 = s.counter c.l 58 + BitVec.ofNat 64 (apxP j.smp.w) := by
  rw [Dev.apxCombine, Dev.modLoom_counter, Dev.count_counter, if_pos ⟨rfl, rfl⟩, (s.apxWrite_work c di dm dz j).counters 58 (by decide),
    apxIns_length]

theorem Dev.apxCombine_work : LoomWork c.l [2, 3, 4, 5, 6, 13, 14, 58] s (s.apxCombine c di dm dz j) :=
  (((s.apxWrite_work c di dm dz j).mono (by decide)).count (by decide) _).modLoom _

end

/-- Settles O37: APX begins with the next number of its run; APX_COMBINE faults on partials of different tiles and writes the tile
of those that name one. -/
theorem apexWords : Obligations.ApexWords := by
  intro l s c ctx
  refine ⟨fun w issues idle => ?_, fun j di dz job live tin tout ready => ⟨fun differ => ?_, fun same free => ?_⟩⟩
  · have work := s.apxIssue_work l.val (apxTIN w)
    refine ⟨_, runs_apx issues idle, ?_, ?_, ?_, work.loomsOnly, work.otherLooms⟩ <;> rw [Dev.apxIssue_loom]
    · rfl
    · rfl
    · exact tget_tset_same (0, 0) (s.loom l.val).apxRun (apxTIN w) ((s.loom l.val).runSeq + 1, (s.loom l.val).apxNumber (apxTIN w) + 1)
  · exact runs_apxCombine_differ ctx job live tin tout ready differ
  · refine ⟨_, runs_apxCombine_same ctx job live tin tout ready same free, ?_⟩
    rw [← Dev.ctx_l ctx]
    have work := s.apxCombine_work c di (c.apxMlDesc di j) dz j
    have tile := s.apxCombine_holdsTile c di (c.apxMlDesc di j) dz j
    refine ⟨?_, tile.readable, tile.bytes, tile.tag, s.apxCombine_counter .., work.loomsOnly, work.otherLooms⟩
    rw [Dev.apxCombine_loom, LoomSt.apxEnd]

end Sys2Proof.Machine
end

section
/-!
PROOFS. Lines of the tiers: what traffic, accounting and a block's marks leave of them, and what a line reads as once it is written
through its Shelf, at its controller or at its port (R313 to R316, R322).
-/
namespace Sys2Proof.Machine

/-- A range of a table reads as what was written over it. -/
theorem tgetRange_tsetRange {α : Type} [DecidableEq α] (d : α) (t : Tab α) (i : Nat) {v : List α} {n : Nat} (whole : v.length = n) :
    tgetRange d (tsetRange d t i v) i n = v := by
  subst whole
  refine List.ext_getElem (by simp only [tgetRange, List.length_map, List.length_range]) fun k _ hk => ?_
  simp only [tgetRange, List.getElem_map, List.getElem_range]
  rw [tget_tsetRange, if_pos ⟨Nat.le_add_right .., Nat.add_lt_add_left hk i⟩, Nat.add_sub_cancel_left, List.getD_eq_getElem?_getD,
    List.getElem?_eq_getElem hk, Option.getD_some]

/-! ### Tables that a step of an access leaves -/

theorem TierFrame.loom {s d : Dev} (h : TierFrame s d) (i : Nat) : d.loom i = s.loom i := by rw [Dev.loom, Dev.loom, h.looms]

theorem sharedFlight_live (i n b : Nat) (x : UnitSt) : (sharedFlight i n b x).live = x.live := by
  unfold sharedFlight
  dsimp only
  repeat' split
  all_goals rfl

theorem Dev.accept_mem (s : Dev) (src dst n b : Nat) : (s.accept src dst n b).mem = s.mem := by
  unfold Dev.accept; split <;> rfl

theorem Dev.accept_counter (s : Dev) (src dst n b u m : Nat) : (s.accept src dst n b).counter u m = s.counter u m := by
  unfold Dev.accept
  split
  · rw [Dev.counter, Dev.counter, Dev.modUnit_unit]
    split
    · next same => rw [sharedFlight_live, same]
    · rfl
  · rfl

theorem shelfKey_shared (k : Nat) : 2000 ≤ shelfKey k := by rw [shelfKey]; omega
theorem storeKey_shared (k : Nat) : 2000 ≤ storeKey k := by rw [storeKey]; omega
theorem ringKey_shared (k : Nat) : 2000 ≤ ringKey k := by rw [ringKey]; omega
theorem celKey_shared (p : Nat) : 2000 ≤ celKey p := by rw [celKey]; omega

/-! ### Traffic -/

theorem Dev.peekLine_congr {s d : Dev} (shelf : d.mem.shelf = s.mem.shelf) (store : d.mem.store = s.mem.store) (stks : d.mem.stks = s.mem.stks)
    (cellar : d.mem.cellar = s.mem.cellar) (poison : d.mem.cellarPoison = s.mem.cellarPoison) (loc : Loc) : d.peekLine loc = s.peekLine loc := by
  cases loc with
  | store st a => unfold Dev.peekLine Dev.shelfLines storePoisoned MemSt.stack lineOfStore; rw [shelf, store, stks]
  | cellar p a => unfold Dev.peekLine celPoisoned celLine; rw [cellar, poison]

theorem Dev.count_peekLine (s : Dev) (u n k : Nat) (loc : Loc) : (s.count u n k).peekLine loc = s.peekLine loc :=
  Dev.peekLine_congr rfl rfl rfl rfl rfl loc

/-- `d` is `s` after traffic and accounting: within the frame of an access, with every line of the tiers as it was and the counters
of every loom (whose unit key is below 2000). -/
structure Traffic (s d : Dev) : Prop where
  frame : TierFrame s d
  lines : ∀ loc, d.peekLine loc = s.peekLine loc
  counters : ∀ u n, u < 2000 → d.counter u n = s.counter u n

namespace Traffic
variable {s d e : Dev}

theorem refl (s : Dev) : Traffic s s := ⟨.refl s, fun _ => rfl, fun _ _ _ => rfl⟩

theorem trans (h : Traffic s d) (g : Traffic d e) : Traffic s e :=
  ⟨h.frame.trans g.frame, fun loc => (g.lines loc).trans (h.lines loc), fun u n hu => (g.counters u n hu).trans (h.counters u n hu)⟩

theorem regAdds (h : Traffic s d) (i k n : Nat) : Traffic s (d.regAdds i k n) :=
  h.trans ⟨(TierFrame.refl d).regAdds .., Dev.peekLine_congr rfl rfl rfl rfl rfl, fun _ _ _ => rfl⟩

theorem regAdd (h : Traffic s d) (i k : Nat) : Traffic s (d.regAdd i k) := h.regAdds i k 1

/-- A counter of a unit that is no loom. -/
theorem count (h : Traffic s d) {u : Nat} (shared : 2000 ≤ u) (n k : Nat) : Traffic s (d.count u n k) :=
  h.trans ⟨(TierFrame.refl d).count .., d.count_peekLine u n k, fun v m hv => by
    rw [Dev.count_counter, if_neg fun same => by omega]⟩

theorem accept (h : Traffic s d) (src dst n b : Nat) : Traffic s (d.accept src dst n b) := by
  have mem := d.accept_mem src dst n b
  exact h.trans ⟨(TierFrame.refl d).accept .., Dev.peekLine_congr (by rw [mem]) (by rw [mem]) (by rw [mem]) (by rw [mem]) (by rw [mem]),
    fun u m _ => d.accept_counter src dst n b u m⟩

theorem markWrite (h : Traffic s d) (k : Nat) (r : Region) (b g : Nat) : Traffic s (d.markWrite k r b g) :=
  h.trans ⟨(TierFrame.refl d).markWrite .., Dev.peekLine_congr rfl rfl rfl rfl rfl, fun _ _ _ => rfl⟩

theorem ite {c : Prop} [Decidable c] (h : Traffic s d) (g : Traffic s e) : Traffic s (if c then d else e) := by
  split
  · exact h
  · exact g

theorem ringPass (h : Traffic s d) (k src n : Nat) (hops : List (Nat × Bool)) : Traffic s (d.ringPass k src n hops) := by
  have hop (t : Dev) (i a b c u m v : Nat) (x : Nat × Bool) :
      Traffic t ((((t.regAdds i k n).accept a b n c).count (ringKey x.1) u m).count (ringKey x.1) 2 v) :=
    ((((refl t).regAdds ..).accept ..).count (ringKey_shared _) ..).count (ringKey_shared _) ..
  unfold Dev.ringPass
  refine List.foldlRecOn (motive := Traffic s) hops _ h fun t ht x _ => ht.trans (hop ..)

/-- A line on its way between a loom and its place (R13, R42). -/
theorem lineTraffic (h : Traffic s d) (k : Nat) (src : Option Nat) (loc : Loc) (write : Bool) : Traffic s (d.lineTraffic k src loc write) := by
  cases src with
  | none => cases loc <;> exact h
  | some m =>
    cases loc with
    | store st a => exact (ite (h.ringPass ..) (h.ringPass ..)).accept ..
    | cellar p a => exact h.accept ..

end Traffic

/-! ### Lines in a Shelf -/

/-- The Shelf's copy of a Store line, if it holds one. -/
def Dev.shelfLine (s : Dev) (st ln : Nat) : Option ShelfLine :=
  (s.shelfLines (st / 3)).find? fun x => x.line == shelfLineKey st ln && !x.released

theorem Dev.shelfLine_congr {s d : Dev} (shelf : d.mem.shelf = s.mem.shelf) (st ln : Nat) : d.shelfLine st ln = s.shelfLine st ln := by
  rw [Dev.shelfLine, Dev.shelfLine, Dev.shelfLines, Dev.shelfLines, shelf]

theorem Dev.shelfLine_some {s : Dev} {st ln : Nat} {x : ShelfLine} (h : s.shelfLine st ln = some x) :
    x.line = shelfLineKey st ln ∧ x.released = false := by
  have found := List.find?_some h
  simpa using found

theorem Dev.shelfLine_none {s : Dev} {st ln : Nat}
    (h : (s.shelfLines (st / 3)).any (fun x => x.line == shelfLineKey st ln && !x.released) = false) : s.shelfLine st ln = none := by
  rw [Dev.shelfLine, List.find?_eq_none]
  exact fun x hx => by rw [List.any_eq_false] at h; exact h x hx

theorem Dev.peekLine_shelved {s : Dev} {st a : Nat} {x : ShelfLine} (h : s.shelfLine st (a / 64) = some x) :
    s.peekLine (.store st a) = some x.data := by
  rw [Dev.shelfLine] at h
  simp only [Dev.peekLine, h]

theorem Dev.peekLine_unshelved {s : Dev} {st a : Nat} (h : s.shelfLine st (a / 64) = none) :
    s.peekLine (.store st a) = if storePoisoned s.mem st (a / 64) then none else some (lineOfStore s.mem st (a / 64)) := by
  rw [Dev.shelfLine] at h
  simp only [Dev.peekLine, h]

/-- A line at the most recently used place of its Shelf is what the tiers hold. -/
theorem Dev.setShelf_peekLine (s : Dev) {st a : Nat} {x : ShelfLine} (key : x.line = shelfLineKey st (a / 64)) (held : x.released = false)
    (ls : List ShelfLine) : (s.setShelf (st / 3) (x :: ls)).peekLine (.store st a) = some x.data := by
  refine Dev.peekLine_shelved ?_
  rw [Dev.shelfLine, Dev.setShelf_shelfLines, if_pos rfl, List.find?_cons_of_pos]
  simp only [key, held, beq_self_eq_true, Bool.not_false, Bool.and_self]

theorem Dev.shelfPut_peekLine (s : Dev) {st a : Nat} {x : ShelfLine} (key : x.line = shelfLineKey st (a / 64)) (held : x.released = false)
    (keep : Bool) : (s.shelfPut (st / 3) x keep).peekLine (.store st a) = some x.data :=
  Dev.setShelf_peekLine _ (by exact key) (by exact held) _

/-- A fill allocates no line and counts it, or puts the line in its Shelf (R315). -/
theorem Dev.shelfFill_cases (s : Dev) (die : Nat) (x : ShelfLine) :
    s.shelfFill die x = (false, s.count (shelfKey die) 2 1) ∨ ∃ t : Dev, s.shelfFill die x = (true, t.shelfPut die x x.kept) := by
  unfold Dev.shelfFill
  dsimp only
  generalize s.stallRec x.stall = q
  cases q
  · exact .inl rfl
  dsimp only
  split
  · exact .inl rfl
  · split
    · exact .inl rfl
    · exact .inr ⟨_, rfl⟩

/-! ### Lines at their controller and at their port -/

theorem Dev.stcWrite_shelf (s : Dev) (k st ln : Nat) (v : List Byte) : (s.stcWrite k st ln v).mem.shelf = s.mem.shelf := by
  simp only [Dev.stcWrite, Dev.modMem, MemSt.modStack, Dev.count_mem, Dev.accept_mem, Dev.regAdd, Dev.regAdds, Dev.modReg]

theorem Dev.stcWrite_store (s : Dev) (k st ln : Nat) (v : List Byte) :
    (s.stcWrite k st ln v).mem.store = tsetRange 0 s.mem.store (storeKeyOf st (64 * ln)) v := by
  simp only [Dev.stcWrite, Dev.modMem, MemSt.modStack, Dev.count_mem, Dev.accept_mem, Dev.regAdd, Dev.regAdds, Dev.modReg]

theorem Dev.stcWrite_clean (s : Dev) (k st ln : Nat) (v : List Byte) : storePoisoned (s.stcWrite k st ln v).mem st ln = false := by
  simp [Dev.stcWrite, storePoisoned, Dev.modMem, MemSt.modStack, MemSt.stack, tmod]

/-- A whole line written at its controller is what the tiers hold where no Shelf has a copy (R322). -/
theorem Dev.stcWrite_peekLine {s : Dev} (k : Nat) {st a : Nat} {v : List Byte} (absent : s.shelfLine st (a / 64) = none) (whole : v.length = 64) :
    (s.stcWrite k st (a / 64) v).peekLine (.store st a) = some v := by
  have shelf : (s.stcWrite k st (a / 64) v).shelfLine st (a / 64) = none := by
    rw [Dev.shelfLine_congr (s.stcWrite_shelf ..), absent]
  rw [Dev.peekLine_unshelved shelf, Dev.stcWrite_clean, if_neg Bool.false_ne_true, lineOfStore, Dev.stcWrite_store,
    tgetRange_tsetRange 0 _ _ whole]

theorem Dev.celWrite_cellar (s : Dev) (k p ln off : Nat) {v : List Byte} (whole : v.length = 64) :
    (s.celWrite k p ln off v).2.mem.cellar = tsetRange 0 s.mem.cellar (celKeyOf p (64 * ln) + off) v := by
  simp only [Dev.celWrite, whole, ne_eq, not_true_eq_false, and_false, if_false, Dev.modMem, Dev.count_mem, Dev.regAdd, Dev.regAdds, Dev.modReg]

theorem Dev.celWrite_clean (s : Dev) (k p ln off : Nat) {v : List Byte} (whole : v.length = 64) :
    celPoisoned (s.celWrite k p ln off v).2.mem p ln = false := by
  simp only [celPoisoned, Dev.celWrite, whole, ne_eq, not_true_eq_false, and_false, if_false, Dev.modMem, List.contains_eq_mem,
    List.mem_filter, bne_self_eq_false, Bool.false_eq_true, decide_false]

/-- A whole line written at its port is what the tiers hold (R322). -/
theorem Dev.celWrite_peekLine (s : Dev) (k p a : Nat) {v : List Byte} (whole : v.length = 64) :
    (s.celWrite k p (a / 64) 0 v).2.peekLine (.cellar p a) = some v := by
  rw [Dev.peekLine, Dev.celWrite_clean s k p (a / 64) 0 whole, if_neg Bool.false_ne_true, celLine, Dev.celWrite_cellar s k p (a / 64) 0 whole,
    Nat.add_zero, tgetRange_tsetRange 0 _ _ whole]

/-! ### A line written whole through its Shelf -/

theorem splice_whole {line v : List Byte} {off : Nat} (h : line.length = 64) (fits : off + v.length ≤ 64) : (splice line off v).length = 64 := by
  simp only [splice, List.length_append, List.length_take, List.length_drop]; omega

theorem splice_zero (line v : List Byte) : splice line 0 v = v ++ line.drop v.length := by
  rw [splice, List.take_zero, List.nil_append, Nat.zero_add]

/-- A whole line written through the Shelf to a writable region meets no poison, and is then what the tiers hold, in the Shelf or
at the controller (R313, R314). -/
theorem Dev.shelfWrite_whole (s : Dev) (k : Nat) {r : Region} (st a hint : Nat) {v : List Byte} (write : r.write = true) (whole : v.length = 64) :
    ∃ t, s.shelfWrite k r st (a / 64) hint 0 v = (true, t) ∧ (t.peekLine (.store st a)).map (·.take 64) = some v := by
  have spliced (line : List Byte) : (splice line 0 v).take 64 = v := by rw [splice_zero, ← whole, List.take_left]
  have itself : splice v 0 v = v := by rw [splice_zero, List.drop_length, List.append_nil]
  have front : v.take 64 = v := List.take_of_length_le (Nat.le_of_eq whole)
  unfold Dev.shelfWrite
  simp only [write, whole, beq_self_eq_true, if_true, Bool.not_true, Bool.false_eq_true, or_false, itself]
  cases h : s.shelfLine st (a / 64) with
  | some x =>
    have ⟨key, held⟩ := Dev.shelfLine_some h
    rw [Dev.shelfLine] at h
    simp only [h]
    exact ⟨_, rfl, by rw [Dev.shelfPut_peekLine _ (by exact key) (by exact held), Option.map_some, spliced]⟩
  | none =>
    have absent := h
    have atController (t : Dev) (shelf : t.mem.shelf = s.mem.shelf) :
        ((t.stcWrite k st (a / 64) v).peekLine (.store st a)).map (·.take 64) = some v := by
      rw [Dev.stcWrite_peekLine k ((Dev.shelfLine_congr shelf ..).trans absent) whole, Option.map_some, front]
    rw [Dev.shelfLine] at h
    simp only [h]
    split
    · exact ⟨_, rfl, atController _ rfl⟩
    · generalize fill : Dev.shelfFill _ _ _ = filled
      rcases Dev.shelfFill_cases _ _ _ with refused | ⟨t, put⟩
      · rw [refused] at fill
        subst fill
        exact ⟨_, rfl, atController _ rfl⟩
      · rw [put] at fill
        subst fill
        exact ⟨_, rfl, by rw [Dev.shelfPut_peekLine _ rfl rfl, Option.map_some, front]⟩

/-! ### A line put back after a reduce -/

theorem Dev.modMem_id (s : Dev) : s.modMem id = s := rfl

/-- A line is put back by traffic and one update of the tiers. -/
theorem Dev.putLine_traffic (s : Dev) (k : Nat) (loc : Loc) (v : List Byte) : ∃ t f, Traffic s t ∧ s.putLine k loc v = t.modMem f := by
  cases loc with
  | store st a =>
    unfold Dev.putLine
    dsimp only
    split
    · exact ⟨s, _, .refl s, rfl⟩
    · unfold Dev.stcWrite
      exact ⟨_, _, (((Traffic.refl s).regAdd _ _).accept _ _ _ _).count (storeKey_shared st) _ _, rfl⟩
  | cellar p a =>
    have unit := (Traffic.refl s).regAdd (regCellar p) k
    unfold Dev.putLine Dev.celWrite
    dsimp only
    split <;> dsimp only
    · exact ⟨_, id, (unit.count (celKey_shared p) 0 1).count (celKey_shared p) 4 1, (Dev.modMem_id _).symm⟩
    · exact ⟨_, _, unit.count (celKey_shared p) 1 1, rfl⟩

theorem Dev.putLine_loom (s : Dev) (k : Nat) (loc : Loc) (v : List Byte) (i : Nat) : (s.putLine k loc v).loom i = s.loom i := by
  obtain ⟨t, f, traffic, put⟩ := s.putLine_traffic k loc v
  rw [put, Dev.modMem_loom, traffic.frame.loom]

theorem Dev.putLine_counter (s : Dev) (k : Nat) (loc : Loc) (v : List Byte) {u : Nat} (loom : u < 2000) (n : Nat) :
    (s.putLine k loc v).counter u n = s.counter u n := by
  obtain ⟨t, f, traffic, put⟩ := s.putLine_traffic k loc v
  rw [put, Dev.modMem_counter, traffic.counters u n loom]

/-- A whole line put back is what the tiers hold. -/
theorem Dev.putLine_peekLine (s : Dev) (k : Nat) (loc : Loc) {v : List Byte} (whole : v.length = 64) :
    (s.putLine k loc v).peekLine loc = some v := by
  cases loc with
  | store st a =>
    cases h : s.shelfLine st (a / 64) with
    | some x =>
      have ⟨key, held⟩ := Dev.shelfLine_some h
      rw [Dev.shelfLine] at h
      simp only [Dev.putLine, h]
      exact s.setShelf_peekLine (by exact key) (by exact held) _
    | none =>
      have absent := h
      rw [Dev.shelfLine] at h
      simp only [Dev.putLine, h]
      exact Dev.stcWrite_peekLine k absent whole
  | cellar p a => exact s.celWrite_peekLine k p a whole

end Sys2Proof.Machine
end

section
/-!
PROOFS. Line accesses of a loom: one line read or written at a VA, what the code finds in it, a line reduce, and the faults of an
access (R164, R300 to R302, R313, R314, R316, R322).
-/
namespace Sys2Proof.Machine

/-! ### Faults of an access -/

theorem Dev.faultStall_loom (s : Dev) (k c l i : Nat) : ∃ z, (s.faultStall k c l).loom i = { s.loom i with frzFault := z } := by
  cases h : (s.stall k).faulted with
  | true => exact ⟨_, by rw [Dev.faultStall, if_pos h]; rfl⟩
  | false =>
    obtain ⟨-, -, -, looms⟩ := s.faultStall_latches k c l h
    rw [looms i]
    split
    · exact ⟨true, rfl⟩
    · exact ⟨_, rfl⟩

/-- The first fault of a loom is latched (R121). -/
theorem Dev.faultLoom_loom {s : Dev} {l : Nat} (sound : (s.loom l).fault.faulted = false) (c sl p ln op : Nat) :
    ∃ z, (s.faultLoom l c sl p ln op).loom l = { s.loom l with
      frzFault := z
      fault := { faulted := true, cause := BitVec.ofNat 3 c, slot := BitVec.ofNat 9 sl, port := BitVec.ofNat 3 p, line := BitVec.ofNat 7 ln,
                 op := BitVec.ofNat 10 op } } := by
  unfold Dev.faultLoom
  simp only [sound, Bool.false_eq_true, if_false]
  split
  · next k _ =>
    obtain ⟨z, frozen⟩ := Dev.faultStall_loom _ k 1 l l
    exact ⟨z, by rw [frozen, Dev.emit_loom, Dev.modLoom_loom_same]⟩
  · exact ⟨_, by rw [Dev.emit_loom, Dev.modLoom_loom_same]⟩

/-- The first fault of an access faults its loom with CAUSE 6 and is latched in LOM_TIER_FAULT (R302). -/
theorem Dev.tierFault_latches {s : Dev} {l : Nat} (sound : (s.loom l).fault.faulted = false) (empty : (s.loom l).tierFault.valid = false)
    (op va kind : Nat) :
    ((s.tierFault l op va kind).loom l).fault.faulted = true ∧ ((s.tierFault l op va kind).loom l).fault.cause = 6 ∧
    ((s.tierFault l op va kind).loom l).tierFault = { va := BitVec.ofNat 52 va, kind := BitVec.ofNat 3 kind, valid := true } := by
  unfold Dev.tierFault
  dsimp only
  generalize latch : s.modLoom l _ = t
  have latched : t.loom l = { s.loom l with tierFault := { va := BitVec.ofNat 52 va, kind := BitVec.ofNat 3 kind, valid := true } } := by
    rw [← latch, Dev.modLoom_loom_same, empty, if_neg Bool.false_ne_true]
  obtain ⟨z, faulted⟩ := Dev.faultLoom_loom (s := t) (by rw [latched]; exact sound) 6 0 0 0 op
  rw [faulted, latched]
  exact ⟨rfl, rfl, rfl⟩

theorem FaultFrame.storePoisoned {s d : Dev} (h : FaultFrame s d) (st ln : Nat) : storePoisoned d.mem st ln = storePoisoned s.mem st ln := by
  obtain ⟨_, _, _, _, rfl⟩ := h
  rfl

/-! ### An uncorrectable finding (R322) -/

theorem Dev.msix_mem (s : Dev) (i v : Nat) : (s.msix i v).mem = s.mem := by rw [Dev.msix_frame]

theorem Dev.findingEvent_mem (s : Dev) (own : Nat) (data : List Nat) : (s.findingEvent own data).mem = s.mem := by
  unfold Dev.findingEvent
  dsimp only
  rw [Dev.msix_mem]
  split
  · exact s.logEvent_mem ..
  · rw [Dev.msix_mem]; exact s.logEvent_mem ..

theorem Dev.findingEvent_looms (s : Dev) (own : Nat) (data : List Nat) : (s.findingEvent own data).looms = s.looms := by
  unfold Dev.findingEvent
  dsimp only
  rw [Dev.msix_looms]
  split
  · exact s.logEvent_looms ..
  · rw [Dev.msix_looms]; exact s.logEvent_looms ..

theorem Dev.poisonFinding_looms (s : Dev) (st ln src : Nat) : (s.poisonFinding st ln src).looms = s.looms := by
  unfold Dev.poisonFinding
  dsimp only
  split <;> exact Dev.findingEvent_looms ..

/-- Outside the reserve the line is poisoned. -/
theorem Dev.poisonFinding_poisons (s : Dev) {st ln : Nat} (owned : reserveFrame st (64 * ln / frameSz) = false) (src : Nat) :
    storePoisoned (s.poisonFinding st ln src).mem st ln = true := by
  unfold Dev.poisonFinding
  dsimp only
  rw [owned, if_neg Bool.false_ne_true, Dev.findingEvent_mem, Dev.count_mem]
  simp only [storePoisoned, Dev.modMem, MemSt.modStack, MemSt.stack, tmod, tget_tset_same, List.contains_eq_mem, decide_eq_true_eq]
  split <;> exact (mem_sinsert ..).2 (.inl rfl)

/-! ### One line at a VA -/

theorem piecesOf_line {va : Nat} (aligned : va % 64 = 0) : piecesOf va 64 = [(va, 64)] := by
  simp only [piecesOf, pieces, aligned]; rfl

theorem piecesOf_cons (va : Nat) {n : Nat} (pos : n ≠ 0) : ∃ m ps, piecesOf va n = (va, m) :: ps :=
  ⟨_, _, by rw [piecesOf, pieces, if_neg pos]⟩

section
variable {s s1 : Dev} {k va b g : Nat} {r : Region} {loc : Loc} {src hint : Option Nat}

theorem Dev.tierRead_line {line : List Byte} (place : s.xlate k va = .at_ r b g loc) (aligned : va % 64 = 0)
    (read : s.locRead k r loc (hintOf r hint) = (some line, s1)) :
    s.tierRead k src hint va 64 = .ok (slice line (va % 64) 64) (s1.lineTraffic k src loc false) := by
  rw [Dev.tierRead, piecesOf_line aligned, Dev.tierReadP]
  simp only [place, read]
  rfl

theorem Dev.tierRead_unmapped (place : s.xlate k va = .unmapped) : s.tierRead k src hint va 64 = .bad va 1 s := by
  obtain ⟨m, ps, first⟩ := piecesOf_cons va (n := 64) (by decide)
  rw [Dev.tierRead, first, Dev.tierReadP]
  simp only [place]

theorem Dev.tierWrite_line {v : List Byte} (place : s.xlate k va = .at_ r b g loc) (aligned : va % 64 = 0) (write : r.write = true)
    (idle : quireBusy (s.stall k).quire.state = false) (whole : v.length = 64)
    (wrote : s.locWrite k r loc (hintOf r hint) 0 v = (true, s1)) :
    s.tierWrite k src hint false va v = .ok () ((s1.markWrite k r b g).lineTraffic k src loc true) := by
  rw [Dev.tierWrite, whole, piecesOf_line aligned, Dev.tierWriteP]
  simp only [place, write, idle, aligned, List.take_of_length_le (Nat.le_of_eq whole), wrote, Bool.not_true, Bool.and_false, Bool.false_and,
    Bool.false_eq_true, if_false]
  rfl

/-- No part of a read-only region is written (R302). -/
theorem Dev.tierWrite_readOnly {v : List Byte} (place : s.xlate k va = .at_ r b g loc) (readOnly : r.write = false) (data : v ≠ []) :
    s.tierWrite k src hint false va v = .bad va 2 s := by
  obtain ⟨m, ps, first⟩ := piecesOf_cons va (n := v.length) (mt List.length_eq_zero_iff.1 data)
  rw [Dev.tierWrite, first, Dev.tierWriteP]
  simp only [place, readOnly, Bool.not_false, Bool.and_self, if_true]

end

/-! ### What the code finds in a line -/

theorem Dev.meets_clean {α : Type} (s : Dev) (k va : Nat) (f : Dev → TRes α) : s.meets k va .clean f = f s := by
  unfold Dev.meets
  cases f s with
  | ok a t => exact if_pos rfl
  | bad va kind t => rfl
  | wait c => rfl

theorem Dev.meets_found {α : Type} {s t : Dev} {k va kind : Nat} {e : LineEcc} {f : Dev → TRes α} {a : α} {s1 : Dev} (served : f s = .ok a s1)
    (dirty : e ≠ .clean) (found : s.findLine k va e = (t, some kind)) : s.meets k va e f = .bad va kind t := by
  rw [Dev.meets, served]
  simp only [if_neg dirty, found]

theorem Dev.findLine_uncorrectable {s : Dev} {k va b g st a : Nat} {r : Region} (place : s.xlate k va = .at_ r b g (.store st a))
    (clean : storePoisoned s.mem st (a / 64) = false)
    (absent : (s.shelfLines (st / 3)).any (fun x => x.line == shelfLineKey st (a / 64) && !x.released) = false) :
    s.findLine k va .uncorrectable = ((s.stcRead k st (a / 64)).2.poisonFinding st (a / 64) 0, some 4) := by
  unfold Dev.findLine
  simp only [place, clean, absent, Bool.or_self, Bool.false_eq_true, if_false]

/-- A line that is not poisoned and that no Shelf holds can be read (R314, R322). -/
theorem Dev.shelfRead_clean {s : Dev} {st ln : Nat} (clean : storePoisoned s.mem st ln = false) (absent : s.shelfLine st ln = none) (k : Nat)
    (r : Region) (hint : Nat) : ∃ line t, s.shelfRead k r st ln hint = (some line, t) := by
  rw [Dev.shelfLine] at absent
  have atController (t : Dev) (same : t.mem.stks = s.mem.stks) : ∃ line d, t.stcRead k st ln = (some line, d) := by
    have still : storePoisoned t.mem st ln = false := by
      rw [storePoisoned, MemSt.stack, same]; exact clean
    exact ⟨_, _, by rw [Dev.stcRead, if_neg (by rw [still]; exact Bool.false_ne_true)]⟩
  obtain ⟨line, d, read⟩ := atController ((s.regAdd (regShelf (st / 3)) k).count (shelfKey (st / 3)) 1 1) rfl
  unfold Dev.shelfRead
  simp only [absent, read]
  split
  · exact ⟨_, _, rfl⟩
  · exact ⟨_, _, rfl⟩

/-! ### A line reduce -/

/-- What a reduce counts where its line lies: at the Shelf itself and its results beyond range, at a Cellar port those results. -/
def Dev.countReduce (s : Dev) (loc : Loc) (beyond : Nat) : Dev :=
  match loc with
  | .store st _ => (s.count (shelfKey (st / 3)) 5 1).count (shelfKey (st / 3)) 6 beyond
  | .cellar p _ => s.count (celKey p) 5 beyond

/-- The module once a reduce, its line read, has put the combined line back. -/
def Dev.putReduced (s : Dev) (k : Nat) (src : Option Nat) (r : Region) (b g : Nat) (loc : Loc) (res : List Byte × Nat) : Dev :=
  (((s.putLine k loc res.1).markWrite k r b g).lineTraffic k src loc true).countReduce loc res.2

/-- A reduce on a writable line that can be read is carried out (R164, R316). -/
theorem Dev.lineReduce_ok {s s1 : Dev} {k va b g : Nat} {r : Region} {loc : Loc} {line : List Byte} (place : s.xlate k va = .at_ r b g loc)
    (write : r.write = true) (idle : quireBusy (s.stall k).quire.state = false) (read : s.locRead k r loc r.hint = (some line, s1))
    (src : Option Nat) (special : Bool) (red : RedOp) (f : Fmt) (contrib : List XV) :
    s.lineReduce k src special va red f contrib =
      .ok () (s1.putReduced k src r b g loc (reduceLine red f special line (va % 64) contrib)) := by
  unfold Dev.lineReduce
  simp only [place, write, idle, read, Bool.not_true, Bool.false_and, Bool.false_eq_true, if_false]
  cases loc <;> rfl

theorem Traffic.countReduce {s d : Dev} (h : Traffic s d) (loc : Loc) (beyond : Nat) : Traffic s (d.countReduce loc beyond) := by
  cases loc with
  | store st a => exact (h.count (shelfKey_shared _) ..).count (shelfKey_shared _) ..
  | cellar p a => exact h.count (celKey_shared _) ..

/-- After a line is put back a reduce is traffic and accounting. -/
theorem Dev.putReduced_traffic (s : Dev) (k : Nat) (src : Option Nat) (r : Region) (b g : Nat) (loc : Loc) (res : List Byte × Nat) :
    Traffic (s.putLine k loc res.1) (s.putReduced k src r b g loc res) :=
  (((Traffic.refl _).markWrite ..).lineTraffic ..).countReduce ..

theorem flatMap_natLe_length (cs : List Conv) : (cs.flatMap fun c => natLe 2 c.code).length = 2 * cs.length := by
  induction cs with
  | nil => rfl
  | cons c cs ih =>
    have bytes : (natLe 2 c.code).length = 2 := rfl
    rw [List.flatMap_cons, List.length_append, ih, bytes, List.length_cons]
    omega

/-- A combined line is a whole line. -/
theorem reduceLine_length (red : RedOp) (f : Fmt) (special : Bool) {line : List Byte} {off : Nat} {contrib : List XV} (whole : line.length = 64)
    (fits : off + 2 * contrib.length ≤ 64) : (reduceLine red f special line off contrib).1.length = 64 := by
  refine splice_whole whole ?_
  rwa [flatMap_natLe_length, List.length_map, List.length_zipIdx]

/-! ### The end of an access -/

theorem Dev.resumes_fault (s : Dev) (l op i : Nat) : ((s.resumes l op).loom i).fault = (s.loom i).fault := by
  rw [Dev.resumes, Dev.modLoom_loom]
  split
  · next same => rw [same]
  · rfl

theorem Dev.resumes_peekLine (s : Dev) (l op : Nat) (loc : Loc) : (s.resumes l op).peekLine loc = s.peekLine loc :=
  Dev.peekLine_congr rfl rfl rfl rfl rfl loc

/-! ### The commands -/

/-- The module once the Shelf's code has been checked for the line at a VA. -/
def Dev.shelfChecked (s : Dev) (k va : Nat) (e : ShelfEcc) : Dev :=
  match s.xlate k va with
  | .at_ _ _ _ (.store st a) => s.shelfEcc st (a / 64) e
  | _ => s

theorem Dev.shelfChecked_clean (s : Dev) (k va : Nat) : s.shelfChecked k va .clean = s := by
  unfold Dev.shelfChecked
  split <;> rfl

theorem Dev.shelfChecked_unmapped {s : Dev} {k va : Nat} (place : s.xlate k va = .unmapped) (e : ShelfEcc) : s.shelfChecked k va e = s := by
  rw [Dev.shelfChecked, place]

section
variable {l : LoomId} {va : BitVec 52} {s : State} {k : Nat} (stall : s.loomStall l.val = some k)
include stall

theorem runs_lineReduce (red : RedOp) (fp16 : Bool) (contrib : List W16) :
    Runs (.lineReduce l va red fp16 (contrib, .clean)) s
      ((s.lineReduce k (some l.val) (headSpecial ((s.loom l.val).draft.headD 0)) va.toNat red (if fp16 then .fp16 else .bf16)
        (contrib.map fun c => .ok ((if fp16 then Fmt.fp16 else .bf16).value false c.toNat))).forLoom s.toDev l.val (s.accessOp l.val)
        fun _ t => t.count l.val 17 1) := by
  rw [Runs, exec, execLineReduce]
  refine s.onDev_next _ _ ?_
  simp only [stall, Dev.meets_clean]

theorem runs_linePartialWrite {v : List Byte} {ecc : LineEcc} (clean : ecc = .clean ∨ v.length = 64) :
    Runs (.linePartialWrite l va (v, ecc)) s
      ((s.tierWrite k (some l.val) none false va.toNat v).forLoom s.toDev l.val (s.accessOp l.val) fun _ t => t) := by
  have code : (if v.length = 64 then .clean else ecc) = LineEcc.clean := ite_eq_left_iff.2 fun part => clean.resolve_right part
  rw [Runs, exec, execLinePartialWrite]
  refine s.onDev_next _ _ ?_
  simp only [stall, code, Dev.meets_clean]

theorem runs_storeLineAccess_write (v : List Byte) (ecc : LineEcc) :
    Runs (.storeLineAccess l va (some v) ecc) s
      ((s.tierWrite k (some l.val) none false va.toNat v).forLoom s.toDev l.val (s.accessOp l.val) fun _ t => t) := by
  rw [Runs, exec, execStoreLineAccess]
  refine s.onDev_next _ _ ?_
  simp only [stall]

theorem runs_storeLineAccess_read (ecc : LineEcc) :
    Runs (.storeLineAccess l va none ecc) s
      ((s.meets k va.toNat ecc fun t => t.tierRead k (some l.val) none va.toNat 64).forLoom s.toDev l.val (s.accessOp l.val) fun _ t => t) := by
  rw [Runs, exec, execStoreLineAccess]
  refine s.onDev_next _ _ ?_
  simp only [stall]

theorem runs_shelfAccess_read (hint : BitVec 2) (e : ShelfEcc) :
    Runs (.shelfAccess l va hint none e) s
      (((s.shelfChecked k va.toNat e).tierRead k (some l.val) (some hint.toNat) va.toNat 64).forLoom s.toDev l.val
        (s.accessOp l.val) fun _ t => t) := by
  rw [Runs, exec, execShelfAccess]
  refine s.onDev_next _ _ ?_
  simp only [stall]
  rfl

theorem runs_shelfAccess_write (hint : BitVec 2) (v : List Byte) (e : ShelfEcc) :
    Runs (.shelfAccess l va hint (some v) e) s
      (((s.shelfChecked k va.toNat e).tierWrite k (some l.val) (some hint.toNat) false va.toNat v).forLoom s.toDev l.val
        (s.accessOp l.val) fun _ t => t) := by
  rw [Runs, exec, execShelfAccess]
  refine s.onDev_next _ _ ?_
  simp only [stall]
  rfl

/-! ### Each clause of a line access -/

/-- A reduce to a writable line that can be read is carried out and counted; the tiers then hold the combined line (R164, R316). -/
theorem lineReduce_carriedOut {r : Region} {b g : Nat} {loc : Loc} {line : List Byte} {s1 : Dev} {contrib : List W16} (red : RedOp) (fp16 : Bool)
    (place : s.xlate k va.toNat = .at_ r b g loc) (write : r.write = true) (idle : quireBusy (s.stall k).quire.state = false)
    (read : s.locRead k r loc r.hint = (some line, s1)) (whole : line.length = 64) (fits : va.toNat % 64 + 2 * contrib.length ≤ 64) :
    ∃ d, Runs (.lineReduce l va red fp16 (contrib, .clean)) s d ∧ (∀ i, (d.loom i).fault = (s1.loom i).fault) ∧
      d.counter l.val 17 = s1.counter l.val 17 + 1 ∧
      (let f : Fmt := if fp16 then .fp16 else .bf16
       d.peekLine loc = some (reduceLine red f (headSpecial ((s.loom l.val).draft.headD 0)) line (va.toNat % 64)
         (contrib.map fun c => .ok (f.value false c.toNat))).1) := by
  have run := runs_lineReduce (va := va) stall red fp16 contrib
  rw [Dev.lineReduce_ok place write idle read] at run
  generalize result : reduceLine red _ _ line (va.toNat % 64) _ = res at run
  have combined : res.1.length = 64 := by rw [← result]; exact reduceLine_length red _ _ whole (by rwa [List.length_map])
  have traffic := s1.putReduced_traffic k (some l.val) r b g loc res
  refine ⟨_, run, fun i => ?_, ?_, ?_⟩
  · rw [TRes.forLoom, Dev.count_loom, Dev.resumes_fault, traffic.frame.loom, Dev.putLine_loom]
  · rw [TRes.forLoom, Dev.count_counter, if_pos ⟨rfl, rfl⟩, Dev.resumes, Dev.modLoom_counter, traffic.counters _ _ (by omega),
      Dev.putLine_counter _ _ _ _ (by omega)]
    rfl
  · dsimp only
    rw [TRes.forLoom, Dev.count_peekLine, Dev.resumes_peekLine, traffic.lines,
      Dev.putLine_peekLine _ _ _ combined, ← result]

/-- A Store line written whole then holds what was written, and no loom faults (R313). -/
theorem storeLineAccess_writes {r : Region} {b g st a : Nat} {v : List Byte} (ecc : LineEcc) (place : s.xlate k va.toNat = .at_ r b g (.store st a))
    (aligned : va.toNat % 64 = 0) (write : r.write = true) (idle : quireBusy (s.stall k).quire.state = false) (whole : v.length = 64) :
    ∃ d, Runs (.storeLineAccess l va (some v) ecc) s d ∧ (d.peekLine (.store st a)).map (·.take 64) = some v ∧
      ∀ i, (d.loom i).fault = (s.loom i).fault := by
  obtain ⟨t, wrote, holds⟩ := s.shelfWrite_whole k st a (hintOf r none) write whole
  have done := Dev.tierWrite_line (src := some l.val) place aligned write idle whole wrote
  have frame := s.tierWrite_frame _ k (some l.val) none false va.toNat v (congrArg TRes.dev done)
  have run := runs_storeLineAccess_write (va := va) stall v ecc
  rw [done] at run
  refine ⟨_, run, ?_, fun i => ?_⟩
  · rw [TRes.forLoom, Dev.resumes_peekLine, (((Traffic.refl t).markWrite ..).lineTraffic ..).lines, holds]
  · rw [TRes.forLoom, Dev.resumes_fault, frame.loom]

/-- An uncorrectable Store line that no Shelf holds is poisoned and faults the loom that reads it with kind 4 (R322). -/
theorem storeLineAccess_poisons {r : Region} {b g st a : Nat} (place : s.xlate k va.toNat = .at_ r b g (.store st a)) (aligned : va.toNat % 64 = 0)
    (clean : storePoisoned s.mem st (a / 64) = false)
    (absent : (s.shelfLines (st / 3)).any (fun x => x.line == shelfLineKey st (a / 64) && !x.released) = false)
    (owned : reserveFrame st (64 * (a / 64) / frameSz) = false) (sound : (s.loom l.val).fault.faulted = false)
    (empty : (s.loom l.val).tierFault.valid = false) :
    ∃ d, Runs (.storeLineAccess l va none .uncorrectable) s d ∧ storePoisoned d.mem st (a / 64) = true ∧
      (d.loom l.val).fault.faulted = true ∧ (d.loom l.val).fault.cause = 6 ∧
      (d.loom l.val).tierFault = { va := va, kind := 4, valid := true } := by
  obtain ⟨line, t, read⟩ := Dev.shelfRead_clean clean (Dev.shelfLine_none absent) k r (hintOf r none)
  have run := runs_storeLineAccess_read (va := va) stall .uncorrectable
  rw [Dev.meets_found (Dev.tierRead_line place aligned read) (by decide) (Dev.findLine_uncorrectable place clean absent)] at run
  generalize poisons : (s.stcRead k st (a / 64)).2.poisonFinding st (a / 64) 0 = p at run
  have loom : p.loom l.val = s.loom l.val := by
    rw [← poisons, Dev.loom, Dev.poisonFinding_looms, (Dev.stcRead_frame ..).looms]; rfl
  have latched := Dev.tierFault_latches (by rw [loom]; exact sound) (by rw [loom]; exact empty) (s.accessOp l.val) va.toNat 4
  rw [BitVec.ofNat_toNat, BitVec.setWidth_eq] at latched
  refine ⟨_, run, ?_, latched⟩
  rw [TRes.forLoom, (Dev.tierFault_frame ..).storePoisoned, ← poisons]
  exact Dev.poisonFinding_poisons _ owned 0

end

/-- Settles O36, clause by clause: the reduce, the write of part of a line, the Store line accesses, the Shelf accesses, and the
unmapped VA. -/
theorem lineAccesses : Obligations.LineAccesses := by
  intro l va s k stall
  refine ⟨?reduce, ?partialWrite, ?store, ?unmapped⟩
  case reduce =>
    exact fun r b g loc red fp16 contrib line s1 place write idle read whole fits =>
      lineReduce_carriedOut stall red fp16 place write idle read whole fits
  case partialWrite =>
    intro v ecc u s1 clean wrote
    have run := runs_linePartialWrite (va := va) stall clean
    rwa [wrote] at run
  case store =>
    intro r b g st a place aligned
    refine ⟨fun v ecc write idle whole => storeLineAccess_writes stall ecc place aligned write idle whole, ?readOnly, ?read,
      storeLineAccess_poisons stall place aligned, ?shelfRead, ?shelfWrite⟩
    case readOnly =>
      intro readOnly v ecc data
      have run := runs_storeLineAccess_write (va := va) stall v ecc
      rwa [Dev.tierWrite_readOnly place readOnly data] at run
    case read =>
      intro line s1 read
      have run := runs_storeLineAccess_read (va := va) stall .clean
      rwa [Dev.meets_clean, Dev.tierRead_line (loc := .store st a) (hint := none) place aligned read] at run
    case shelfRead =>
      intro hint line s1 read
      have run := runs_shelfAccess_read (va := va) stall hint .clean
      rwa [Dev.shelfChecked_clean, Dev.tierRead_line (loc := .store st a) (hint := some hint.toNat) place aligned read] at run
    case shelfWrite =>
      intro hint v s1 write idle whole wrote
      have run := runs_shelfAccess_write (va := va) stall hint v .clean
      rwa [Dev.shelfChecked_clean, Dev.tierWrite_line (loc := .store st a) (hint := some hint.toNat) place aligned write idle whole wrote] at run
  case unmapped =>
    intro place hint ecc
    have run := runs_shelfAccess_read (va := va) stall hint ecc
    rwa [Dev.shelfChecked_unmapped place, Dev.tierRead_unmapped place] at run

end Sys2Proof.Machine
end

section
/-!
PROOFS. The device window (R209, R303, R449 to R451): BAR4 writes by where their bytes go, and what a BAR4 read finds.
-/
namespace Sys2Proof.Machine

/-! ### A range within one line, and an unmapped one -/

theorem piecesOf_within {va n : Nat} (pos : n ≠ 0) (within : va % 64 + n ≤ 64) : piecesOf va n = [(va, n)] := by
  have whole : min n (64 - va % 64) = n := by omega
  rw [piecesOf, pieces, if_neg pos]
  simp only [whole, Nat.sub_self]
  rfl

theorem hostLines_within {va : Nat} {data : List Byte} (bytes : data ≠ []) (within : va % 64 + data.length ≤ 64) (k : Nat) (ecc : LineEcc) :
    hostLines k ecc (piecesOf va data.length) data = [{ stall := k, va := va, data := data, ecc := ecc }] := by
  rw [piecesOf_within (mt List.length_eq_zero_iff.1 bytes) within, hostLines, hostLines, List.take_length]

/-- A read from an unmapped VA on ends with KIND 1 at its first byte (R302). -/
theorem Dev.tierRead_unmapped_of_pos {s : Dev} {k va n : Nat} {src hint : Option Nat} (place : s.xlate k va = .unmapped) (pos : n ≠ 0) :
    s.tierRead k src hint va n = .bad va 1 s := by
  obtain ⟨m, ps, first⟩ := piecesOf_cons va pos
  rw [Dev.tierRead, first, Dev.tierReadP]
  simp only [place]

/-- An access that the tiers refuse ends as they say, whatever the code would find. -/
theorem Dev.meets_bad {α : Type} {s t : Dev} {k va a kind : Nat} {e : LineEcc} {f : Dev → TRes α} (refused : f s = .bad a kind t) :
    s.meets k va e f = .bad a kind t := by
  rw [Dev.meets, refused]

theorem Dev.hostf_out (s : Dev) (k va : Nat) (write : Bool) : (s.hostf k va write).out = s.out := by
  unfold Dev.hostf; split <;> rfl

/-! ### One buffered write (R322, R451) -/

/-- A write in whose line the code finds nothing, be it whole or not, meets the tiers as they are. -/
theorem Dev.meets_cleanWrite {α : Type} (s : Dev) (k va : Nat) (data : List Byte) (f : Dev → TRes α) :
    s.meets k va (if data.length = 64 then .clean else .clean) f = f s := by
  rw [ite_self, Dev.meets_clean]

section
variable {s : Dev} {fn k va : Nat} {data : List Byte}

/-- Once the tiers accept it, the buffer's only write lands. -/
theorem Dev.drainFn_lands {u : Unit} {s1 : Dev} (wrote : s.tierWrite k none none true va data = .ok u s1) :
    s.drainFn fn [{ stall := k, va := va, data := data, ecc := .clean }] = s1.modFn fn fun f => { f with wbuf := [] } := by
  simp only [Dev.drainFn, Dev.landHostWrite, Dev.meets_cleanWrite, wrote]

/-- Until then it stays in the buffer. -/
theorem Dev.drainFn_waits {c : WaitCause} (waits : s.tierWrite k none none true va data = .wait c) :
    s.drainFn fn [{ stall := k, va := va, data := data, ecc := .clean }] =
      s.modFn fn fun f => { f with wbuf := [{ stall := k, va := va, data := data, ecc := .clean }] } := by
  simp only [Dev.drainFn, Dev.landHostWrite, Dev.meets_cleanWrite, waits]

end

theorem FnSt.buffered_empty {f : FnSt} (empty : f.wbuf = []) : f.buffered = 0 := by rw [FnSt.buffered, empty]; rfl

/-! ### BAR4_WRITE -/

/-- A host command runs with the effect that it has on the module while the link is up. -/
theorem State.onDev_hostEffect {s : State} {f : Dev → Host.Outcome Dev Fault Refusal} {d : Dev} (up : s.hub.linkUp = true)
    (effect : f s.toDev = s.toDev.host d) : s.onDev f = .next { s with toDev := d } :=
  s.onDev_next f d (by rw [effect, Dev.host_eq, if_pos up])

section
variable {fn : FnId} {off : W32} {data : List Byte} {k va : Nat} {s : State}

/-- What the 64 KiB buffer cannot hold is discarded (R451). -/
theorem runs_bar4Write_lost (up : s.hub.linkUp = true) (ecc : LineEcc) (full : 65536 < (s.fn fn.val).buffered + data.length) :
    Runs (.bar4Write fn off (data, ecc)) s (s.modFn fn.val fun f => { f with acc := { f.acc with writeLost := true } }) := by
  rw [Runs, exec, execBar4Write]
  refine State.onDev_hostEffect up ?_
  simp only [if_pos full]

variable (up : s.hub.linkUp = true) (reach : s.window fn.val off.toNat = .va k va) (fits : (s.fn fn.val).buffered + data.length ≤ 65536)
include up reach fits

/-- Into staging, unless a plan command or a roster rewrite locks it (R209). -/
theorem runs_bar4Write_staging {o : Nat} (ecc : LineEcc) (place : s.xlate k va = .staging o) :
    Runs (.bar4Write fn off (data, ecc)) s (if s.stageLocked k
      then s.modStall k fun x => { x with blk := { x.blk with stageLost := true } }
      else s.modStall k fun x => { x with stage := tsetRange 0 x.stage o data }) := by
  rw [Runs, exec, execBar4Write]
  refine State.onDev_hostEffect up ?_
  simp only [if_neg (Nat.not_lt.2 fits), reach, place]

/-- Elsewhere its lines join the function's earlier writes, which land in order as far as they go (R451). -/
theorem runs_bar4Write_lines (ecc : LineEcc) (place : ∀ o, s.xlate k va ≠ .staging o) :
    Runs (.bar4Write fn off (data, ecc)) s
      (s.drainFn fn.val ((s.fn fn.val).wbuf ++ hostLines k ecc (piecesOf va data.length) data)) := by
  rw [Runs, exec, execBar4Write]
  refine State.onDev_hostEffect up ?_
  simp only [if_neg (Nat.not_lt.2 fits), reach]

end

/-- Within one line, with no earlier write before it, the write alone is drained. -/
theorem runs_bar4Write_line {fn : FnId} {off : W32} {data : List Byte} {k va : Nat} {s : State} (up : s.hub.linkUp = true)
    (reach : s.window fn.val off.toNat = .va k va) (place : ∀ o, s.xlate k va ≠ .staging o) (first : (s.fn fn.val).wbuf = [])
    (bytes : data ≠ []) (within : va % 64 + data.length ≤ 64) :
    Runs (.bar4Write fn off (data, .clean)) s (s.drainFn fn.val [{ stall := k, va := va, data := data, ecc := .clean }]) := by
  have fits : (s.fn fn.val).buffered + data.length ≤ 65536 := by rw [FnSt.buffered_empty first]; omega
  have run := runs_bar4Write_lines up reach fits .clean place
  rwa [first, hostLines_within bytes within] at run

/-! ### BAR4_READ and BAR4_READ_TIMEOUT -/

/-- What the tiers' answer to a read at a VA gives: their data, an abort, or zeros at an unmapped VA (R303). -/
def TRes.forRead (k n : Nat) : TRes (List Byte) → ReadRes
  | .ok b s => .data b s
  | .wait _ => .waits
  | .bad v kind s => if kind = 1 then .data (List.replicate n 0) (s.hostf k v false) else .abort s

section
variable {s : Dev} {fn off n k va : Nat}

/-- No read passes an earlier write of its function (R450). -/
theorem Dev.bar4_waits (pending : (s.fn fn).wbuf ≠ []) (ecc : LineEcc) : s.bar4 fn off n ecc = .waits := by
  rw [Dev.bar4, if_pos (by simpa using pending)]

variable (reach : s.window fn off = .va k va) (landed : (s.fn fn).wbuf = [])
include reach landed

theorem Dev.bar4_staging {o : Nat} (ecc : LineEcc) (place : s.xlate k va = .staging o) :
    s.bar4 fn off n ecc = .data (tgetRange 0 (s.stall k).stage o n) s := by
  simp [Dev.bar4, landed, reach, place]

theorem Dev.bar4_tiers (ecc : LineEcc) (place : ∀ o, s.xlate k va ≠ .staging o) :
    s.bar4 fn off n ecc = (s.meets k va ecc fun t => t.tierRead k none none va n).forRead k n := by
  rw [Dev.bar4, if_neg (by simp [landed])]
  simp only [reach]
  cases h : s.xlate k va with
  | staging o => exact absurd h (place o)
  | unmapped | waits | at_ => rfl

theorem Dev.bar4_served {b : List Byte} {s1 : Dev} (place : ∀ o, s.xlate k va ≠ .staging o)
    (read : s.tierRead k none none va n = .ok b s1) : s.bar4 fn off n .clean = .data b s1 := by
  rw [Dev.bar4_tiers reach landed .clean place, Dev.meets_clean, read, TRes.forRead]

theorem Dev.bar4_unmapped (ecc : LineEcc) (place : s.xlate k va = .unmapped) (pos : n ≠ 0) :
    s.bar4 fn off n ecc = .data (List.replicate n 0) (s.hostf k va false) := by
  rw [Dev.bar4_tiers reach landed ecc (by simp [place]), Dev.meets_bad (Dev.tierRead_unmapped_of_pos place pos)]
  rfl

end

section
variable {fn : FnId} {off : W32} {n : Nat} {s : State} (up : s.hub.linkUp = true)
include up

theorem runs_bar4Read_data {ecc : LineEcc} {b : List Byte} {s1 : Dev} (found : s.bar4 fn.val off.toNat n ecc = .data b s1) :
    Runs (.bar4Read fn off (n, ecc)) s (s1.emit (.readData fn.val b)) := by
  rw [Runs, exec, execBar4Read]
  refine State.onDev_hostEffect up ?_
  simp only [found]

theorem runs_bar4Read_waits (ecc : LineEcc) (pending : (s.fn fn.val).wbuf ≠ []) : Runs (.bar4Read fn off (n, ecc)) s s.toDev := by
  rw [Runs, exec, execBar4Read]
  refine State.onDev_hostEffect up ?_
  simp only [Dev.bar4_waits pending]

/-- After 4 ms of waiting the read is aborted (R451). -/
theorem runs_bar4ReadTimeout_waits {us : Nat} (pending : (s.fn fn.val).wbuf ≠ []) (elapsed : 4000 ≤ us) :
    Runs (.bar4ReadTimeout fn off n us) s (s.readAbort fn.val) := by
  rw [Runs, exec, execBar4ReadTimeout]
  refine State.onDev_hostEffect up ?_
  simp only [Dev.bar4_waits pending, if_pos elapsed]

end

/-- Settles O28: writes and reads by where the window's VA lies, in staging or in the tiers, and then what a full buffer and an
earlier write do to them. -/
theorem deviceWindow : Obligations.DeviceWindow := by
  intro st off data ecc s va up fn k f reach
  refine ⟨?staging, ?tiers, fun full => runs_bar4Write_lost up ecc full, fun pending => ⟨runs_bar4Read_waits up ecc pending,
    fun us elapsed => runs_bar4ReadTimeout_waits up pending elapsed⟩⟩
  case staging =>
    refine fun o place => ⟨fun fits => ?_, fun landed => runs_bar4Read_data up (Dev.bar4_staging reach landed ecc place)⟩
    have run := runs_bar4Write_staging up reach fits ecc place
    exact ⟨fun free => by rwa [if_neg (by simp [free])] at run, fun locked => by rwa [if_pos locked] at run⟩
  case tiers =>
    refine fun place => ⟨fun fits => runs_bar4Write_lines up reach fits ecc place, fun landed bytes => ⟨fun within => ?line, ?read, ?unmapped⟩⟩
    case line =>
      have run := runs_bar4Write_line up reach place landed bytes within
      exact ⟨fun u s1 wrote => by rwa [Dev.drainFn_lands wrote] at run, fun c waits => by rwa [Dev.drainFn_waits waits] at run⟩
    case read => exact fun b s1 read => runs_bar4Read_data up (Dev.bar4_served reach landed place read)
    case unmapped =>
      intro unmapped
      have found := Dev.bar4_unmapped reach landed ecc unmapped (mt List.length_eq_zero_iff.1 bytes)
      exact ⟨_, runs_bar4Read_data up found, congrArg (· ++ _) (s.hostf_out ..)⟩

end Sys2Proof.Machine
end

section
/-!
PROOFS. PLAN_VERIFY of a stall's plan (R207, R210 steps 2 to 4), and what reporting a plan command's end leaves as it is.
-/
namespace Sys2Proof.Machine

/-! ### The end of a command is logged and its vector raised (R457, R460) -/

/-- `d` is `s` but for messages, functions and the event log: what reporting a command's end may change. -/
def ReportFrame (s d : Dev) : Prop := ∃ ou fs lq ll ch cl,
  d = { s with out := ou, hub := { s.hub with fns := fs, logQueue := lq, logLost := ll, cluHeld := ch, cluLost := cl } }

theorem Dev.planReport_frame (s : Dev) (t : PlanTarget) (code : Nat) (digest : BitVec 256) (fn : Nat) :
    ReportFrame s ((s.planLog t code digest).planIrq fn) := by
  unfold Dev.planIrq Dev.planLog
  rw [Dev.msix_frame, Dev.logEvent_frame]
  exact ⟨_, _, _, _, _, _, rfl⟩

namespace ReportFrame
variable {s d : Dev} (h : ReportFrame s d)
include h

theorem looms : d.looms = s.looms := by obtain ⟨_, _, _, _, _, _, rfl⟩ := h; rfl
theorem mem : d.mem = s.mem := by obtain ⟨_, _, _, _, _, _, rfl⟩ := h; rfl
theorem held : d.hub.held = s.hub.held := by obtain ⟨_, _, _, _, _, _, rfl⟩ := h; rfl
theorem devPlan : d.hub.devPlan = s.hub.devPlan := by obtain ⟨_, _, _, _, _, _, rfl⟩ := h; rfl
theorem dblk : d.hub.dblk = s.hub.dblk := by obtain ⟨_, _, _, _, _, _, rfl⟩ := h; rfl
theorem stall (k : Nat) : d.stall k = s.stall k := by obtain ⟨_, _, _, _, _, _, rfl⟩ := h; rfl
theorem loom (l : Nat) : d.loom l = s.loom l := by obtain ⟨_, _, _, _, _, _, rfl⟩ := h; rfl
theorem hopper (i : Nat) : d.hopper i = s.hopper i := by obtain ⟨_, _, _, _, _, _, rfl⟩ := h; rfl

end ReportFrame

/-! ### PLAN_VERIFY (R207, R210 steps 2 to 4) -/

theorem Dev.refusePlan_frame (s : Dev) (t : PlanTarget) (f : Refuse) :
    ReportFrame ((s.modBlk t fun b => { b with state := b.prev, fail := f }).unhold t) (s.refusePlan t f) := Dev.planReport_frame ..

/-- A refused plan's stall goes back to its former state with the failing condition; no other stall changes. -/
theorem Dev.refusePlan_stall (s : Dev) (st : StallId) (f : Refuse) (k : Nat) : (s.refusePlan (.stall st) f).stall k =
    if k = st.val then { s.stall st.val with blk := { (s.stall st.val).blk with state := (s.stall st.val).blk.prev, fail := f } } else s.stall k := by
  rw [(s.refusePlan_frame ..).stall]
  simp only [Dev.unhold, Dev.modHub_stall, Dev.modBlk, Dev.modStall_stall]

theorem Dev.refusePlan_held {s : Dev} {t : PlanTarget} {f : Refuse} {c : HeldCmd} (h : c ∈ (s.refusePlan t f).hub.held) : c.tgt ≠ tgtNum t := by
  rw [(s.refusePlan_frame t f).held] at h
  simpa using (List.mem_filter.1 h).2

/-- A stall whose plan is in order is VERIFYING, with the parsed plan at hand and its command verified. -/
def Dev.verifyStall (s : Dev) (st : StallId) : Dev :=
  ((s.modBlk (.stall st) fun b => { b with state := .verifying }).modHub fun h =>
    { h with held := h.held.map fun c => if c.tgt = tgtNum (.stall st) then { c with verified := true } else c }).modStall st.val fun x =>
      { x with cand := some (parseStallPlan (s.staged (.stall st))) }

theorem Dev.verifyStall_stall (s : Dev) (st : StallId) (k : Nat) : (s.verifyStall st).stall k =
    if k = st.val then { s.stall st.val with
      blk := { (s.stall st.val).blk with state := .verifying }, cand := some (parseStallPlan (s.staged (.stall st))) } else s.stall k := by
  simp only [Dev.verifyStall, Dev.modBlk, Dev.modStall_stall, Dev.modHub_stall]
  split
  · rfl
  · rfl

theorem Dev.verifyStall_held {s : Dev} {st : StallId} {c : HeldCmd} (h : c ∈ (s.verifyStall st).hub.held) (own : c.tgt = st.val + 1) :
    c.verified = true := by
  obtain ⟨e, _, rfl⟩ := List.mem_map.1 h
  by_cases mine : e.tgt = tgtNum (.stall st)
  · rw [if_pos mine]
  · rw [if_neg mine] at own; exact absurd own mine

section
variable {st : StallId} {s : State} (waiting : (s.stall st.val).blk.state = .waiting)
  (held : ∃ c ∈ s.hub.held, c.tgt = st.val + 1 ∧ c.unload = false ∧ c.verified = false) (turn : s.mayVerify (.stall st) = true)
  (security : s.coreUp 0 = true) (scheduler : s.coreUp 2 = true)
include waiting held turn security scheduler

/-- A stall's held load is checked when its turn has come and both cores run. -/
theorem planVerify_due : ((s.blk (.stall st)).state == .waiting &&
    s.hub.held.any (fun c => c.tgt == tgtNum (.stall st) && !c.unload && !c.verified) &&
    s.mayVerify (.stall st) && s.coreUp 0 && s.coreUp 2) = true := by
  have unchecked : s.hub.held.any (fun c => c.tgt == tgtNum (.stall st) && !c.unload && !c.verified) = true := by
    simpa [tgtNum, and_assoc] using held
  rw [unchecked, turn, security, scheduler, Dev.blk, waiting]
  rfl

theorem runs_planVerify_refused {f : Refuse} (refused : planRefuse (s.planEnv (.stall st)) (s.staged (.stall st)) = some f) :
    Runs (.planVerify (.stall st)) s (s.refusePlan (.stall st) f) := by
  rw [Runs, exec, execPlanVerify]
  refine s.onDev_next _ _ ?_
  simp only [planVerify_due waiting held turn security scheduler, if_true, refused]

theorem runs_planVerify_inOrder (inOrder : planRefuse (s.planEnv (.stall st)) (s.staged (.stall st)) = none) :
    Runs (.planVerify (.stall st)) s (s.verifyStall st) := by
  rw [Runs, exec, execPlanVerify]
  refine s.onDev_next _ _ ?_
  simp only [planVerify_due waiting held turn security scheduler, if_true, inOrder]
  rfl

end

/-- Settles O41: the loader's check refuses the plan, which changes its register block and is reported, or makes it VERIFYING. -/
theorem planChecksDecide : Obligations.PlanChecksDecide := by
  intro st s t x waiting held turn security scheduler
  refine ⟨fun f refused => ⟨s.refusePlan t f, runs_planVerify_refused waiting held turn security scheduler refused, ?_⟩,
    fun inOrder => ⟨s.verifyStall st, runs_planVerify_inOrder waiting held turn security scheduler inOrder, ?_⟩⟩
  · have own := s.refusePlan_stall st f st.val
    rw [if_pos rfl] at own
    rw [own]
    exact ⟨rfl, rfl, rfl, fun c => Dev.refusePlan_held, fun k other => (s.refusePlan_stall st f k).trans (if_neg other),
      (s.refusePlan_frame t f).looms, (s.refusePlan_frame t f).mem⟩
  · have own := s.verifyStall_stall st st.val
    rw [if_pos rfl] at own
    rw [own]
    exact ⟨rfl, rfl, rfl, fun c => Dev.verifyStall_held, fun k other => (s.verifyStall_stall st k).trans (if_neg other), rfl, rfl⟩

end Sys2Proof.Machine
end

section
/-!
PROOFS. Plan loads and unloads (R184, R185, R210, R212, R213): their acceptance, and what an unload that goes through leaves.
-/
namespace Sys2Proof.Machine

/-! ### Acceptance (R213) -/

/-- A host command behind every earlier BAR4 write of its function runs with its effect on the module while the link is up (R450). -/
theorem State.onDev_hostCmdEffect {s : State} {f : Dev → Host.Outcome Dev Fault Refusal} {i : Nat} {d : Dev} (up : s.hub.linkUp = true)
    (landed : (s.fn i).wbuf = []) (effect : f s.toDev = s.toDev.hostCmd i d) : s.onDev f = .next { s with toDev := d } :=
  s.onDev_next f d (by rw [effect, Dev.hostCmd_eq, up, landed]; rfl)

theorem Dev.acceptLoad_busy {s : Dev} {t : PlanTarget} (busy : (s.blk t).state.busy = true) (fn : Nat) :
    s.acceptLoad t fn = s.modBlk t fun b => { b with cmdLost := true } := if_pos busy

theorem Dev.acceptLoad_free {s : Dev} {t : PlanTarget} (free : (s.blk t).state.busy = false) (fn : Nat) :
    s.acceptLoad t fn = (s.modBlk t fun b => { b with state := .waiting, prev := (s.blk t).state, issuer := fn }).modHub fun h =>
      { h with held := h.held ++ [{ tgt := tgtNum t, unload := false }] } := if_neg (by simp [free])

theorem runs_planLoad {fn : FnId} {st : StallId} {s : State} (up : s.hub.linkUp = true) (landed : (s.fn fn.val).wbuf = [])
    (reach : fn.val = 0 ∨ fn.val = st.val + 1) : Runs (.planLoad fn st) s (s.acceptLoad (.stall st) fn.val) := by
  rw [Runs, exec, execPlanLoad]
  exact State.onDev_hostCmdEffect up landed (congrArg _ (if_pos reach))

theorem runs_dplanLoad {s : State} (up : s.hub.linkUp = true) (landed : (s.fn 0).wbuf = []) :
    Runs .dplanLoad s (s.acceptLoad .device 0) := by
  rw [Runs, exec, execDplanLoad]
  exact State.onDev_hostCmdEffect up landed rfl

/-! ### A stall's unload (R212) -/

/-- `d` is `s` but for stalls, regulators and the Shelf's lines: what the release of a region changes. -/
def ReleaseFrame (s d : Dev) : Prop := ∃ st rg sh, d = { s with stalls := st, mem := { s.mem with regs := rg, shelf := sh } }

theorem ReleaseFrame.refl (s : Dev) : ReleaseFrame s s := ⟨_, _, _, rfl⟩
theorem ReleaseFrame.trans {s d e : Dev} : ReleaseFrame s d → ReleaseFrame d e → ReleaseFrame s e := by
  rintro ⟨_, _, _, rfl⟩ ⟨_, _, _, rfl⟩; exact ⟨_, _, _, rfl⟩
theorem ReleaseFrame.regAdds {s d : Dev} (h : ReleaseFrame s d) (i k n : Nat) : ReleaseFrame s (d.regAdds i k n) := h.trans ⟨_, _, _, rfl⟩
theorem ReleaseFrame.foldl {α : Type} {f : Dev → α → Dev} (g : ∀ s a, ReleaseFrame s (f s a)) (ls : List α) {s d : Dev} (h : ReleaseFrame s d) :
    ReleaseFrame s (ls.foldl f d) :=
  List.foldlRecOn (motive := ReleaseFrame s) ls _ h fun d hd a _ => hd.trans (g d a)

/-- The zeroing of released places waits at regulators (R214). -/
theorem Dev.zeroUnits_frame (s : Dev) (k : Nat) (zs : List (Place × Nat × Nat × Bool)) : ReleaseFrame s (s.zeroUnits k zs) := by
  refine .foldl (fun t z => ?_) zs (.refl s)
  split
  · exact (ReleaseFrame.refl t).regAdds ..
  · refine .foldl (fun u st => ?_) _ (.refl t)
    dsimp only
    split
    · exact .refl u
    · exact (ReleaseFrame.refl u).regAdds ..

theorem Dev.releaseRegion_frame (s : Dev) (k : Nat) (r : Region) : ReleaseFrame s (s.releaseRegion k r) := by
  have zeroes (f : StallSt → StallSt) : ReleaseFrame s ((s.modStall k f).zeroUnits k (s.regionPlaces k r)) :=
    ReleaseFrame.trans ⟨_, _, _, rfl⟩ (Dev.zeroUnits_frame ..)
  unfold Dev.releaseRegion
  exact (zeroes _).trans ⟨_, _, _, rfl⟩

/-- Emptying hoppers one after another changes the hoppers' table alone. -/
theorem Dev.foldl_setHopper_frame (hs : List Nat) (s : Dev) : ∃ t, hs.foldl (fun t h => t.setHopper h []) s = { s with hub := { s.hub with hoppers := t } } :=
  List.foldlRecOn (motive := fun d : Dev => ∃ t, d = { s with hub := { s.hub with hoppers := t } }) hs _ ⟨_, rfl⟩
    fun _ ⟨_, h⟩ _ _ => by subst h; exact ⟨_, rfl⟩

theorem Dev.foldl_setHopper_hopper (hs : List Nat) (s : Dev) (i : Nat) :
    (hs.foldl (fun t h => t.setHopper h []) s).hopper i = if i ∈ hs then [] else s.hopper i := by
  induction hs generalizing s with
  | nil => rfl
  | cons h hs ih =>
    rw [List.foldl_cons, ih, Dev.setHopper_hopper]
    by_cases here : i = h <;> simp [here]

/-- While no peer's request or grant stands, settling a stall changes its looms, stalls, links and what waits between looms. -/
theorem Dev.settle_frame {s : Dev} (grants : s.links.grants = []) (reqs : s.links.reqs = []) (k : Nat) : ∃ st lo ne wa ac li,
    s.settle k = { s with stalls := st, looms := lo, net := ne, waiters := wa, acks := ac, links := li } ∧
    ∀ l, l ∉ s.stallLooms k → (s.settle k).loom l = s.loom l := by
  have looms := Dev.foldl_modLoom_frame (s.stallLooms k) (fun _ x => { emptyLoom x with frzPlan := true }) s
  have others := Dev.foldl_modLoom_loom (s.stallLooms k) (fun x => { emptyLoom x with frzPlan := true }) (fun _ => rfl) s
  unfold Dev.settle
  simp only [grants, reqs, List.filter_nil, List.append_nil, List.foldl_nil]
  generalize (s.stallLooms k).foldl _ s = t at looms others
  rw [looms] at others ⊢
  exact ⟨_, _, _, _, _, _, rfl, fun l other => (others l).trans (if_neg other)⟩

/-- Every loom of the stall is cleared. -/
def Dev.clearLooms (s : Dev) (k : Nat) : Dev := (s.stallLooms k).foldl (fun t l => t.modLoom l clearLoom) s

theorem Dev.clearLooms_frame (s : Dev) (k : Nat) : s.clearLooms k = { s with looms := (s.clearLooms k).looms } :=
  Dev.foldl_modLoom_frame (s.stallLooms k) (fun _ => clearLoom) s

theorem Dev.clearLooms_loom (s : Dev) (k l : Nat) : (s.clearLooms k).loom l = if l ∈ s.stallLooms k then clearLoom (s.loom l) else s.loom l :=
  Dev.foldl_modLoom_loom (s.stallLooms k) clearLoom (fun _ => rfl) s l

/-- Stall `k` has left its place in `d`: its looms are cleared and its hoppers `hs` empty, and no other loom and no byte of Store has
changed. -/
structure Vacated (k : Nat) (hs : List Nat) (s d : Dev) : Prop where
  cleared : ∀ l ∈ s.stallLooms k, ∃ x, d.loom l = clearLoom x
  others : ∀ l, l ∉ s.stallLooms k → d.loom l = s.loom l
  empty : ∀ h ∈ hs, d.hopper h = []
  store : d.mem.store = s.mem.store

/-- The stall is settled and its looms are cleared, its run hoppers are emptied and its regions released (R212). -/
def Dev.vacate (s : Dev) (k : Nat) (hs : List Nat) (rs : List Region) : Dev :=
  rs.foldl (fun t r => t.releaseRegion k r) (hs.foldl (fun t h => t.setHopper h []) ((s.settle k).clearLooms k))

theorem Dev.vacate_vacated {s : Dev} (grants : s.links.grants = []) (reqs : s.links.reqs = []) (k : Nat) (hs : List Nat) (rs : List Region) :
    Vacated k hs s (s.vacate k hs rs) := by
  obtain ⟨_, _, _, _, _, _, settled, kept⟩ := Dev.settle_frame grants reqs k
  have hub : (s.settle k).hub = s.hub := by rw [settled]
  have same : (s.settle k).stallLooms k = s.stallLooms k := by rw [Dev.stallLooms, Dev.stallLooms, Dev.stallRec, Dev.stallRec, hub]
  have cleared := (s.settle k).clearLooms_frame k
  have looms := (s.settle k).clearLooms_loom k
  rw [same] at looms
  have hoppers := Dev.foldl_setHopper_hopper hs ((s.settle k).clearLooms k)
  obtain ⟨_, emptied⟩ := Dev.foldl_setHopper_frame hs ((s.settle k).clearLooms k)
  obtain ⟨_, _, _, released⟩ : ReleaseFrame _ (s.vacate k hs rs) := .foldl (fun t r => t.releaseRegion_frame k r) rs (.refl _)
  have loom (l : Nat) : (s.vacate k hs rs).loom l = ((s.settle k).clearLooms k).loom l := by rw [released, emptied]; rfl
  refine ⟨fun l mine => ⟨_, (loom l).trans ((looms l).trans (if_pos mine))⟩,
    fun l other => (loom l).trans ((looms l).trans ((if_neg other).trans (kept l other))), fun h mem => ?_, ?_⟩
  · rw [released]; exact (hoppers h).trans (if_pos mem)
  · rw [released, emptied, cleared, settled]

/-- The unload ends with the stall's record cleared, its command no longer held and the report (R212). -/
theorem Dev.unloadStall_frame {s : Dev} {k : Nat} {p : StallPlan} (plan : (s.stall k).plan = some p) : ∃ f g,
    (∀ x, (f x).plan = none ∧ (f x).blk.state = .none ∧ (f x).blk.digest = 0 ∧ (f x).faulted = false) ∧
    ReportFrame ((((s.vacate k ((runHops p).filterMap (s.hopOf k)) p.regions).modStall k f).modTally g).modHub fun h =>
      { h with held := h.held.filter fun c => c.tgt != k + 1 }) (s.unloadStall k) := by
  unfold Dev.unloadStall
  simp only [plan, Option.getD_some]
  exact ⟨_, _, fun _ => ⟨rfl, rfl, rfl, rfl⟩, Dev.planReport_frame ..⟩

section
variable {s : Dev} {k : Nat} {p : StallPlan} (plan : (s.stall k).plan = some p)
include plan

theorem Dev.unloadStall_stall : ((s.unloadStall k).stall k).plan = none ∧ ((s.unloadStall k).stall k).blk.state = .none ∧
    ((s.unloadStall k).stall k).blk.digest = 0 ∧ ((s.unloadStall k).stall k).faulted = false := by
  obtain ⟨f, g, clears, report⟩ := Dev.unloadStall_frame plan
  rw [report.stall, Dev.modHub_stall, Dev.modTally_stall, Dev.modStall_stall_same]
  exact clears _

theorem Dev.unloadStall_held {c : HeldCmd} (h : c ∈ (s.unloadStall k).hub.held) : c.tgt ≠ k + 1 := by
  obtain ⟨f, g, _, report⟩ := Dev.unloadStall_frame plan
  rw [report.held] at h
  simpa using (List.mem_filter.1 h).2

theorem Dev.unloadStall_vacated (grants : s.links.grants = []) (reqs : s.links.reqs = []) :
    Vacated k ((runHops p).filterMap (s.hopOf k)) s (s.unloadStall k) := by
  obtain ⟨f, g, _, report⟩ := Dev.unloadStall_frame plan
  obtain ⟨cleared, others, empty, store⟩ := Dev.vacate_vacated grants reqs k ((runHops p).filterMap (s.hopOf k)) p.regions
  exact ⟨fun l mine => (cleared l mine).imp fun x h => (report.loom l).trans h, fun l other => (report.loom l).trans (others l other),
    fun h mem => (report.hopper h).trans (empty h mem), (congrArg MemSt.store report.mem).trans store⟩

end

/-- While a command of the stall is held, another is discarded (R213). -/
theorem runs_planUnload_busy {fn : FnId} {st : StallId} {s : State} (up : s.hub.linkUp = true) (landed : (s.fn fn.val).wbuf = [])
    (reach : fn.val = 0 ∨ fn.val = st.val + 1) (busy : (s.stall st.val).blk.state.busy = true) :
    Runs (.planUnload fn st) s (s.modBlk (.stall st) fun b => { b with cmdLost := true }) := by
  have planless : ((s.stall st.val).blk.state == .loaded || (s.stall st.val).blk.state == .failed) = false := by
    revert busy
    cases (s.stall st.val).blk.state <;> decide
  rw [Runs, exec, execPlanUnload]
  refine State.onDev_hostCmdEffect up landed ?_
  simp only [if_pos reach, planless, Bool.false_eq_true, if_false]

/-- The stall's unload is under way: it is withdrawn from the tally and its command held (R212, R213). -/
def Dev.beginUnload (s : Dev) (st : StallId) (fn : Nat) : Dev :=
  (s.modStall st.val fun x => { x with
    outOfTally := true, blk := { x.blk with state := .unloading, prev := x.blk.state, issuer := fn } }).modHub fun h =>
      { h with held := h.held ++ [{ tgt := st.val + 1, unload := true }] }

theorem Dev.beginUnload_plan (s : Dev) (st : StallId) (fn : Nat) : ((s.beginUnload st fn).stall st.val).plan = (s.stall st.val).plan := by
  rw [Dev.beginUnload, Dev.modHub_stall, Dev.modStall_stall_same]

/-- With no device command, no wave and the scheduler core running, an unload of a loaded stall goes through at once. -/
theorem runs_planUnload_loaded {fn : FnId} {st : StallId} {s : State} (up : s.hub.linkUp = true) (landed : (s.fn fn.val).wbuf = [])
    (reach : fn.val = 0 ∨ fn.val = st.val + 1) (loaded : (s.stall st.val).blk.state = .loaded) (alone : s.devInProgress = false)
    (quiet : s.tally.busy = false) (core : s.coreUp 2 = true) :
    Runs (.planUnload fn st) s ((s.beginUnload st fn.val).unloadStall st.val) := by
  rw [Runs, exec, execPlanUnload]
  refine State.onDev_hostCmdEffect up landed ?_
  simp only [if_pos reach, loaded, alone, quiet, core, Bool.not_false, Bool.or_true]
  rfl

/-! ### The device plan's unload (R185) -/

/-- `d` is `s` but for stalls, tally, messages and hub: what the end of a stall changes. -/
def DropFrame (s d : Dev) : Prop := ∃ st ta ou hu, d = { s with stalls := st, tally := ta, out := ou, hub := hu }

theorem DropFrame.trans {s d e : Dev} : DropFrame s d → DropFrame d e → DropFrame s e := by
  rintro ⟨_, _, _, _, rfl⟩ ⟨_, _, _, _, rfl⟩; exact ⟨_, _, _, _, rfl⟩

theorem ReportFrame.drop {s d : Dev} (h : ReportFrame s d) : DropFrame s d := by
  obtain ⟨_, _, _, _, _, _, rfl⟩ := h; exact ⟨_, _, _, _, rfl⟩

theorem Dev.modBlk_drop (s : Dev) (t : PlanTarget) (f : PlanBlk → PlanBlk) : DropFrame s (s.modBlk t f) := by
  cases t <;> exact ⟨_, _, _, _, rfl⟩

theorem Dev.refusePlan_drop (s : Dev) (t : PlanTarget) (f : Refuse) : DropFrame s (s.refusePlan t f) :=
  ((s.modBlk_drop t _).trans ⟨_, _, _, _, rfl⟩).trans (s.refusePlan_frame t f).drop

theorem Dev.dropStall_frame (s : Dev) (k : Nat) : DropFrame s (s.dropStall k) := by
  unfold Dev.dropStall
  dsimp only
  split
  · exact (DropFrame.trans ⟨_, _, _, _, rfl⟩ (Dev.modBlk_drop ..)).trans (Dev.refusePlan_drop ..)
  · exact ⟨_, _, _, _, rfl⟩

/-- Training changes links and their arbiters (R336, R366). -/
theorem Dev.trainLinks_frame (s : Dev) (a : AxesRec) : ∃ li rg, s.trainLinks a = { s with links := li, mem := { s.mem with regs := rg } } := by
  refine List.foldlRecOn (motive := fun d : Dev => ∃ li rg, d = { s with links := li, mem := { s.mem with regs := rg } }) _ _ ⟨_, _, rfl⟩ ?_
  rintro _ ⟨li, rg, rfl⟩ i _
  dsimp only
  repeat' split
  all_goals exact ⟨_, _, rfl⟩

/-- The stalls of the device plan end, and the module holds no device plan. -/
theorem Dev.unloadDevice_frame (s : Dev) : ∃ t, DropFrame s t ∧
    ReportFrame (((t.modHub fun h => { h with
      devPlan := none, dblk := { h.dblk with state := .none, planId := 0, digest := 0 } }).trainLinks {}).unhold .device) s.unloadDevice := by
  refine ⟨_, ?_, Dev.planReport_frame ..⟩
  refine DropFrame.trans ?_ ⟨_, _, _, _, rfl⟩
  refine List.foldlRecOn (motive := DropFrame s) _ _ ⟨_, _, _, _, rfl⟩ fun d h r _ => h.trans ?_
  exact DropFrame.trans ⟨_, _, _, _, rfl⟩ (Dev.dropStall_frame ..)

theorem Dev.unloadDevice_unloads (s : Dev) : s.unloadDevice.hub.devPlan = none ∧ s.unloadDevice.hub.dblk.state = .none ∧
    s.unloadDevice.hub.dblk.planId = 0 ∧ s.unloadDevice.looms = s.looms ∧
    s.unloadDevice.mem = { s.mem with regs := s.unloadDevice.mem.regs } := by
  obtain ⟨_, ⟨_, _, _, _, rfl⟩, report⟩ := s.unloadDevice_frame
  rw [report.devPlan, report.dblk, report.looms, report.mem]
  obtain ⟨_, _, trained⟩ := Dev.trainLinks_frame _ _
  rw [trained]
  exact ⟨rfl, rfl, rfl, rfl, rfl⟩

/-- No plan changes in a stall without a held command. -/
theorem PlanState.settled_of_free {p : PlanState} (free : p.busy = false) : (p == .verifying || p == .placing || p == .unloading) = false := by
  revert free
  cases p <;> decide

/-- With no command held before it, the device plan's unload goes through where no stall holds, changes or releases a plan. -/
theorem Dev.judgeDevUnload_unloads {s : Dev} (first : s.hub.held.takeWhile (fun c => c.tgt != 0) = [])
    (planless : ∀ e ∈ s.stalls, e.2.blk.state ≠ .loaded ∧ e.2.blk.state ≠ .failed ∧ e.2.blk.state.busy = false ∧ e.2.zeroing = []) :
    s.judgeDevUnload = s.unloadDevice := by
  have holds : s.stalls.any (fun e => e.2.blk.state == .loaded || e.2.blk.state == .failed) = false :=
    List.any_eq_false.2 fun e he => by obtain ⟨loaded, failed, -, -⟩ := planless e he; simp [loaded, failed]
  have changes : s.stalls.any (fun e => e.2.blk.state == .verifying || e.2.blk.state == .placing || e.2.blk.state == .unloading) = false :=
    List.any_eq_false.2 fun e he => by obtain ⟨-, -, free, -⟩ := planless e he; rw [PlanState.settled_of_free free]; decide
  have releases : s.stalls.any (fun e => !e.2.zeroing.isEmpty) = false :=
    List.any_eq_false.2 fun e he => by obtain ⟨-, -, -, zeroed⟩ := planless e he; simp [zeroed]
  unfold Dev.judgeDevUnload
  simp only [holds, changes, releases, first, List.isEmpty_nil, Bool.not_true, Bool.or_self, Bool.false_eq_true, if_false]

/-- The device plan's unload is accepted (R213). -/
def Dev.beginDevUnload (s : Dev) : Dev :=
  (s.modBlk .device fun b => { b with state := .waiting, prev := b.state, issuer := 0 }).modHub fun h =>
    { h with held := h.held ++ [{ tgt := 0, unload := true }] }

theorem runs_dplanUnload {s : State} (up : s.hub.linkUp = true) (landed : (s.fn 0).wbuf = []) (loaded : s.hub.dblk.state = .loaded)
    (first : s.hub.held = [])
    (planless : ∀ e ∈ s.stalls, e.2.blk.state ≠ .loaded ∧ e.2.blk.state ≠ .failed ∧ e.2.blk.state.busy = false ∧ e.2.zeroing = []) :
    Runs .dplanUnload s s.beginDevUnload.unloadDevice := by
  have held : s.beginDevUnload.hub.held = [{ tgt := 0, unload := true }] := by
    simp only [Dev.beginDevUnload, Dev.modBlk, Dev.modHub, first, List.nil_append]
  rw [Runs, exec, execDplanUnload]
  refine State.onDev_hostCmdEffect up landed ?_
  rw [← Dev.judgeDevUnload_unloads (s := s.beginDevUnload) (by rw [held]; rfl) planless]
  simp only [loaded]
  rfl

/-- Settles O40: loads by whether a command of the target is held, then the unload of a stall's plan and of the device plan. -/
theorem planCommandsAreAccepted : Obligations.PlanCommandsAreAccepted := by
  intro s up
  refine ⟨fun fn st reach landed => ⟨fun busy => ?stallBusy, fun free => ?stallFree, ?stallUnload⟩,
    fun landed => ⟨fun free => ?deviceFree, fun busy => ?deviceBusy, ?deviceUnload⟩⟩
  case stallBusy =>
    have load := runs_planLoad up landed reach
    rw [Dev.acceptLoad_busy (t := .stall st) busy] at load
    exact ⟨load, runs_planUnload_busy up landed reach busy⟩
  case stallFree =>
    have load := runs_planLoad up landed reach
    rwa [Dev.acceptLoad_free (t := .stall st) free] at load
  case stallUnload =>
    intro p loaded plan alone quiet core grants reqs
    have held : ((s.beginUnload st fn.val).stall st.val).plan = some p := (s.beginUnload_plan st fn.val).trans plan
    obtain ⟨noPlan, state, digest, sound⟩ := Dev.unloadStall_stall held
    obtain ⟨cleared, others, empty, store⟩ := Dev.unloadStall_vacated held grants reqs
    refine ⟨_, runs_planUnload_loaded up landed reach loaded alone quiet core, noPlan, state, digest, sound, empty, fun l mine => ?_, others,
      fun c => Dev.unloadStall_held held, store⟩
    obtain ⟨x, loom⟩ := cleared l mine
    rw [loom]
    exact ⟨rfl, rfl⟩
  case deviceFree =>
    have load := runs_dplanLoad up landed
    rwa [Dev.acceptLoad_free (t := .device) free] at load
  case deviceBusy =>
    have load := runs_dplanLoad up landed
    rwa [Dev.acceptLoad_busy (t := .device) busy] at load
  case deviceUnload =>
    intro loaded first planless
    exact ⟨_, runs_dplanUnload up landed loaded first planless, s.beginDevUnload.unloadDevice_unloads⟩

end Sys2Proof.Machine
end

section
/-!
PROOFS. Publications of a domain's epoch (R237).
-/
namespace Sys2Proof.Machine

/-! ### A write to SCH_PGE_PUBLISH of one domain -/

/-- What a write of `v` leaves in the domain's registers. -/
def EpochDom.publish (d : EpochDom) (v : W32) : EpochDom :=
  if v = d.epoch + 1 ∧ d.pinPrev = 0 then { d with epoch := v, pinPrev := d.pinCur, pinCur := 0 } else { d with refused := true }

theorem EpochDom.publish_accepted {d : EpochDom} {v : W32} (takes : v = d.epoch + 1 ∧ d.pinPrev = 0) :
    d.publish v = { d with epoch := v, pinPrev := d.pinCur, pinCur := 0 } := if_pos takes

theorem EpochDom.publish_refused {d : EpochDom} {v : W32} (refuses : ¬(v = d.epoch + 1 ∧ d.pinPrev = 0)) :
    d.publish v = { d with refused := true } := if_neg refuses

/-- The write to domain `dom` of stall `k`. -/
def Dev.publishEpoch (s : Dev) (k dom : Nat) (v : W32) : Dev :=
  s.modStall k fun x => { x with epochs := tset {} x.epochs dom ((tget {} x.epochs dom).publish v) }

theorem Dev.publishEpoch_epoch (s : Dev) (k dom : Nat) (v : W32) :
    tget {} ((s.publishEpoch k dom v).stall k).epochs dom = (tget {} (s.stall k).epochs dom).publish v := by
  simp [Dev.publishEpoch]

theorem Dev.publishEpoch_otherDomain (s : Dev) {k dom i : Nat} (v : W32) (other : i ≠ dom) :
    tget {} ((s.publishEpoch k dom v).stall k).epochs i = tget {} (s.stall k).epochs i := by
  simp [Dev.publishEpoch, tget_tset_other _ _ _ _ _ other]

theorem Dev.publishEpoch_otherStall (s : Dev) {k i : Nat} (dom : Nat) (v : W32) (other : i ≠ k) :
    (s.publishEpoch k dom v).stall i = s.stall i := by
  rw [Dev.publishEpoch, Dev.modStall_stall, if_neg other]

theorem Dev.publishEpoch_stalls (s : Dev) (k dom : Nat) (v : W32) :
    s.publishEpoch k dom v = { s with stalls := (s.publishEpoch k dom v).stalls } := rfl

/-! ### PGE_PUBLISH -/

section
variable {fn : FnId} {st : StallId} {s : State}

theorem runs_pgePublish (dom : Fin 16) (v : W32) (up : s.hub.linkUp = true) (landed : (s.fn fn.val).wbuf = [])
    (reach : fn.val = 0 ∨ fn.val = st.val + 1) (present : s.stallRec st.val ≠ none) :
    Runs (.pgePublish fn st dom v) s (s.publishEpoch st.val dom.val v) := by
  rw [Runs, exec, execPgePublish]
  exact State.onDev_hostCmdEffect up landed ((if_pos reach).trans (congrArg _ (if_neg (by simpa using present))))

/-- A write to a stall that the device plan does not have changes nothing. -/
theorem runs_pgePublish_noStall (dom : Fin 16) (v : W32) (up : s.hub.linkUp = true) (landed : (s.fn fn.val).wbuf = [])
    (reach : fn.val = 0 ∨ fn.val = st.val + 1) (absent : s.stallRec st.val = none) :
    Runs (.pgePublish fn st dom v) s s.toDev := by
  rw [Runs, exec, execPgePublish]
  exact State.onDev_hostCmdEffect up landed ((if_pos reach).trans (congrArg _ (if_pos (by simpa using absent))))

/-- Nothing is published while a BAR4 write of the function has not landed (R450). -/
theorem runs_pgePublish_behindWrite (dom : Fin 16) (v : W32) (pending : (s.fn fn.val).wbuf ≠ []) :
    Runs (.pgePublish fn st dom v) s s.toDev := by
  rw [Runs, exec, execPgePublish]
  refine s.onDev_next _ _ ?_
  split
  · rw [Dev.hostCmd_eq, if_neg (by simp [pending])]
  · rfl

end

/-- Settles O34: by whether the function's BAR4 writes have landed and the stall exists; of an existing stall only the domain's
registers change. -/
theorem pageTablePublication : Obligations.PageTablePublication := by
  intro fn st dom v s reach up
  refine ⟨fun landed => ⟨fun present => ?published, fun absent => runs_pgePublish_noStall dom v up landed reach absent⟩,
    fun pending => runs_pgePublish_behindWrite dom v pending⟩
  case published =>
    have epoch := s.publishEpoch_epoch st.val dom.val v
    exact ⟨_, runs_pgePublish dom v up landed reach present,
      fun takes => epoch.trans (EpochDom.publish_accepted takes),
      fun refuses => epoch.trans (EpochDom.publish_refused refuses),
      fun _ other => s.publishEpoch_otherDomain v other,
      fun _ other => s.publishEpoch_otherStall dom.val v other,
      s.publishEpoch_stalls st.val dom.val v⟩

end Sys2Proof.Machine
end

section
/-!
PROOFS. Finished tiles that wait for their slots: what placing one leaves of the other slots, and the flush of an operation's tiles
(R108, R133).
-/
namespace Sys2Proof.Machine

/-! ### Slots that a port may claim -/

theorem wrSlots_cons {x : LoomSt} {port i : Nat} {is : List Nat} :
    wrSlots x port (i :: is) = .ready ↔ wrSlot x port i = .ready ∧ wrSlots x port is = .ready := by
  rw [wrSlots]
  cases wrSlot x port i <;> simp

theorem wrSlots_congr {x y : LoomSt} (port : Nat) {is : List Nat} (same : ∀ i ∈ is, y.slot i = x.slot i) :
    wrSlots y port is = wrSlots x port is := by
  induction is with
  | nil => rfl
  | cons i is ih =>
    have first : wrSlot y port i = wrSlot x port i := by rw [wrSlot, wrSlot, same i List.mem_cons_self]
    rw [wrSlots, wrSlots, first, ih fun k hk => same k (List.mem_cons_of_mem i hk)]

/-! ### Slots left alone -/

/-- Slot `i` and its bytes stand in `y` as in `x`. -/
structure LoomSt.KeepsSlot (x : LoomSt) (i : Nat) (y : LoomSt) : Prop where
  slot : y.slot i = x.slot i
  bytes : slotBytes y i = slotBytes x i

namespace LoomSt.KeepsSlot
variable {x y z : LoomSt} {i : Nat}

theorem refl (x : LoomSt) : x.KeepsSlot i x := ⟨rfl, rfl⟩

theorem trans (h : x.KeepsSlot i y) (g : y.KeepsSlot i z) : x.KeepsSlot i z := ⟨g.slot.trans h.slot, g.bytes.trans h.bytes⟩

theorem of_tables (slots : y.slots = x.slots) (bench : y.bench = x.bench) : x.KeepsSlot i y :=
  ⟨by rw [LoomSt.slot, LoomSt.slot, slots], by rw [slotBytes, slotBytes, benchBytes, benchBytes, bench]⟩

end LoomSt.KeepsSlot

theorem benchBytes_take (x : LoomSt) (a : Nat) {n m : Nat} (short : n ≤ m) : (benchBytes x a m).take n = benchBytes x a n := by
  rw [benchBytes, benchBytes, tgetRange, tgetRange, ← List.map_take, List.take_range, Nat.min_eq_left short]

/-- A tile of at most a slot's bytes is held on while its slot is left alone. -/
theorem LoomSt.HoldsTile.keep {x y : LoomSt} {i : Nat} {t : Tile} (h : x.HoldsTile i t) (fits : t.data.length ≤ 8192) (kept : x.KeepsSlot i y) :
    y.HoldsTile i t := by
  obtain ⟨slot, bytes⟩ := kept
  obtain ⟨data, tag, ready⟩ := h
  refine ⟨?_, by rw [slot, tag], by rwa [Sys2Proof.Machine.readable, slot]⟩
  rw [← benchBytes_take y _ fits, ← slotBytes, bytes, slotBytes, benchBytes_take x _ fits, data]

/-- A tile written into one slot leaves every other. -/
theorem writeTile_keepsSlot (x : LoomSt) {i k : Nat} {t : Tile} (r port : Nat) (fits : t.data.length ≤ 8192) (other : k ≠ i) :
    x.KeepsSlot k (writeTile x i t r port) := by
  obtain ⟨-, -, slots⟩ := writeTile_slot x i k t r port
  refine ⟨slots other, ?_⟩
  rw [slotBytes, slotBytes, benchBytes, benchBytes, tgetRange, tgetRange]
  refine List.map_congr_left fun b hb => ?_
  have within := List.mem_range.1 hb
  exact (writeTile_byte x i (8192 * k + b) t r port).trans (if_neg (by omega))

theorem Dev.putTile_keepsSlot (s : Dev) (c : Ctx) (port run : Nat) (d : Desc) (coord : Nat × Nat × Nat) {t : Tile} {k : Nat}
    (fits : t.data.length ≤ 8192) (other : k ≠ ringSlot d coord) : (s.loom c.l).KeepsSlot k ((s.putTile c port run d coord t).loom c.l) := by
  have written (r : Nat) := writeTile_keepsSlot (s.loom c.l) r port fits other
  unfold Dev.putTile
  dsimp only
  split
  · rw [Dev.modLoom_loom_same, Dev.count_loom, Dev.modLoom_loom_same]
    exact (written 0).trans (.of_tables rfl rfl)
  · rw [Dev.count_loom, Dev.modLoom_loom_same]
    exact written d.readers

/-! ### The flush of an operation's tiles -/

/-- A waiting tile is placed in its slot; the converter counts it where it comes from there. -/
def Dev.putPending (s : Dev) (c : Ctx) (port : Nat) (conv : Nat → Bool) (p : Sample) (d : Desc) (o : PendTile) : Dev :=
  (if conv o.t then s.count c.l 2 1 else s).putTile c port p.runSeq d o.coord o.tile

section
variable (s : Dev) (c : Ctx) (port : Nat) (conv : Nat → Bool) (p : Sample) (d : Desc) (o : PendTile)

theorem Dev.putPending_work : LoomWork c.l [2, 14] s (s.putPending c port conv p d o) :=
  (LoomWork.ite ((LoomWork.refl s).count (by decide) 1) (.refl s)).putTile (by decide) ..

theorem Dev.putPending_holdsTile : ((s.putPending c port conv p d o).loom c.l).HoldsTile (ringSlot d o.coord) o.tile :=
  Dev.putTile_holdsTile ..

variable {o} in
theorem Dev.putPending_keepsSlot {k : Nat} (fits : o.tile.data.length ≤ 8192) (other : k ≠ ringSlot d o.coord) :
    (s.loom c.l).KeepsSlot k ((s.putPending c port conv p d o).loom c.l) := by
  have counted : (if conv o.t then s.count c.l 2 1 else s).loom c.l = s.loom c.l := by split <;> rfl
  rw [← counted]
  exact Dev.putTile_keepsSlot _ c port p.runSeq d o.coord fits other

end

section
variable {s : Dev} {c : Ctx} {port : Nat} {o : PendTile} {d : Desc} (desc : c.st.desc o.t = some d) (conv : Nat → Bool) (p : Sample)
  (os : List PendTile)
include desc

theorem Dev.flush_ready (free : wrSlot (s.loom c.l) port (ringSlot d o.coord) = .ready) :
    Dev.flush c port conv p (o :: os) s = Dev.flush c port conv p os (s.putPending c port conv p d o) := by
  simp only [Dev.flush, desc, free, Dev.putPending]

theorem Dev.flush_wait (taken : wrSlot (s.loom c.l) port (ringSlot d o.coord) = .wait) :
    Dev.flush c port conv p (o :: os) s = (s, o :: os) := by
  simp only [Dev.flush, desc, taken]

theorem Ctx.pendSlots_cons : c.pendSlots (o :: os) = ringSlot d o.coord :: c.pendSlots os := by
  simp only [Ctx.pendSlots, List.map_cons, desc]

end

/-- `t` is `s` once the tiles `os` are placed: they stand in their slots, and no other slot of the loom has changed. -/
structure Flushed (c : Ctx) (os : List PendTile) (s t : Dev) : Prop where
  work : LoomWork c.l [2, 14] s t
  kept : ∀ i, i ∉ c.pendSlots os → (s.loom c.l).KeepsSlot i (t.loom c.l)
  took : (t.loom c.l).took c os

/-- Tiles whose slots can all be claimed are placed, none is left. -/
theorem Dev.flush_takes {c : Ctx} {port : Nat} {os : List PendTile} {s : Dev} (can : (s.loom c.l).canTake c port os) (conv : Nat → Bool)
    (p : Sample) : ∃ t, Dev.flush c port conv p os s = (t, []) ∧ Flushed c os s t := by
  induction os generalizing s with
  | nil => exact ⟨s, rfl, .refl s, fun i _ => .refl _, fun o ho => absurd ho List.not_mem_nil⟩
  | cons o os ih =>
    obtain ⟨tiles, distinct, free⟩ := can
    obtain ⟨hasDesc, fits⟩ := tiles o List.mem_cons_self
    obtain ⟨d, desc⟩ := Option.isSome_iff_exists.1 hasDesc
    rw [Ctx.pendSlots_cons desc] at distinct free
    obtain ⟨apart, distinct⟩ := List.nodup_cons.1 distinct
    obtain ⟨first, rest⟩ := wrSlots_cons.1 free
    have kept (i : Nat) := s.putPending_keepsSlot c port conv p d fits (k := i)
    have still : wrSlots ((s.putPending c port conv p d o).loom c.l) port (c.pendSlots os) = .ready := by
      rw [wrSlots_congr port fun i hi => (kept i (ne_of_mem_of_not_mem hi apart)).slot, rest]
    obtain ⟨t, flushed, work, others, took⟩ := ih ⟨fun q hq => tiles q (List.mem_cons_of_mem o hq), distinct, still⟩
    refine ⟨t, (Dev.flush_ready desc conv p os first).trans flushed, (s.putPending_work c port conv p d o).trans work, fun i hi => ?_,
      fun q hq e he => ?_⟩
    · rw [Ctx.pendSlots_cons desc, List.mem_cons, not_or] at hi
      exact (kept i hi.1).trans (others i hi.2)
    · rcases List.mem_cons.1 hq with rfl | hq
      · obtain rfl : d = e := Option.some.inj (desc.symm.trans he)
        have holds := (s.putPending_holdsTile c port conv p d q).keep fits (others _ apart)
        exact ⟨holds.bytes, holds.tag, holds.readable⟩
      · exact took q hq e he

/-- The tiles taken are still there in a loom with the same slots and Bench. -/
theorem LoomSt.took.congr {x y : LoomSt} {c : Ctx} {os : List PendTile} (h : x.took c os) (slots : y.slots = x.slots) (bench : y.bench = x.bench) :
    y.took c os := fun o ho d desc =>
  have ⟨bytes, tag, readable⟩ := h o ho d desc
  have ⟨bytes, tag, readable⟩ := LoomSt.HoldsTile.congr ⟨bytes, tag, readable⟩ slots bench
  ⟨bytes, tag, readable⟩

end Sys2Proof.Machine
end

section
/-!
PROOFS. UPD's issue: the ledger header, held or read, the shard's entry, and the shard that begins (R142, R274 to R276, R289).
-/
namespace Sys2Proof.Machine

/-! ### The ledger header (R276) -/

/-- The LRS that the loom's run holds. -/
def LoomSt.heldLrs (x : LoomSt) : Option W16 := match x.updRun with
  | some (q, v) => if q = x.runSeq then some v else none
  | none => none

theorem LoomSt.heldLrs_of_run {x : LoomSt} {v : W16} (run : x.updRun = some (x.runSeq, v)) : x.heldLrs = some v := by
  simp only [heldLrs, run, if_true]

theorem LoomSt.heldLrs_of_first {x : LoomSt} (first : ∀ v, x.updRun ≠ some (x.runSeq, v)) : x.heldLrs = none := by
  unfold heldLrs
  split
  · next q v run => exact if_neg fun same : q = x.runSeq => first v (by rw [run, same])
  · rfl

/-- A well-formed header that carries a held LRS. -/
def heldHead (v : W16) : List Byte := natLe 2 v.toNat ++ List.replicate 14 0 ++ natLe 2 8 ++ List.replicate 46 0

theorem heldHead_ok (v : W16) : ledgerHeadOk (heldHead v) = true := rfl

theorem heldHead_lrs (v : W16) : BitVec.ofNat 16 (u16 (heldHead v) 0) = v := by
  have bytes : u16 (heldHead v) 0 = v.toNat % 256 + 256 * (v.toNat / 256 % 256) := rfl
  rw [bytes]
  apply BitVec.eq_of_toNat_eq
  rw [BitVec.toNat_ofNat]
  omega

/-- The header of the run's ledger: of what is held, or read at its first UPD. -/
def Dev.ledgerHead (s : Dev) (c : Ctx) (x : LoomSt) (r : LedgerRec) : TRes (List Byte) := match x.heldLrs with
  | some v => .ok (heldHead v) s
  | none => s.tierRead c.stall c.src none r.va 64

section
variable {s s1 : Dev} {c : Ctx} {x : LoomSt} {r : LedgerRec}

theorem Dev.ledgerHead_held {v : W16} (run : x.updRun = some (x.runSeq, v)) : s.ledgerHead c x r = .ok (heldHead v) s := by
  rw [Dev.ledgerHead, LoomSt.heldLrs_of_run run]

theorem Dev.ledgerHead_first (first : ∀ v, x.updRun ≠ some (x.runSeq, v)) :
    s.ledgerHead c x r = s.tierRead c.stall c.src none r.va 64 := by
  rw [Dev.ledgerHead, LoomSt.heldLrs_of_first first]

theorem Dev.ledgerHead_loom {h : List Byte} (head : s.ledgerHead c x r = .ok h s1) (i : Nat) : s1.loom i = s.loom i := by
  unfold Dev.ledgerHead at head
  split at head
  · cases head; rfl
  · exact (s.tierRead_frame s1 c.stall c.src none r.va 64 (congrArg TRes.dev head)).loom i

end

/-! ### The shard that begins -/

/-- The first tile of the shard that the loom's UPD names (R274). -/
def Dev.shardTile (s : Dev) (l : Nat) (c : Ctx) (dw : Desc) : Nat := shardT0 dw (c.at_ s dw (sampleOf (s.loom l)) 0 0 0)

/-- The shard's entry in the ledger (R275). -/
def Dev.shardEntry (s : Dev) (l : Nat) (c : Ctx) (w : Nat) (dw : Desc) (r : LedgerRec) : Nat :=
  r.lbase.getD (updTW w) 0 + s.shardTile l c dw / r.nt

/-- The address of the shard's entry. -/
def Dev.shardVa (s : Dev) (l : Nat) (c : Ctx) (w : Nat) (dw : Desc) (r : LedgerRec) : Nat := r.va + 64 + 64 * s.shardEntry l c w dw r

/-- The shard as it begins, its entry read as `b`, in the entry's mode. -/
def Dev.shardJob (s : Dev) (l : Nat) (c : Ctx) (w : Nat) (dw : Desc) (r : LedgerRec) (b : List Byte) (lrs : W16) : UpdJob :=
  { smp := sampleOf (s.loom l), mode := u8 b 20, va := s.shardVa l c w dw r, entryNo := s.shardEntry l c w dw r, entry := b,
    t0 := s.shardTile l c dw, nt := r.nt, lrs := lrs, fdraw := (s.loom l).runDraw, pass := if u8 b 20 = 2 then 3 else 1, n := extCode .zero }

/-- The loom with a UPD begun: its run holds the ledger's LRS. -/
def LoomSt.updBegin (x : LoomSt) (j : UpdJob) : LoomSt :=
  { x with updRun := some (j.smp.runSeq, j.lrs), updEntry := BitVec.ofNat 32 j.entryNo, upd := some j }

/-- The module once the loom has issued a UPD that begins shard `j`. -/
def Dev.updIssue (s : Dev) (l : Nat) (j : UpdJob) : Dev := advance (s.modLoom l fun x => x.updBegin j) l

theorem Dev.updIssue_loom (s : Dev) (l : Nat) (j : UpdJob) :
    (s.updIssue l j).loom l = ((s.loom l).updBegin j).goto (nextPc (s.loom l)) := by
  rw [Dev.updIssue, advance, Dev.modLoom_loom_same, Dev.modLoom_loom_same]
  rfl

theorem Dev.resumes_loom (s : Dev) (l op : Nat) : (s.resumes l op).loom l = { s.loom l with waits := (s.loom l).waits.erase op } :=
  Dev.modLoom_loom_same ..

section
variable {l : LoomId} {s : State} {c : Ctx} {w : Nat} {d15 dw : Desc} {r : LedgerRec} {h b : List Byte} {s1 s2 : Dev}
variable (head : s.ledgerHead c (s.loom l.val) r = .ok h s1)
  (read : (s1.resumes l.val (s.loom l.val).pc).tierRead c.stall c.src none (s.shardVa l.val c w dw r) 64 = .ok b s2)
include head read

/-- Up to its wait episodes the loom stands as before the ledger was read. -/
theorem Dev.entryRead_loom : ∃ ws, (s2.resumes l.val (s.loom l.val).pc).loom l.val = { s.loom l.val with waits := ws } := by
  have frame := Dev.tierRead_frame _ s2 c.stall c.src none _ 64 (congrArg TRes.dev read)
  rw [Dev.resumes_loom, frame.loom, Dev.resumes_loom, Dev.ledgerHead_loom head]
  exact ⟨_, rfl⟩

/-- A UPD whose ledger record, header and entry are in order begins its shard. -/
theorem runs_upd (issues : s.issues l.val 0x40 c w) (desc15 : c.st.desc 15 = some d15) (tw : c.st.desc (updTW w) = some dw)
    (idle : (s.loom l.val).upd = none) (record : ledgerRec (s.loom l.val) d15 = some r) (formed : ledgerHeadOk h = true)
    (whole : s.shardTile l.val c dw % r.nt = 0) (inside : s.shardEntry l.val c w dw r < r.entries) (mode : u8 b 20 ≤ 2)
    (next : u8 b 20 = 0 → (u32 b 0 + 1) % 2 ^ 32 = (s.loom l.val).version.toNat) :
    Runs (.upd l) s ((s2.resumes l.val (s.loom l.val).pc).updIssue l.val (s.shardJob l.val c w dw r b (BitVec.ofNat 16 (u16 h 0)))) := by
  have inOrder : ¬(2 < u8 b 20 ∨ (u8 b 20 = 0 ∧ (u32 b 0 + 1) % 2 ^ 32 ≠ (sampleOf (s.loom l.val)).version.toNat)) := by
    rintro (high | ⟨apply, other⟩)
    · exact absurd mode (Nat.not_le.2 high)
    · exact other (next apply)
  have placed : (!ledgerHeadOk h || s.shardTile l.val c dw % r.nt != 0 || decide (r.entries ≤ s.shardEntry l.val c w dw r)) = false := by
    simp [formed, whole, inside]
  rw [Runs, exec, execUpd]
  refine s.onDev_next _ _ (congrArg Host.Outcome.next ?_)
  rw [Dev.withWord_issues issues]
  simp only [withDesc, desc15, tw, idle, record, Option.isSome_none, Bool.false_eq_true, if_false]
  change (s.ledgerHead c (s.loom l.val) r).forLoom _ _ _ _ = _
  rw [head, TRes.forLoom]
  refine (if_neg (Bool.eq_false_iff.1 placed)).trans ?_
  refine (congrArg (TRes.forLoom · _ _ _ _) read).trans ?_
  exact if_neg inOrder

theorem Dev.updIssue_begins (lrs : W16) :
    let d := (s2.resumes l.val (s.loom l.val).pc).updIssue l.val (s.shardJob l.val c w dw r b lrs)
    (d.loom l.val).updEntry = BitVec.ofNat 32 (s.shardEntry l.val c w dw r) ∧
    (d.loom l.val).updRun = some ((s.loom l.val).runSeq, lrs) ∧
    (d.loom l.val).pc = ((s.loom l.val).goto (nextPc (s.loom l.val))).pc ∧
    (d.loom l.val).upd = some (s.shardJob l.val c w dw r b lrs) := by
  obtain ⟨ws, loom⟩ := Dev.entryRead_loom head read
  dsimp only
  rw [Dev.updIssue_loom, loom]
  exact ⟨rfl, rfl, rfl, rfl⟩

end

end Sys2Proof.Machine
end

section
/-!
PROOFS. The steps of a shard: pass 1, the gate, pass 2 and the skip, the measurement, the fetch, the tiles that wait, and the
entry's write at the end (R277, R278, R282 to R286, R289 to R291).
-/
namespace Sys2Proof.Machine

/-- The shard in progress on a live loom, as the steps see it. -/
structure Dev.UpdAt (s : Dev) (l : Nat) (e : UpdEnv) : Prop where
  ctx : s.ctx l = some e.c
  job : (s.loom l).upd = some e.j
  live : (s.loom l).live = true
  word : e.w = e.j.smp.w
  tw : e.c.st.desc (updTW e.w) = some e.dw

namespace Dev.UpdAt

theorem loom {s : Dev} {l : Nat} {e : UpdEnv} (h : s.UpdAt l e) : e.c.l = l := Dev.ctx_l h.ctx

theorem withUpd {s : Dev} {l : Nat} {e : UpdEnv} (h : s.UpdAt l e) {mode : Nat} (inMode : e.j.mode = mode) (k : UpdEnv → Dev) :
    s.withUpd l mode k = k e := by
  obtain ⟨ctx, job, live, word, tw⟩ := h
  simp only [Dev.withUpd, ctx, job, live, ← word, tw, inMode, ne_eq, not_true_eq_false, decide_false, Bool.not_true, Bool.or_self,
    Bool.false_eq_true, if_false]

/-- The steps of shards in one mode take the one in progress. -/
theorem onDev_withUpd {s : State} {l : Nat} {e : UpdEnv} (h : s.toDev.UpdAt l e) {mode : Nat} (inMode : e.j.mode = mode)
    {k : Dev → UpdEnv → Dev} {d : Dev} (step : k s.toDev e = d) :
    s.onDev (fun t => .next (t.withUpd l mode (k t))) = .next { s with toDev := d } :=
  s.onDev_next _ _ (congrArg Host.Outcome.next ((h.withUpd inMode _).trans step))

end Dev.UpdAt

/-! ### What the steps leave of the shard -/

theorem Dev.setUpd_upd (s : Dev) (l : Nat) (j : UpdJob) : ((s.setUpd l j).loom l).upd = some j := by
  rw [Dev.setUpd, Dev.modLoom_loom_same]

theorem Dev.setUpd_work (s : Dev) (l : Nat) (j : UpdJob) : LoomWork l [] s (s.setUpd l j) := (LoomWork.refl s).modLoom _

theorem readDone_upd (x : LoomSt) (i : Nat) : (readDone x i).upd = x.upd := by
  unfold readDone
  dsimp only
  split
  · split <;> rfl
  · rfl

theorem Dev.readTiles_upd (s : Dev) (l : Nat) (slots : List Nat) : ((s.readTiles l slots).loom l).upd = (s.loom l).upd := by
  refine List.foldlRecOn (motive := fun d : Dev => (d.loom l).upd = (s.loom l).upd) _ _ rfl fun d same i _ => ?_
  rw [Dev.count_loom, Dev.modLoom_loom_same, readDone_upd, same]

/-! ### One gradient tile of pass 1 (R282) -/

section
variable (s : Dev) (e : UpdEnv)

/-- Pass 1 takes the next gradient tile. -/
def Dev.updPass1 : Dev :=
  let r := pass1Tile e (s.loom e.c.l) s.freeCtr
  ((s.draw.2.setUpd e.c.l r.1).count e.c.l 41 r.2).count e.c.l 38 (gbig e (s.loom e.c.l))

theorem Dev.updPass1_upd : ((s.updPass1 e).loom e.c.l).upd = some (pass1Tile e (s.loom e.c.l) s.freeCtr).1 := by
  rw [Dev.updPass1, Dev.count_loom, Dev.count_loom, Dev.setUpd_upd]

theorem Dev.updPass1_work : LoomWork e.c.l [13, 38, 41] s (s.updPass1 e) :=
  (((LoomWork.draw s).modLoom _).count (by decide) _).count (by decide) _

end

/-! ### One tile of pass 2, of the skip, and of the fetch -/

section
variable (s : Dev) (e : UpdEnv)

theorem Dev.raiseOuts_work {d : Dev} (h : LoomWork e.c.l [3, 4, 5, 6, 13, 37, 39] s d) (os : List OutTile) :
    LoomWork e.c.l [3, 4, 5, 6, 13, 37, 39] s (os.foldl (fun t o => t.raiseOut e.c e.j.smp o) d) :=
  h.foldl (fun t o => (LoomWork.refl t).raiseOut (by decide) e.j.smp o) os

theorem Dev.updTile_work : LoomWork e.c.l [3, 4, 5, 6, 13, 37, 39] s (s.updTile e) := by
  have raised := Dev.raiseOuts_work s e (.draw s) (e.tiles (s.loom e.c.l) s.freeCtr)
  unfold Dev.updTile Dev.setUpd
  exact (((LoomWork.ite (raised.count (by decide) _) raised).readTiles (by decide) _).count (by decide) _).modLoom _

theorem Dev.updTile_upd : ((s.updTile e).loom e.c.l).upd = some { e.j with
    i := e.j.i + 1
    outs := (e.tiles (s.loom e.c.l) s.freeCtr).map (·.pend e.c.stall) ++
      if e.keeps then [e.copy (s.loom e.c.l) (updTR e.w + 8) e.j.i (e.slot (updTR e.w) e.j.i)] else [] } :=
  Dev.setUpd_upd ..

theorem Dev.skipTile_work : LoomWork e.c.l [3, 4, 5, 6, 13, 32] s (s.skipTile e) := by
  unfold Dev.skipTile Dev.setUpd
  exact ((((LoomWork.draw s).raiseOut (by decide) _ _).readTiles (by decide) _).count (by decide) _).modLoom _

/-- The skip writes the master first, as it stands. -/
theorem Dev.skipTile_upd : ∃ os, ((s.skipTile e).loom e.c.l).upd = some { e.j with
    i := e.j.i + 1, outs := e.copy (s.loom e.c.l) (updTW e.w + 8) e.j.i (e.masterAt e.j.i) :: os } :=
  ⟨_, Dev.setUpd_upd ..⟩

/-- The fetched tile's working copy (R291). -/
def Dev.fetchedCopy : OutTile :=
  e.working (s.loom e.c.l) e.j.i (s.freeCtr * 256 + 5) (slotVals (s.loom e.c.l) false (e.masterAt e.j.i))

/-- The module once the next master tile is taken. -/
def Dev.fetchTile : Dev :=
  let q := s.fetchedCopy e
  (((s.draw.2.raiseOut e.c e.j.smp q).readTiles e.c.l [e.masterAt e.j.i]).count e.c.l 42 1).setUpd e.c.l
    { e.j with i := e.j.i + 1, outs := [e.copy (s.loom e.c.l) (updTW e.w + 8) e.j.i (e.masterAt e.j.i), q.pend e.c.stall] }

theorem Dev.fetchTile_work : LoomWork e.c.l [3, 4, 5, 6, 13, 42] s (s.fetchTile e) := by
  unfold Dev.fetchTile Dev.setUpd
  exact ((((LoomWork.draw s).raiseOut (by decide) _ _).readTiles (by decide) _).count (by decide) _).modLoom _

theorem Dev.fetchTile_upd : ((s.fetchTile e).loom e.c.l).upd = some { e.j with
    i := e.j.i + 1
    outs := [e.copy (s.loom e.c.l) (updTW e.w + 8) e.j.i (e.masterAt e.j.i), (s.fetchedCopy e).pend e.c.stall] } :=
  Dev.setUpd_upd ..

end

/-- How far the next master tile lies behind the run's version, modulo 2^16 (R290). -/
def UpdEnv.behind (e : UpdEnv) (x : LoomSt) : Nat :=
  (e.j.smp.version.toNat % 65536 + 65536 - tagEpoch (x.slot (e.masterAt e.j.i)).tag) % 65536

/-! ### The tiles that wait -/

section
variable {s : Dev} {e : UpdEnv} (conv : Nat → Bool)

/-- Once every waiting tile can be placed, they stand in their slots and none waits. -/
theorem Dev.updFlush_takes (can : (s.loom e.c.l).canTake e.c 3 e.j.outs) :
    LoomWork e.c.l [2, 14] s (s.updFlush e conv) ∧ ((s.updFlush e conv).loom e.c.l).upd = some { e.j with outs := [] } ∧
    ((s.updFlush e conv).loom e.c.l).took e.c e.j.outs := by
  obtain ⟨t, flushed, work, -, took⟩ := Dev.flush_takes can conv e.j.smp
  unfold Dev.updFlush
  simp only [flushed]
  refine ⟨work.modLoom _, Dev.setUpd_upd .., ?_⟩
  rw [Dev.setUpd, Dev.modLoom_loom_same]
  exact took.congr rfl rfl

/-- While the first must wait, all do. -/
theorem Dev.updFlush_waits (wait : (s.loom e.c.l).mustWait e.c 3 e.j.outs) : s.updFlush e conv = s.setUpd e.c.l e.j := by
  obtain ⟨o, rest, d, outs, desc, taken⟩ := wait
  rw [Dev.updFlush, outs, Dev.flush_wait desc conv e.j.smp rest taken, ← outs]

end

/-! ### The shard's end (R277, R278) -/

/-- With every tile write acknowledged and the entry written, the shard is over. -/
theorem Dev.shardEnd_ends {s s1 : Dev} {e : UpdEnv} {published flags skips : Nat} {measured : Bool} {u : Unit}
    (acked : e.acked (s.loom e.c.l) = true)
    (wrote : s.tierWrite e.c.stall e.c.src none false e.j.va (e.entryBytes published flags skips measured) = .ok u s1) :
    ((s.shardEnd e published flags skips measured).loom e.c.l).upd = none ∧ (s.shardEnd e published flags skips measured).mem = s1.mem ∧
    ((s.shardEnd e published flags skips measured).loom e.c.l).updFlags = BitVec.ofNat 8 flags := by
  have ended : s.shardEnd e published flags skips measured = (s1.resumes e.c.l e.j.smp.op).modLoom e.c.l fun x =>
      { x with upd := none, updFlags := BitVec.ofNat 8 flags } := by
    simp only [Dev.shardEnd, acked, wrote, TRes.forLoom, Bool.not_true, Bool.false_eq_true, if_false]
  rw [ended, Dev.modLoom_loom_same]
  exact ⟨rfl, rfl, rfl⟩

/-! ### The commands -/

section
variable {s : State} {l : LoomId} {e : UpdEnv} (h : s.toDev.UpdAt l.val e)
include h

/-- Tiles that wait are written before anything else, in APPLY and in FETCH. -/
theorem runs_updFlush {i : Instr} (step : e.j.mode = 0 ∧ i = .updApply l ∨ e.j.mode = 2 ∧ i = .updFetch l) (waiting : e.j.outs ≠ []) :
    ∃ conv, Runs i s (s.updFlush e conv) := by
  have pending : (!e.j.outs.isEmpty) = true := by simpa using waiting
  rcases step with ⟨mode, rfl⟩ | ⟨mode, rfl⟩
  · refine ⟨fun t => if e.j.pass = 3 then t == updTQ e.w else t != updTR e.w + 8, ?_⟩
    rw [Runs, exec, execUpdApply]
    exact h.onDev_withUpd mode (if_pos pending)
  · refine ⟨fun t => t == updTQ e.w, ?_⟩
    rw [Runs, exec, execUpdFetch]
    exact h.onDev_withUpd mode (if_pos pending)

omit h in
/-- No tile of the shard waits. -/
theorem UpdEnv.noneWait (outs : e.j.outs = []) : (!e.j.outs.isEmpty) = false := by rw [outs]; rfl

/-! APPLY -/

section
variable (mode : e.j.mode = 0) (outs : e.j.outs = [])
include mode outs

theorem runs_updApply_pass1 (pass : e.j.pass = 1) (more : e.j.i < e.j.nt)
    (ready : rdSlots e.c.stall (s.loom l.val) [e.slot (updTG e.w) e.j.i] = .ready) : Runs (.updApply l) s (s.updPass1 e) := by
  rw [Runs, exec, execUpdApply]
  refine h.onDev_withUpd mode ?_
  simp only [UpdEnv.noneWait outs, pass, more, ready, Dev.guardSlots, Bool.false_eq_true, if_false, if_true]
  rw [← h.loom]
  rfl

theorem runs_updApply_gate (pass : e.j.pass = 1) (done : e.j.nt ≤ e.j.i) :
    Runs (.updApply l) s (s.setUpd l.val { e.j with i := 0, flags := gateFlags e, pass := if gateFlags e = 0 then 2 else 3 }) := by
  rw [Runs, exec, execUpdApply]
  refine h.onDev_withUpd mode ?_
  simp only [UpdEnv.noneWait outs, pass, Nat.not_lt.2 done, Bool.false_eq_true, if_false, if_true]

theorem runs_updApply_pass2 (pass : e.j.pass = 2) (more : e.j.i < e.j.nt)
    (ready : rdSlots e.c.stall (s.loom l.val) e.reads = .ready) : Runs (.updApply l) s (s.updTile e) := by
  rw [Runs, exec, execUpdApply]
  refine h.onDev_withUpd mode ?_
  simp only [UpdEnv.noneWait outs, pass, more, ready, Dev.guardSlots, Bool.false_eq_true, if_false, if_true]
  rfl

theorem runs_updApply_skip (pass : e.j.pass = 3) (more : e.j.i < e.j.nt)
    (ready : rdSlots e.c.stall (s.loom l.val) e.reads = .ready) : Runs (.updApply l) s (s.skipTile e) := by
  rw [Runs, exec, execUpdApply]
  refine h.onDev_withUpd mode ?_
  simp only [UpdEnv.noneWait outs, pass, more, ready, Dev.guardSlots, Bool.false_eq_true, if_false, if_true]
  rfl

/-- After pass 2 the shard ends with its skips as they were. -/
theorem runs_updApply_applied (pass : e.j.pass = 2) (done : e.j.nt ≤ e.j.i) :
    Runs (.updApply l) s (s.shardEnd e e.j.smp.version.toNat e.j.flags (u16 e.j.entry 14) true) := by
  rw [Runs, exec, execUpdApply]
  refine h.onDev_withUpd mode ?_
  simp only [UpdEnv.noneWait outs, pass, Nat.not_lt.2 done, Bool.false_eq_true, if_false]
  rfl

/-- After a skip the shard ends with one skip more, and once it is over the skip is counted. -/
theorem runs_updApply_skipped (pass : e.j.pass = 3) (done : e.j.nt ≤ e.j.i) :
    let d := s.shardEnd e e.j.smp.version.toNat e.j.flags (min (u16 e.j.entry 14 + 1) 65535) true
    Runs (.updApply l) s (if (d.loom l.val).upd.isNone then d.count l.val 40 1 else d) := by
  dsimp only
  rw [Runs, exec, execUpdApply]
  refine h.onDev_withUpd mode ?_
  simp only [UpdEnv.noneWait outs, pass, Nat.not_lt.2 done, Bool.false_eq_true, if_false]
  rfl

end

/-! MEASURE -/

section
variable (mode : e.j.mode = 1)
include mode

theorem runs_updMeasure_tile (more : e.j.i < e.j.nt)
    (ready : rdSlots e.c.stall (s.loom l.val) [e.slot (updTG e.w) e.j.i] = .ready) :
    Runs (.updMeasure l) s ((s.updPass1 e).readTiles e.c.l [e.slot (updTG e.w) e.j.i]) := by
  rw [Runs, exec, execUpdMeasure]
  refine h.onDev_withUpd mode ?_
  simp only [more, ready, Dev.guardSlots, if_true]
  rw [← h.loom]
  rfl

theorem runs_updMeasure_end (done : e.j.nt ≤ e.j.i) :
    Runs (.updMeasure l) s (s.shardEnd e (u32 e.j.entry 0)
      (u8 e.j.entry 12 % 2 + 2 * b2n (e.j.nf != 0 || !finiteV (extVal e.j.n)) + 4 * (u8 e.j.entry 12 / 4)) (u16 e.j.entry 14) true) := by
  rw [Runs, exec, execUpdMeasure]
  exact h.onDev_withUpd mode (if_neg (Nat.not_lt.2 done))

end

/-! FETCH -/

section
variable (mode : e.j.mode = 2) (outs : e.j.outs = [])
include mode outs

theorem runs_updFetch_end (done : e.j.nt ≤ e.j.i) :
    Runs (.updFetch l) s (s.shardEnd e e.j.smp.version.toNat (u8 e.j.entry 12) (u16 e.j.entry 14) false) := by
  rw [Runs, exec, execUpdFetch]
  refine h.onDev_withUpd mode ?_
  simp only [UpdEnv.noneWait outs, Nat.not_lt.2 done, Bool.false_eq_true, if_false]

section
variable (more : e.j.i < e.j.nt) (ready : rdSlots e.c.stall (s.loom l.val) [e.masterAt e.j.i] = .ready)
include more ready

theorem runs_updFetch_current (same : e.behind (s.loom l.val) = 0) : Runs (.updFetch l) s (s.fetchTile e) := by
  rw [UpdEnv.behind] at same
  rw [Runs, exec, execUpdFetch]
  refine h.onDev_withUpd mode ?_
  simp only [UpdEnv.noneWait outs, more, ready, same, Dev.guardSlots, Bool.false_eq_true, if_false, if_true]
  rw [← h.loom]
  rfl

theorem runs_updFetch_older (behind : 0 < e.behind (s.loom l.val)) (older : e.behind (s.loom l.val) < 32768) :
    Runs (.updFetch l) s ((s.setLoom l.val (readDone (s.loom l.val) (e.masterAt e.j.i))).count l.val 43 1) := by
  rw [UpdEnv.behind] at behind older
  rw [Runs, exec, execUpdFetch]
  refine h.onDev_withUpd mode ?_
  simp only [UpdEnv.noneWait outs, more, ready, Nat.not_le.2 older, Nat.ne_of_gt behind, Dev.guardSlots, Bool.false_eq_true,
    ne_eq, not_false_eq_true, if_false, if_true]
  rfl

theorem runs_updFetch_newer (newer : 32768 ≤ e.behind (s.loom l.val)) :
    Runs (.updFetch l) s (s.faultLoom l.val 5 0 0 0 e.j.smp.op) := by
  rw [UpdEnv.behind] at newer
  rw [Runs, exec, execUpdFetch]
  refine h.onDev_withUpd mode ?_
  simp only [UpdEnv.noneWait outs, more, ready, newer, Dev.guardSlots, Bool.false_eq_true, if_false, if_true]
  rfl

end
end
end

/-! ### Each clause of a step -/

/-- The command takes the shard on to `j`, by work of its loom alone. -/
def UpdGoes (i : Instr) (s : State) (l : LoomId) (j : UpdJob) : Prop :=
  ∃ d, Runs i s d ∧ (d.loom l.val).upd = some j ∧ s.loomsOnly d ∧ s.otherLooms d l.val

/-- The command ends the shard, its tile writes being acknowledged, once its entry can be written. -/
def UpdEnds (i : Instr) (s : State) (l : LoomId) (e : UpdEnv) (published flags skips : Nat) (measured : Bool) : Prop :=
  e.acked (s.loom l.val) = true → ∀ (u : Unit) (s1 : Dev),
    s.tierWrite e.c.stall e.c.src none false e.j.va (e.entryBytes published flags skips measured) = .ok u s1 →
    ∃ d, Runs i s d ∧ (d.loom l.val).upd = none ∧ d.mem = s1.mem ∧ (d.loom l.val).updFlags = BitVec.ofNat 8 flags

section
variable {s : State} {l : LoomId} {e : UpdEnv} (h : s.toDev.UpdAt l.val e)
include h

theorem Dev.UpdAt.goes {i : Instr} {d : Dev} {j : UpdJob} {ns : List Nat} (run : Runs i s d) (upd : (d.loom e.c.l).upd = some j)
    (work : LoomWork e.c.l ns s.toDev d) : UpdGoes i s l j := by
  rw [h.loom] at upd work
  exact ⟨d, run, upd, work.loomsOnly, work.otherLooms⟩

theorem Dev.UpdAt.ends {i : Instr} {published flags skips : Nat} {measured : Bool}
    (run : Runs i s (s.shardEnd e published flags skips measured)) : UpdEnds i s l e published flags skips measured := by
  intro acked u s1 wrote
  rw [← h.loom] at acked ⊢
  exact ⟨_, run, Dev.shardEnd_ends acked wrote⟩

theorem updWaiting_steps {i : Instr} (step : e.j.mode = 0 ∧ i = .updApply l ∨ e.j.mode = 2 ∧ i = .updFetch l) (waiting : e.j.outs ≠ []) :
    ((s.loom l.val).canTake e.c 3 e.j.outs → ∃ d, Runs i s d ∧ (d.loom l.val).upd = some { e.j with outs := [] } ∧
      (d.loom l.val).took e.c e.j.outs ∧ s.loomsOnly d ∧ s.otherLooms d l.val) ∧
    ((s.loom l.val).mustWait e.c 3 e.j.outs → UpdGoes i s l e.j) := by
  obtain ⟨conv, run⟩ := runs_updFlush h step waiting
  rw [← h.loom]
  refine ⟨fun can => ?_, fun wait => ?_⟩
  · obtain ⟨work, upd, took⟩ := Dev.updFlush_takes conv can
    exact ⟨_, run, upd, took, work.loomsOnly, work.otherLooms⟩
  · rw [Dev.updFlush_waits conv wait] at run
    exact h.goes run (Dev.setUpd_upd ..) (Dev.setUpd_work ..)

theorem updApply_pass1 (mode : e.j.mode = 0) (outs : e.j.outs = []) (pass : e.j.pass = 1) (more : e.j.i < e.j.nt)
    (ready : rdSlots e.c.stall (s.loom l.val) [e.slot (updTG e.w) e.j.i] = .ready) :
    UpdGoes (.updApply l) s l (pass1Tile e (s.loom l.val) s.freeCtr).1 := by
  have run := runs_updApply_pass1 h mode outs pass more ready
  rw [← h.loom]
  exact h.goes run (s.updPass1_upd e) (s.updPass1_work e)

theorem updApply_pass2 (mode : e.j.mode = 0) (outs : e.j.outs = []) (pass : e.j.pass = 2) (more : e.j.i < e.j.nt)
    (ready : rdSlots e.c.stall (s.loom l.val) e.reads = .ready) : UpdGoes (.updApply l) s l { e.j with
      i := e.j.i + 1
      outs := (e.tiles (s.loom l.val) s.freeCtr).map (·.pend e.c.stall) ++
        if e.keeps then [e.copy (s.loom l.val) (updTR e.w + 8) e.j.i (e.slot (updTR e.w) e.j.i)] else [] } := by
  have run := runs_updApply_pass2 h mode outs pass more ready
  rw [← h.loom]
  exact h.goes run (s.updTile_upd e) (s.updTile_work e)

theorem updApply_skip (mode : e.j.mode = 0) (outs : e.j.outs = []) (pass : e.j.pass = 3) (more : e.j.i < e.j.nt)
    (ready : rdSlots e.c.stall (s.loom l.val) e.reads = .ready) : ∃ os, UpdGoes (.updApply l) s l { e.j with
      i := e.j.i + 1, outs := e.copy (s.loom l.val) (updTW e.w + 8) e.j.i (e.masterAt e.j.i) :: os } := by
  have run := runs_updApply_skip h mode outs pass more ready
  obtain ⟨os, upd⟩ := s.skipTile_upd e
  rw [← h.loom]
  exact ⟨os, h.goes run upd (s.skipTile_work e)⟩

theorem updApply_skipped (mode : e.j.mode = 0) (outs : e.j.outs = []) (pass : e.j.pass = 3) (done : e.j.nt ≤ e.j.i) :
    UpdEnds (.updApply l) s l e e.j.smp.version.toNat e.j.flags (min (u16 e.j.entry 14 + 1) 65535) true := by
  intro acked u s1 wrote
  have run := runs_updApply_skipped h mode outs pass done
  rw [← h.loom] at acked run ⊢
  obtain ⟨idle, mem, flags⟩ := Dev.shardEnd_ends acked wrote
  dsimp only at run
  rw [idle, Option.isNone_none, if_pos rfl] at run
  exact ⟨_, run, idle, mem, flags⟩

theorem updMeasure_tile (mode : e.j.mode = 1) (more : e.j.i < e.j.nt)
    (ready : rdSlots e.c.stall (s.loom l.val) [e.slot (updTG e.w) e.j.i] = .ready) :
    UpdGoes (.updMeasure l) s l (pass1Tile e (s.loom l.val) s.freeCtr).1 := by
  have run := runs_updMeasure_tile h mode more ready
  rw [← h.loom]
  exact h.goes run ((Dev.readTiles_upd ..).trans (s.updPass1_upd e)) ((s.updPass1_work e).readTiles (by decide) _)

theorem updFetch_current (mode : e.j.mode = 2) (outs : e.j.outs = []) (more : e.j.i < e.j.nt)
    (ready : rdSlots e.c.stall (s.loom l.val) [e.masterAt e.j.i] = .ready) (same : e.behind (s.loom l.val) = 0) :
    ∃ q, UpdGoes (.updFetch l) s l { e.j with
      i := e.j.i + 1, outs := [e.copy (s.loom l.val) (updTW e.w + 8) e.j.i (e.masterAt e.j.i), q] } := by
  have run := runs_updFetch_current h mode outs more ready same
  rw [← h.loom]
  exact ⟨_, h.goes run (s.fetchTile_upd e) (s.fetchTile_work e)⟩

end

/-- Settles O31: the issue by whether the run's header is held or read; the steps by the shard's mode and pass, with the tiles that
wait before them and the entry's write after them. -/
theorem parameterUpdates : Obligations.ParameterUpdates := by
  intro l s c ctx
  refine ⟨fun w d15 dw r b issues desc15 tw idle record whole inside mode next => ⟨?held, ?first⟩, fun j dw job live tw => ?steps⟩
  case held =>
    intro lrs s2 run read
    have head : s.ledgerHead c (s.loom l.val) r = .ok (heldHead lrs) s.toDev := Dev.ledgerHead_held run
    have begins := runs_upd head read issues desc15 tw idle record (heldHead_ok lrs) whole inside mode next
    rw [heldHead_lrs] at begins
    exact ⟨_, begins, Dev.updIssue_begins head read lrs⟩
  case first =>
    intro h s1 s2 first header formed read
    have head : s.ledgerHead c (s.loom l.val) r = .ok h s1 := (Dev.ledgerHead_first first).trans header
    exact ⟨_, runs_upd head read issues desc15 tw idle record formed whole inside mode next, Dev.updIssue_begins head read _⟩
  case steps =>
    have shard : s.toDev.UpdAt l.val { c := c, j := j, w := j.smp.w, dw := dw } := ⟨ctx, job, live, rfl, tw⟩
    refine ⟨fun i step waiting => updWaiting_steps shard step waiting, fun mode outs => ?apply,
      fun mode => ⟨updMeasure_tile shard mode, fun done => shard.ends (runs_updMeasure_end shard mode done)⟩, fun mode outs => ?fetch⟩
    case apply =>
      exact ⟨updApply_pass1 shard mode outs, runs_updApply_gate shard mode outs, updApply_pass2 shard mode outs,
        updApply_skip shard mode outs, fun pass done => shard.ends (runs_updApply_applied shard mode outs pass done),
        updApply_skipped shard mode outs⟩
    case fetch =>
      exact ⟨fun done => shard.ends (runs_updFetch_end shard mode outs done), fun more ready =>
        ⟨updFetch_current shard mode outs more ready, runs_updFetch_older shard mode outs more ready,
          runs_updFetch_newer shard mode outs more ready⟩⟩

end Sys2Proof.Machine
end

section
/-!
PROOFS. Granules of called-up and relocated blocks (R309 to R312): host writes that wait, the update of one block, the copy of a
granule, and the four commands.
-/
namespace Sys2Proof.Machine

/-! ### Host writes that wait -/

/-- With no host write waiting none lands. -/
theorem Dev.drainAll_eq {s : Dev} (landed : ∀ e ∈ s.hub.fns, e.2.wbuf = []) : s.drainAll = s := by
  refine List.foldlRecOn (motive := (· = s)) s.hub.fns _ rfl fun t same e mem => ?_
  rw [landed e mem, List.isEmpty_nil, if_pos rfl, same]

/-! ### One block -/

@[simp] theorem Dev.modBlock_mem (s : Dev) (k r b : Nat) (f : Block → Block) : (s.modBlock k r b f).mem = s.mem := rfl
@[simp] theorem Dev.modBlock_hub (s : Dev) (k r b : Nat) (f : Block → Block) : (s.modBlock k r b f).hub = s.hub := rfl
@[simp] theorem Dev.modBlock_looms (s : Dev) (k r b : Nat) (f : Block → Block) : (s.modBlock k r b f).looms = s.looms := rfl

@[simp] theorem Dev.modBlock_block_same (s : Dev) (k r b : Nat) (f : Block → Block) : (s.modBlock k r b f).block k r b = f (s.block k r b) := by
  rw [Dev.block, Dev.modBlock, Dev.modStall_stall_same, tmod, tget_tset_same]
  rfl

theorem Dev.modBlock_stall_other (s : Dev) {j k : Nat} (other : j ≠ k) (r b : Nat) (f : Block → Block) :
    (s.modBlock k r b f).stall j = s.stall j := by
  rw [Dev.modBlock, Dev.modStall_stall, if_neg other]

/-- Clearing a clear bit changes nothing. -/
theorem clrBit_of_clear {w : Nat} {v : BitVec w} {i : Nat} (clear : v.getLsbD i = false) : clrBit v i = v := by
  refine BitVec.eq_of_getLsbD_eq fun j inside => ?_
  rw [clrBit, BitVec.getLsbD_and, BitVec.getLsbD_not, BitVec.getLsbD_ofNat, Nat.testBit_two_pow]
  by_cases same : i = j
  · rw [← same, clear, Bool.false_and]
  · simp [same, inside]

/-! ### What a copy leaves -/

/-- `d` is `s` but for tiers and counters: what a copy of lines changes. -/
def CopyFrame (s d : Dev) : Prop := ∃ m u, d = { s with mem := m, units := u }

namespace CopyFrame
variable {s d e : Dev}

theorem refl (s : Dev) : CopyFrame s s := ⟨_, _, rfl⟩
theorem trans : CopyFrame s d → CopyFrame d e → CopyFrame s e := by
  rintro ⟨_, _, rfl⟩ ⟨_, _, rfl⟩; exact ⟨_, _, rfl⟩
theorem regAdd (h : CopyFrame s d) (i k : Nat) : CopyFrame s (d.regAdd i k) := h.trans ⟨_, _, rfl⟩
theorem count (h : CopyFrame s d) (u n k : Nat) : CopyFrame s (d.count u n k) := h.trans ⟨_, _, rfl⟩
theorem accept (h : CopyFrame s d) (src dst n b : Nat) : CopyFrame s (d.accept src dst n b) := by
  unfold Dev.accept
  split
  · exact h.trans ⟨_, _, rfl⟩
  · exact h
theorem stcWrite (h : CopyFrame s d) (k st ln : Nat) (v : List Byte) : CopyFrame s (d.stcWrite k st ln v) :=
  (((h.regAdd ..).accept ..).count ..).trans ⟨_, _, rfl⟩
theorem celWrite (h : CopyFrame s d) (k p ln off : Nat) (v : List Byte) : CopyFrame s (d.celWrite k p ln off v).2 := by
  unfold Dev.celWrite
  dsimp only
  split
  · exact ((h.regAdd ..).count ..).count ..
  · exact ((h.regAdd ..).count ..).trans ⟨_, _, rfl⟩

theorem pokeLine (h : CopyFrame s d) (k : Nat) (loc : Loc) (v : Option (List Byte)) : CopyFrame s (d.pokeLine k loc v) := by
  cases loc <;> cases v
  case store.none => exact h.trans ⟨_, _, rfl⟩
  case store.some => exact (h.trans ⟨_, _, rfl⟩).stcWrite ..
  case cellar.none => exact h.trans ⟨_, _, rfl⟩
  case cellar.some => exact h.celWrite ..

theorem hub (h : CopyFrame s d) : d.hub = s.hub := by obtain ⟨_, _, rfl⟩ := h; rfl
theorem looms (h : CopyFrame s d) : d.looms = s.looms := by obtain ⟨_, _, rfl⟩ := h; rfl
theorem stall (h : CopyFrame s d) (j : Nat) : d.stall j = s.stall j := by obtain ⟨_, _, rfl⟩ := h; rfl
theorem block (h : CopyFrame s d) (k r b : Nat) : d.block k r b = s.block k r b := by obtain ⟨_, _, rfl⟩ := h; rfl

end CopyFrame

/-! ### The copy of a granule, line by line -/

/-- A line read for a copy is a unit at its regulator and a read that its controller or port counts. -/
def Dev.copyRead (s : Dev) (k : Nat) : Loc → Dev
  | .store st _ => (s.regAdd (regStore st) k).count (storeKey st) 0 1
  | .cellar p _ => (s.regAdd (regCellar p) k).count (celKey p) 0 1

/-- The copy of one line. -/
def Dev.copyLine (s : Dev) (k : Nat) (src dst : Loc) : Dev := (s.copyRead k src).pokeLine k dst (s.peekLine src)

/-- The copy of the first `n` lines from offset `o` on. -/
def Dev.copyLines (s : Dev) (k : Nat) (src dst : Nat → Loc) (o n : Nat) : Dev :=
  (List.range n).foldl (fun t i => t.copyLine k (src (o + 64 * i)) (dst (o + 64 * i))) s

theorem Dev.copyGranule_eq (s : Dev) (k g : Nat) (src dst : Nat → Loc) :
    s.copyGranule k g src dst = s.copyLines k src dst (65536 * g) 1024 := rfl

theorem Dev.copyLines_succ (s : Dev) (k : Nat) (src dst : Nat → Loc) (o n : Nat) :
    s.copyLines k src dst o (n + 1) = (s.copyLines k src dst o n).copyLine k (src (o + 64 * n)) (dst (o + 64 * n)) := by
  rw [Dev.copyLines, List.range_succ, List.foldl_append, List.foldl_cons, List.foldl_nil]
  rfl

theorem Dev.copyRead_frame (s : Dev) (k : Nat) (src : Loc) : CopyFrame s (s.copyRead k src) := by
  cases src <;> exact ((CopyFrame.refl s).regAdd ..).count ..

theorem Dev.copyGranule_frame (s : Dev) (k g : Nat) (src dst : Nat → Loc) : CopyFrame s (s.copyGranule k g src dst) :=
  List.foldlRecOn (motive := CopyFrame s) _ _ (.refl s) fun t copied _ _ => (copied.trans (t.copyRead_frame k _)).pokeLine ..

/-! ### Lines copied from a port into Store -/

/-- Writing a range leaves the values that lie before it or after it. -/
theorem tgetRange_tsetRange_apart {α : Type} [DecidableEq α] (d : α) (t : Tab α) {i j n : Nat} {v : List α}
    (apart : i + n ≤ j ∨ j + v.length ≤ i) : tgetRange d (tsetRange d t j v) i n = tgetRange d t i n := by
  refine List.map_congr_left fun m hm => ?_
  have below := List.mem_range.1 hm
  rw [tget_tsetRange, if_neg (by omega)]

theorem Dev.copyRead_store (s : Dev) (k : Nat) (src : Loc) : (s.copyRead k src).mem.store = s.mem.store := by cases src <;> rfl
theorem Dev.copyRead_cellar (s : Dev) (k : Nat) (src : Loc) : (s.copyRead k src).mem.cellar = s.mem.cellar := by cases src <;> rfl
theorem Dev.copyRead_cellarPoison (s : Dev) (k : Nat) (src : Loc) : (s.copyRead k src).mem.cellarPoison = s.mem.cellarPoison := by
  cases src <;> rfl

theorem Dev.stcWrite_keepsCellar (s : Dev) (k st ln : Nat) (v : List Byte) :
    (s.stcWrite k st ln v).mem.cellar = s.mem.cellar ∧ (s.stcWrite k st ln v).mem.cellarPoison = s.mem.cellarPoison := by
  simp only [Dev.stcWrite, Dev.modMem, MemSt.modStack, Dev.count_mem, Dev.accept_mem, Dev.regAdd, Dev.regAdds, Dev.modReg, and_self]

/-- A line put into Store changes no Cellar line. -/
theorem Dev.pokeLine_keepsCellar (s : Dev) (k st a : Nat) (v : Option (List Byte)) :
    (s.pokeLine k (.store st a) v).mem.cellar = s.mem.cellar ∧ (s.pokeLine k (.store st a) v).mem.cellarPoison = s.mem.cellarPoison := by
  cases v with
  | none => exact ⟨rfl, rfl⟩
  | some line => exact Dev.stcWrite_keepsCellar ..

/-- A line put into Store is what its stack then holds, and no other line of the stack changes; without data none does. -/
theorem Dev.pokeLine_lineOfStore (s : Dev) (k st a ln : Nat) {v : Option (List Byte)} (whole : ∀ line, v = some line → line.length = 64) :
    lineOfStore (s.pokeLine k (.store st a) v).mem st ln =
      if ln = a / 64 then v.getD (lineOfStore s.mem st ln) else lineOfStore s.mem st ln := by
  cases v with
  | none => exact (ite_self _).symm
  | some line =>
    have size := whole line rfl
    unfold lineOfStore
    rw [Dev.pokeLine, Dev.stcWrite_store]
    split
    · next here => rw [here]; exact tgetRange_tsetRange 0 _ _ size
    · next elsewhere => exact tgetRange_tsetRange_apart 0 _ (by rw [size, storeKeyOf, storeKeyOf]; omega)

theorem Dev.peekLine_cellar_congr {s d : Dev} (cellar : d.mem.cellar = s.mem.cellar) (poison : d.mem.cellarPoison = s.mem.cellarPoison)
    (p a : Nat) : d.peekLine (.cellar p a) = s.peekLine (.cellar p a) := by
  unfold Dev.peekLine celPoisoned celLine
  rw [cellar, poison]

theorem Dev.peekLine_cellar_length {s : Dev} {p a : Nat} {line : List Byte} (read : s.peekLine (.cellar p a) = some line) : line.length = 64 := by
  rw [Dev.peekLine] at read
  split at read
  · cases read
  · cases read
    rw [celLine, tgetRange, List.length_map, List.length_range]

section
variable (s : Dev) (k p c st a o : Nat)

/-- Lines copied from a port into Store leave the Cellar. -/
theorem Dev.copyLines_keepsCellar (n : Nat) :
    (s.copyLines k (fun x => .cellar p (c + x)) (fun x => .store st (a + x)) o n).mem.cellar = s.mem.cellar ∧
    (s.copyLines k (fun x => .cellar p (c + x)) (fun x => .store st (a + x)) o n).mem.cellarPoison = s.mem.cellarPoison := by
  refine List.foldlRecOn (motive := fun d : Dev => d.mem.cellar = s.mem.cellar ∧ d.mem.cellarPoison = s.mem.cellarPoison) _ _ ⟨rfl, rfl⟩ ?_
  rintro t ⟨cellar, poison⟩ i -
  have kept := (t.copyRead k (.cellar p (c + (o + 64 * i)))).pokeLine_keepsCellar k st (a + (o + 64 * i)) (t.peekLine (.cellar p (c + (o + 64 * i))))
  rw [Dev.copyRead_cellar, Dev.copyRead_cellarPoison, cellar, poison] at kept
  exact kept

/-- Each of `n` lines copied from a port that can be read there stands in Store afterwards: the lines copied after it go elsewhere. -/
theorem Dev.copyLines_lineOfStore (n i : Nat) {line : List Byte} (copied : i < n) (read : s.peekLine (.cellar p (c + (o + 64 * i))) = some line) :
    lineOfStore (s.copyLines k (fun x => .cellar p (c + x)) (fun x => .store st (a + x)) o n).mem st ((a + (o + 64 * i)) / 64) = line := by
  induction n with
  | zero => omega
  | succ n ih =>
    obtain ⟨cellar, poison⟩ := s.copyLines_keepsCellar k p c st a o n
    rw [Dev.copyLines_succ, Dev.copyLine, Dev.pokeLine_lineOfStore _ _ _ _ _ fun _ => Dev.peekLine_cellar_length,
      Dev.peekLine_cellar_congr cellar poison]
    rcases Nat.lt_succ_iff_lt_or_eq.1 copied with before | last
    · rw [if_neg (by omega), lineOfStore, Dev.copyRead_store]
      exact ih before
    · rw [← last, if_pos rfl, read, Option.getD_some]

end

theorem homeLoc_cellar {r : Region} (cellar : r.cellar = true) (m : MemSt) (b : Nat) (hp : Place) (x : Nat) :
    homeLoc m r b hp x = .cellar (celPortOf m r b) (frameSz * hp.frame + x) := by
  rw [homeLoc, if_pos cellar]

/-! ### A granule called up (R309) -/

/-- Granule `g` of a block is copied into guest frame `gf` of stack `gs` and becomes present, clean and still. -/
def Dev.callUpGranule (s : Dev) (k : Nat) (r : Region) (b g : Nat) (hp : Place) (gs gf : Nat) : Dev :=
  ((s.copyGranule k g (fun o => homeLoc s.mem r b hp o) fun o => .store gs (frameSz * gf + o)).count (celKey (celPortOf s.mem r b)) 2 1).modBlock
    k r.num b fun x => { x with present := setBit x.present g, dirty := clrBit x.dirty g, moving := tset .still x.moving g .still }

section
variable (s : Dev) (k : Nat) (r : Region) (b g : Nat) (hp : Place) (gs gf : Nat)

/-- Before its block's marks a called-up granule is a copy. -/
theorem Dev.callUpGranule_frame : ∃ t, CopyFrame s t ∧ s.callUpGranule k r b g hp gs gf = t.modBlock k r.num b fun x =>
    { x with present := setBit x.present g, dirty := clrBit x.dirty g, moving := tset .still x.moving g .still } :=
  ⟨_, (s.copyGranule_frame k g _ _).count .., rfl⟩

variable {r} (cellar : r.cellar = true)
include cellar

theorem Dev.callUpGranule_cellar : (s.callUpGranule k r b g hp gs gf).mem.cellar = s.mem.cellar := by
  rw [Dev.callUpGranule, Dev.modBlock_mem, Dev.count_mem, Dev.copyGranule_eq]
  simp only [homeLoc_cellar cellar]
  obtain ⟨kept, -⟩ := s.copyLines_keepsCellar k (celPortOf s.mem r b) (frameSz * hp.frame) gs (frameSz * gf) (65536 * g) 1024
  exact kept

theorem Dev.callUpGranule_lineOfStore {i : Nat} {line : List Byte} (inside : i < 1024)
    (read : s.peekLine (homeLoc s.mem r b hp (65536 * g + 64 * i)) = some line) :
    lineOfStore (s.callUpGranule k r b g hp gs gf).mem gs ((frameSz * gf + (65536 * g + 64 * i)) / 64) = line := by
  rw [homeLoc_cellar cellar] at read
  rw [Dev.callUpGranule, Dev.modBlock_mem, Dev.count_mem, Dev.copyGranule_eq]
  simp only [homeLoc_cellar cellar]
  exact s.copyLines_lineOfStore k _ _ gs (frameSz * gf) _ 1024 i inside read

end

/-! ### A granule written back (R310) -/

/-- The write-back of a granule copies it home and marks it clean. -/
theorem Dev.writeBack_frame {s : Dev} {k : Nat} {r : Region} {b : Nat} (home : (s.block k r.num b).home.isSome = true)
    (guest : (s.block k r.num b).guest.isSome = true) (g : Nat) :
    ∃ t, CopyFrame s t ∧ s.writeBack k r b g = t.modBlock k r.num b fun x => { x with dirty := clrBit x.dirty g } := by
  obtain ⟨hp, home⟩ := Option.isSome_iff_exists.1 home
  obtain ⟨⟨gs, gf⟩, guest⟩ := Option.isSome_iff_exists.1 guest
  unfold Dev.writeBack
  simp only [home, guest]
  exact ⟨_, (s.copyGranule_frame k g _ _).count .., rfl⟩

/-- A granule that is being written back is copied home if it is dirty. -/
def Dev.writeBackDirty (s : Dev) (k : Nat) (r : Region) (b g : Nat) : Dev :=
  if (s.block k r.num b).dirty.getLsbD g then s.writeBack k r b g else s

section
variable {s : Dev} {k : Nat} {r : Region} {b : Nat} (home : (s.block k r.num b).home.isSome = true)
  (guest : (s.block k r.num b).guest.isSome = true) (g : Nat)
include home guest

theorem Dev.writeBackDirty_block :
    (s.writeBackDirty k r b g).block k r.num b = { s.block k r.num b with dirty := clrBit (s.block k r.num b).dirty g } := by
  unfold Dev.writeBackDirty
  split
  · obtain ⟨t, copied, back⟩ := Dev.writeBack_frame home guest g
    rw [back, Dev.modBlock_block_same, copied.block]
  · next clean => rw [clrBit_of_clear (Bool.not_eq_true _ ▸ clean)]

theorem Dev.writeBackDirty_others :
    (s.writeBackDirty k r b g).looms = s.looms ∧ ∀ j, j ≠ k → (s.writeBackDirty k r b g).stall j = s.stall j := by
  unfold Dev.writeBackDirty
  split
  · obtain ⟨t, copied, back⟩ := Dev.writeBack_frame home guest g
    rw [back]
    exact ⟨copied.looms, fun j other => (t.modBlock_stall_other other ..).trans (copied.stall j)⟩
  · exact ⟨rfl, fun _ _ => rfl⟩

end

/-! ### The commands -/

section
variable {st : StallId} {region : BitVec 12} {block : BitVec 32} {s : State} {r : Region}
  (mapped : s.regionOf st.val region.toNat = some r)
include mapped

theorem runs_callupGranule {g gs gf : Nat} {hp : Place} (landed : ∀ e ∈ s.hub.fns, e.2.wbuf = [])
    (begun : (s.block st.val r.num block.toNat).waitPool = false)
    (next : (List.range 32).find? (fun g => tget .still (s.block st.val r.num block.toNat).moving g == .callingUp) = some g)
    (home : (s.block st.val r.num block.toNat).home = some hp) (guest : (s.block st.val r.num block.toNat).guest = some (gs, gf))
    (up : s.mem.portUp (celPortOf s.mem r block.toNat) = true) :
    Runs (.callupGranule st region block) s (s.callUpGranule st.val r block.toNat g hp gs gf) := by
  obtain ⟨t, copied, called⟩ := s.callUpGranule_frame st.val r block.toNat g hp gs gf
  have drained : (s.callUpGranule st.val r block.toNat g hp gs gf).drainAll = s.callUpGranule st.val r block.toNat g hp gs gf :=
    Dev.drainAll_eq (by rw [called, Dev.modBlock_hub, copied.hub]; exact landed)
  rw [Runs, exec, execCallupGranule]
  refine s.onDev_next _ _ ?_
  simp only [mapped, begun, next, home, guest, up, Bool.false_eq_true, if_false, if_true]
  exact congrArg _ drained

theorem runs_granuleWriteback {g : Fin 32} (moving : tget .still (s.block st.val r.num block.toNat).moving g.val = .writingBack)
    (up : s.mem.portUp (celPortOf s.mem r block.toNat) = true) :
    Runs (.granuleWriteback st region block g) s ((s.writeBackDirty st.val r block.toNat g.val).modBlock st.val r.num block.toNat fun x =>
      { x with moving := tset .still x.moving g.val .still }) := by
  rw [Runs, exec, execGranuleWriteback]
  refine s.onDev_next _ _ ?_
  simp only [mapped, moving, up, beq_self_eq_true, Bool.and_self, if_true]
  rfl

/-- A clean granule that is not its block's last present one becomes absent without a copy (R310). -/
theorem runs_granulePutDown {g : Fin 32} (landed : ∀ e ∈ s.hub.fns, e.2.wbuf = [])
    (moving : tget .still (s.block st.val r.num block.toNat).moving g.val = .puttingDown)
    (clean : (s.block st.val r.num block.toNat).dirty.getLsbD g.val = false)
    (more : clrBit (s.block st.val r.num block.toNat).present g.val ≠ 0) :
    Runs (.granulePutDown st region block g) s (s.modBlock st.val r.num block.toNat fun x =>
      { x with present := clrBit x.present g.val, dirty := clrBit x.dirty g.val, moving := tset .still x.moving g.val .still }) := by
  rw [Runs, exec, execGranulePutDown]
  refine s.onDev_next _ _ ?_
  simp only [mapped, moving, clean, more, beq_self_eq_true, Bool.false_and, Bool.not_false, Bool.true_or, Bool.and_self, Bool.false_eq_true,
    if_false, if_true, Dev.modBlock_block_same, false_and]
  have drained (f : Block → Block) := Dev.drainAll_eq (s := s.modBlock st.val r.num block.toNat f) landed
  split
  · exact congrArg _ (drained _)
  · exact congrArg _ (drained _)

/-- The copy of a granule to the block's fresh home, with more to follow (R312). -/
theorem runs_frameRelocate {hp fp : Place} {g : Nat} (landed : ∀ e ∈ s.hub.fns, e.2.wbuf = [])
    (home : (s.block st.val r.num block.toNat).home = some hp) (fresh : (s.block st.val r.num block.toNat).fresh = some fp)
    (store : r.cellar = false) (migrate : r.migrate = true) (retiring : onRetiring s.mem r block.toNat hp = true)
    (next : (List.range 32).find? (fun g => !(s.block st.val r.num block.toNat).moved.getLsbD g) = some g)
    (more : setBit (s.block st.val r.num block.toNat).moved g ≠ BitVec.allOnes 32) :
    ∃ t, CopyFrame s.toDev t ∧ Runs (.frameRelocate st region block) s (t.modBlock st.val r.num block.toNat fun x =>
      { x with fresh := some fp, moved := setBit x.moved g }) := by
  have copied := s.copyGranule_frame st.val g (fun o => homeLoc s.mem r block.toNat hp o) (fun o => homeLoc s.mem r block.toNat fp o)
  refine ⟨_, copied, ?_⟩
  rw [Runs, exec, execFrameRelocate]
  refine s.onDev_next _ _ ?_
  simp only [mapped, home, fresh, store, migrate, retiring, next, more, Bool.not_true, Bool.or_self, Bool.false_eq_true, if_false,
    Dev.modBlock_block_same, copied.block]
  exact congrArg _ (Dev.drainAll_eq (by rw [Dev.modBlock_hub, copied.hub]; exact landed))

end

/-- Settles O44: each command is a copy of lines, or none, followed by the update of one block. -/
theorem calledUpGranules : Obligations.CalledUpGranules := by
  intro st region block s r k b x mapped landed
  refine ⟨?callUp, ?writeBack, ?putDown, ?relocate⟩
  case callUp =>
    intro g gs gf hp begun cellar next home guest up
    obtain ⟨t, copied, called⟩ := s.callUpGranule_frame st.val r block.toNat g hp gs gf
    refine ⟨_, runs_callupGranule mapped landed begun next home guest up, ?_,
      fun i line inside read => s.callUpGranule_lineOfStore _ _ g hp gs gf cellar inside read, s.callUpGranule_cellar _ _ g hp gs gf cellar, ?_,
      fun j other => ?_⟩
    · rw [called, Dev.modBlock_block_same, copied.block]
    · rw [called, Dev.modBlock_looms, copied.looms]
    · rw [called, Dev.modBlock_stall_other _ other, copied.stall]
  case writeBack =>
    intro g moving up home guest
    obtain ⟨looms, stalls⟩ := Dev.writeBackDirty_others home guest g.val
    refine ⟨_, runs_granuleWriteback mapped moving up, ?_, looms, fun j other => ?_⟩
    · rw [Dev.modBlock_block_same, Dev.writeBackDirty_block home guest]
    · rw [Dev.modBlock_stall_other _ other, stalls j other]
  case putDown =>
    intro g moving clean more
    refine ⟨_, runs_granulePutDown mapped landed moving clean more, ?_, rfl, rfl⟩
    rw [Dev.modBlock_block_same, clrBit_of_clear clean]
  case relocate =>
    intro hp fp g home fresh store migrate retiring next more
    obtain ⟨t, copied, run⟩ := runs_frameRelocate mapped landed home fresh store migrate retiring next more
    refine ⟨_, run, ?_, copied.looms⟩
    rw [Dev.modBlock_block_same, copied.block, ← fresh]

end Sys2Proof.Machine
end

section
/-!
PROOFS. The scrub of a stack, a stack out of service, and the ports of the Cellar (R320, R323, R325, R326, R376).
-/
namespace Sys2Proof.Machine

/-! ### One stack -/

@[simp] theorem Dev.modMem_mem (s : Dev) (f : MemSt → MemSt) : (s.modMem f).mem = f s.mem := rfl

@[simp] theorem MemSt.modStack_stack_same (m : MemSt) (st : Nat) (f : StackSt → StackSt) : (m.modStack st f).stack st = f (m.stack st) :=
  tget_tset_same ..

theorem MemSt.modStack_stack_other (m : MemSt) {i st : Nat} (other : i ≠ st) (f : StackSt → StackSt) :
    (m.modStack st f).stack i = m.stack i := tget_tset_other _ _ _ _ _ other

/-! ### The scrub (R323) -/

/-- The scrub goes on to the next line, and after the last line to a new pass. -/
def StackSt.scrubNext (x : StackSt) : StackSt :=
  if x.scrubAt + 1 = 2 ^ 31 then { x with scrubAt := 0, passCe := [] } else { x with scrubAt := x.scrubAt + 1 }

theorem StackSt.scrubNext_scrubAt (x : StackSt) : x.scrubNext.scrubAt = if x.scrubAt + 1 = 2 ^ 31 then 0 else x.scrubAt + 1 := by
  rw [StackSt.scrubNext, apply_ite StackSt.scrubAt]

theorem StackSt.scrubNext_poison (x : StackSt) : x.scrubNext.poison = x.poison := by
  rw [StackSt.scrubNext, apply_ite StackSt.poison, ite_self]

/-- A read of the scrub is device traffic at its controller, which counts it and what a die reports. -/
def Dev.scrubRead (s : Dev) (st odecc : Nat) : Dev :=
  ((s.regAdd (regStore st) 96).count (storeKey st) 6 1).count (storeKey st) 3 odecc

theorem runs_scrubLine_clean {st : StackId} {s : State} (served : (s.mem.stack st.val).state = .inService) (odecc : Nat) :
    Runs (.scrubLine st .clean odecc) s ((s.scrubRead st.val odecc).modMem fun m => m.modStack st.val fun _ => (s.mem.stack st.val).scrubNext) := by
  rw [Runs, exec, execScrubLine]
  refine s.onDev_next _ _ ?_
  simp only [served, bne_self_eq_false, Bool.false_eq_true, if_false]
  rfl

/-! ### A module fault (R376) -/

theorem Dev.faultStall_faulted (s : Dev) (k c l : Nat) : ((s.faultStall k c l).stall k).faulted = true := by
  cases h : (s.stall k).faulted with
  | true => rw [Dev.faultStall, if_pos h, Dev.modStall_stall_same]; exact h
  | false =>
    obtain ⟨faulted, -⟩ := s.faultStall_latches k c l h
    exact faulted

/-- Stalls faulted one after another are all faulted, with those that were before. -/
theorem Dev.foldl_faultStall_faulted (ks : List Nat) (c l : Nat) {s : Dev} {k : Nat} (h : k ∈ ks ∨ (s.stall k).faulted = true) :
    ((ks.foldl (fun t i => t.faultStall i c l) s).stall k).faulted = true := by
  induction ks generalizing s with
  | nil => exact h.resolve_left List.not_mem_nil
  | cons i ks ih =>
    refine ih ?_
    by_cases here : k = i
    · exact .inr (here ▸ Dev.faultStall_faulted ..)
    · rw [Dev.faultStall_stall _ _ _ _ _ here]
      exact h.imp_left fun mem => (List.mem_cons.1 mem).resolve_left here

theorem Dev.moduleFault_faults {s : Dev} {p : DevPlan} (plan : s.hub.devPlan = some p) {r : StallRec} (mem : r ∈ p.stalls) :
    (s.moduleFault.stall r.stall).faulted = true := by
  unfold Dev.moduleFault
  rw [plan]
  exact Dev.foldl_faultStall_faulted _ 4 0 (.inl (List.mem_map_of_mem mem))

theorem Dev.moduleFault_marks (s : Dev) : s.moduleFault.hub.moduleFault = true := by
  obtain ⟨_, _, _, _, h⟩ := s.moduleFault_frame
  rw [h]
  rfl

theorem Dev.moduleFault_store (s : Dev) : s.moduleFault.mem.store = s.mem.store := by
  obtain ⟨_, _, _, _, h⟩ := s.moduleFault_frame
  rw [h]
  rfl

theorem Dev.moduleFault_stack (s : Dev) (st : Nat) : s.moduleFault.mem.stack st = s.mem.stack st := by
  obtain ⟨_, _, _, _, h⟩ := s.moduleFault_frame
  rw [h]
  rfl

/-! ### A stack out of service (R326) -/

/-- A stack is out of service, which is logged. -/
def Dev.stackLost (s : Dev) (st : Nat) : Dev :=
  (s.modMem fun m => m.modStack st fun x => { x with state := .out }).logEvent 0x0100 0x0013 255 3 [st]

theorem Dev.stackLost_mem (s : Dev) (st : Nat) : (s.stackLost st).mem = s.mem.modStack st fun x => { x with state := .out } := Dev.logEvent_mem ..

theorem Dev.stackLost_devPlan (s : Dev) (st : Nat) : (s.stackLost st).hub.devPlan = s.hub.devPlan := Dev.logEvent_devPlan ..

theorem runs_stackOut {st : StackId} {s : State} (served : (s.mem.stack st.val).state = .inService) :
    Runs (.stackOut st) s (s.stackLost st.val).moduleFault := by
  rw [Runs, exec, execStackOut]
  refine s.onDev_next _ _ ?_
  simp only [served]
  rfl

/-! ### The ports of the Cellar (R325) -/

/-- A port fails, which is logged. -/
def Dev.portLost (s : Dev) (p : Nat) : Dev :=
  (s.modMem fun m => { m with celState := tset .absent m.celState p .failed }).logEvent 0x0100 0x0013 255 3 [256 + p]

theorem Dev.portLost_mem (s : Dev) (p : Nat) : (s.portLost p).mem = { s.mem with celState := tset .absent s.mem.celState p .failed } :=
  Dev.logEvent_mem ..

theorem Dev.portLost_looms (s : Dev) (p : Nat) : (s.portLost p).looms = s.looms := Dev.logEvent_looms ..

theorem runs_cellarPortFail {p : CelPortId} {s : State} (up : s.mem.portUp p.val = true) :
    Runs (.cellarPortFail p) s (s.portLost p.val) := by
  rw [Runs, exec, execCellarPortFail]
  refine s.onDev_next _ _ ?_
  simp only [up, if_true]
  rfl

theorem runs_cellarPortRestore {p : CelPortId} {s : State} (failed : tget .absent s.mem.celState p.val = .failed) (core : s.coreUp 3 = true)
    (landed : ∀ e ∈ s.hub.fns, e.2.wbuf = []) :
    Runs (.cellarPortRestore p) s (s.modMem fun m => { m with celState := tset .absent m.celState p.val .inService }) := by
  rw [Runs, exec, execCellarPortRestore]
  refine s.onDev_next _ _ ?_
  simp only [failed, core, beq_self_eq_true, Bool.and_self, if_true]
  exact congrArg _ (Dev.drainAll_eq landed)

/-- Settles O45: the scrub by the update of its stack, a lost stack by the frame of a module fault, a port by its state. -/
theorem tierUnitEvents : Obligations.TierUnitEvents := by
  refine fun s => ⟨fun st n served => ⟨?scrub, ?out⟩, fun p => ⟨fun up => ?fail, runs_cellarPortRestore⟩⟩
  case scrub =>
    refine ⟨_, runs_scrubLine_clean served n, ?_, rfl, ?_, fun i other => MemSt.modStack_stack_other _ other _, rfl⟩
    · rw [Dev.modMem_mem, MemSt.modStack_stack_same, StackSt.scrubNext_scrubAt]
    · rw [Dev.modMem_mem, MemSt.modStack_stack_same, StackSt.scrubNext_poison]
  case out =>
    refine ⟨_, runs_stackOut served, ?_, Dev.moduleFault_marks _, ?_, fun p plan r faults => ?_⟩
    · rw [Dev.moduleFault_stack, Dev.stackLost_mem, MemSt.modStack_stack_same]
    · rw [Dev.moduleFault_store, Dev.stackLost_mem]
      rfl
    · exact Dev.moduleFault_faults ((s.stackLost_devPlan _).trans plan) faults
  case fail =>
    refine ⟨_, runs_cellarPortFail up, ?_, ?_, s.portLost_looms _⟩
    · rw [s.portLost_mem, tget_tset_same]
    · rw [s.portLost_mem]

end Sys2Proof.Machine
end

section
/-!
PROOFS. What the operations on links leave of each link's sequence and replay state and of memory (R339 to R342, R366).
-/
namespace Sys2Proof.Machine

/-! ### A link without its queues, credits and NAK -/

/-- A link's state, cause of DOWN, sequence numbers and replay buffer. -/
structure LinkCore where
  state : LinkState
  cause : BitVec 2
  txSeq : Nat
  rxSeq : Nat
  replay : List (Nat × Frame)

def LinkOne.core (x : LinkOne) : LinkCore := ⟨x.state, x.cause, x.txSeq, x.rxSeq, x.replay⟩

@[simp] theorem Dev.modLink_link_same (s : Dev) (i : Nat) (f : LinkOne → LinkOne) : (s.modLink i f).link i = f (s.link i) := tget_tset_same ..

theorem Dev.modLink_link_other (s : Dev) {i j : Nat} (other : j ≠ i) (f : LinkOne → LinkOne) : (s.modLink i f).link j = s.link j :=
  tget_tset_other _ _ _ _ _ other

/-- An update of a link changes regulators alone in memory. -/
theorem Dev.modLink_mem (s : Dev) (i : Nat) (f : LinkOne → LinkOne) : (s.modLink i f).mem = { s.mem with regs := (s.modLink i f).mem.regs } := rfl

theorem Dev.modLink_inbox (s : Dev) (i : Nat) (f : LinkOne → LinkOne) : (s.modLink i f).links.inbox = s.links.inbox := rfl

theorem MemSt.regsOnly_trans {m n k : MemSt} (h : n = { m with regs := n.regs }) (g : k = { n with regs := k.regs }) :
    k = { m with regs := k.regs } := by rw [g, h]

theorem queueOn_core (x : LinkOne) (f : Frame) (from_ : Option Nat) : (queueOn x f from_).core = x.core := by
  unfold queueOn
  repeat' split
  all_goals rfl

theorem Dev.accept_links (s : Dev) (src dst n b : Nat) : (s.accept src dst n b).links = s.links := by
  unfold Dev.accept; split <;> rfl

/-- `d` is `s` but for the queues, credits and NAKs of links: every link's core stands, and of memory only regulators change. -/
structure Queueing (s d : Dev) : Prop where
  core : ∀ j, (d.link j).core = (s.link j).core
  mem : d.mem = { s.mem with regs := d.mem.regs }

namespace Queueing
variable {s d e : Dev}

theorem refl (s : Dev) : Queueing s s := ⟨fun _ => rfl, rfl⟩

theorem trans (h : Queueing s d) (g : Queueing d e) : Queueing s e :=
  ⟨fun j => (g.core j).trans (h.core j), MemSt.regsOnly_trans h.mem g.mem⟩

theorem of_links (links : d.links.links = s.links.links) (mem : d.mem = { s.mem with regs := d.mem.regs }) : Queueing s d :=
  ⟨fun j => by rw [Dev.link, Dev.link, links], mem⟩

theorem regAdds (h : Queueing s d) (i k n : Nat) : Queueing s (d.regAdds i k n) := h.trans (.of_links rfl rfl)

theorem count (h : Queueing s d) (u n k : Nat) : Queueing s (d.count u n k) := h.trans (.of_links rfl rfl)

theorem modReg (h : Queueing s d) (i : Nat) (f : RegSt → RegSt) : Queueing s (d.modReg i f) := h.trans (.of_links rfl rfl)

theorem accept (h : Queueing s d) (src dst n b : Nat) : Queueing s (d.accept src dst n b) :=
  h.trans (.of_links (by rw [Dev.accept_links]) (by rw [Dev.accept_mem]))

theorem modLinks (h : Queueing s d) {f : LinkSt → LinkSt} (keeps : ∀ y, (f y).links = y.links := by exact fun _ => rfl) :
    Queueing s (d.modLinks f) :=
  h.trans (.of_links (keeps _) rfl)

theorem modLink (h : Queueing s d) (i : Nat) {f : LinkOne → LinkOne}
    (keeps : ∀ x, (f x).core = x.core := by intro _; unfold LinkOne.core; rfl) : Queueing s (d.modLink i f) :=
  h.trans ⟨fun j => by
    rw [Dev.modLink_link]
    split
    · next here => rw [keeps, here]
    · rfl, rfl⟩

theorem foldl {α : Type} (l : List α) {f : Dev → α → Dev} (h : Queueing s d) (step : ∀ t a, Queueing t (f t a)) : Queueing s (l.foldl f d) :=
  List.foldlRecOn (motive := Queueing s) l f h fun t ht a _ => ht.trans (step t a)

theorem state (h : Queueing s d) (j : Nat) : (d.link j).state = (s.link j).state := congrArg LinkCore.state (h.core j)
theorem cause (h : Queueing s d) (j : Nat) : (d.link j).cause = (s.link j).cause := congrArg LinkCore.cause (h.core j)
theorem txSeq (h : Queueing s d) (j : Nat) : (d.link j).txSeq = (s.link j).txSeq := congrArg LinkCore.txSeq (h.core j)
theorem rxSeq (h : Queueing s d) (j : Nat) : (d.link j).rxSeq = (s.link j).rxSeq := congrArg LinkCore.rxSeq (h.core j)
theorem replay (h : Queueing s d) (j : Nat) : (d.link j).replay = (s.link j).replay := congrArg LinkCore.replay (h.core j)

end Queueing

/-! ### Frames cross the ring and are queued or delivered -/

theorem Queueing.ringToken {s d : Dev} (h : Queueing s d) (k src n a b : Nat) : Queueing s (d.ringToken k src n a b) :=
  h.foldl (ringHops a b) fun t _ => (((((refl t).regAdds ..).accept ..).count ..).count ..)

theorem Dev.requeue_queueing (s : Dev) (p : Nat) (f : Frame) (from_ : Option Nat) : Queueing s (s.requeue p f from_) := by
  unfold Dev.requeue
  dsimp only
  exact ((Queueing.refl s).modLinks).modLink _ fun x => queueOn_core x f from_

theorem Dev.routeFrame_queueing {s d : Dev} {f : Frame} {k : Nat} {from_ : Option Nat} (h : s.routeFrame f k from_ = some d) : Queueing s d := by
  unfold Dev.routeFrame at h
  dsimp only at h
  split at h
  · cases h
  · split at h
    · cases h
    · cases h
      exact ((((Queueing.refl s).modLinks).ringToken ..).accept ..).modLink _ fun x => queueOn_core x _ from_

theorem Dev.landTile_queueing (s : Dev) (l : Nat) (t : Station) (f : Frame) (image : List Byte) : Queueing s (s.landTile l t f image) := by
  unfold Dev.landTile
  dsimp only
  repeat' split
  all_goals exact .of_links rfl rfl

/-- Whatever becomes of a delivered frame (R341, R342, R346, R357). -/
theorem Dev.deliverFrame_queueing (s : Dev) (f : Frame) (link : Nat) : Queueing s (s.deliverFrame f link) := by
  unfold Dev.deliverFrame
  extract_lets t key p s1
  have crossed : Queueing s t := by
    unfold t
    split
    · exact (Queueing.refl s).ringToken ..
    · exact .refl s
  have seen : Queueing t s1 := (Queueing.refl t).modLinks
  refine crossed.trans ?_
  split
  · exact (Queueing.refl t).modLinks
  split
  · exact .of_links rfl rfl
  split
  · exact (Queueing.refl t).count ..
  refine seen.trans ?_
  split
  · split
    · exact (Queueing.refl s1).count ..
    · split
      · exact ((Queueing.refl s1).modLinks).trans (Dev.landTile_queueing ..)
      · exact (Queueing.refl s1).modLinks
  · exact .refl s1

end Sys2Proof.Machine
end

section
/-!
PROOFS. One frame time of a link that is UP: which frame it carries, and what the link keeps of it (R337, R339, R345).
-/
namespace Sys2Proof.Machine

/-! ### The bytes of a frame on the wire (R337) -/

/-- The first byte of a frame, which holds its TYPE. -/
theorem wireBytes_frameBytes_u8_type (type : Nat) (f : Frame) (lseq lack : Nat) (nak : Bool) (crvc cred : Nat) :
    u8 (wireBytes (frameBytes type f lseq lack nak crvc cred)) 0 % 16 = type % 16 := by
  have head : u8 (wireBytes (frameBytes type f lseq lack nak crvc cred)) 0 =
      (type + 16 * b2n f.last + 32 * b2n f.minus + 64 * (f.vc % 4)) % 256 := rfl
  rw [head]
  omega

theorem wireBytes_frameBytes_u16_lseq (type : Nat) (f : Frame) (lseq lack : Nat) (nak : Bool) (crvc cred : Nat) :
    u16 (wireBytes (frameBytes type f lseq lack nak crvc cred)) 2 = lseq % 65536 := by
  have bytes : u16 (wireBytes (frameBytes type f lseq lack nak crvc cred)) 2 = lseq % 256 + 256 * (lseq / 256 % 256) := rfl
  rw [bytes]
  omega

/-- The payload follows the 24 bytes of the header. -/
theorem wireBytes_frameBytes_slice_payload (type : Nat) (f : Frame) (lseq lack : Nat) (nak : Bool) (crvc cred : Nat) :
    slice (wireBytes (frameBytes type f lseq lack nak crvc cred)) 24 (min f.payload.length 504) = f.payload.take 504 := by
  have body : ∃ rest, (wireBytes (frameBytes type f lseq lack nak crvc cred)).drop 24 = f.payload ++ rest :=
    ⟨_, by simp only [wireBytes, frameBytes, List.flatten_cons, List.append_assoc]; rfl⟩
  obtain ⟨rest, body⟩ := body
  rw [slice, body, List.take_append_of_le_length (Nat.min_le_left ..), Nat.min_comm, List.take_eq_take_min (i := 504)]

/-! ### A frame put on the wire -/

theorem Dev.emitFrame_out (s : Dev) (i type : Nat) (f : Frame) (lseq : Nat) :
    ∃ lack nak crvc cred, (s.emitFrame i type f lseq).out = s.out ++ [.frame i (wireBytes (frameBytes type f lseq lack nak crvc cred))] := by
  unfold Dev.emitFrame
  dsimp only
  split <;> exact ⟨_, _, _, _, rfl⟩

theorem Dev.emitFrame_looms (s : Dev) (i type : Nat) (f : Frame) (lseq : Nat) : (s.emitFrame i type f lseq).looms = s.looms := by
  unfold Dev.emitFrame
  dsimp only
  split <;> rfl

theorem Dev.emitFrame_queueing (s : Dev) (i type : Nat) (f : Frame) (lseq : Nat) : Queueing s (s.emitFrame i type f lseq) := by
  unfold Dev.emitFrame
  extract_lets x cr vc n s1 s2
  have told : Queueing s s1 := (Queueing.refl s).modLink i
  have sent : Queueing s s2 := told.trans (.of_links rfl rfl)
  split
  · exact sent
  · exact (sent.count ..).count ..

/-- Only the credits owed and the NAK of the link itself change. -/
theorem Dev.emitFrame_link_same (s : Dev) (i type : Nat) (f : Frame) (lseq : Nat) :
    ∃ owed naked, (s.emitFrame i type f lseq).link i = { s.link i with owed := owed, nak := false, naked := naked } := by
  unfold Dev.emitFrame
  extract_lets x cr vc n s1 s2
  have here := s.modLink_link_same i fun x => { x with owed := tmod 0 x.owed vc (· - 8 * n), nak := false, naked := x.naked || x.nak }
  split <;> exact ⟨_, _, here⟩

/-! ### A frame sent for the first time (R339) -/

/-- `d` is `s` after link `i` sent `g` for the first time: `g` is in the replay buffer under the next LSEQ, and the other links' cores
stand. -/
structure SentNew (i : Nat) (g : Frame) (s d : Dev) : Prop where
  replay : (d.link i).replay = (s.link i).replay ++ [((s.link i).txSeq, g)]
  txSeq : (d.link i).txSeq = ((s.link i).txSeq + 1) % 4096
  others : ∀ j, j ≠ i → (d.link j).core = (s.link j).core
  looms : d.looms = s.looms

theorem SentNew.modReg {i : Nat} {g : Frame} {s d : Dev} (h : SentNew i g s d) (r : Nat) (f : RegSt → RegSt) : SentNew i g s (d.modReg r f) :=
  ⟨h.replay, h.txSeq, h.others, h.looms⟩

theorem Dev.addUsage_link (s : Dev) (die k x n j : Nat) : (s.addUsage die k x n).link j = s.link j := rfl

theorem Dev.sendNew_link_same (s : Dev) (i : Nat) (f : Frame) :
    ∃ owed naked, (s.sendNew i f).link i = { s.link i with
      txSeq := ((s.link i).txSeq + 1) % 4096, replay := (s.link i).replay ++ [((s.link i).txSeq, f)], cursor := (s.link i).replay.length + 1,
      used := tmod 0 (s.link i).used f.vc (· + 1), owed := owed, nak := false, naked := naked } := by
  unfold Dev.sendNew
  extract_lets q s1 s2
  obtain ⟨owed, naked, sent⟩ := s2.emitFrame_link_same i (if f.ctl then 2 else 1) f q
  have charged : s2.link i = s1.link i := by unfold s2; split <;> rfl
  exact ⟨owed, naked, by rw [sent, charged, Dev.modLink_link_same]⟩

theorem Dev.sendNew_link_other (s : Dev) {i j : Nat} (other : j ≠ i) (f : Frame) : ((s.sendNew i f).link j).core = (s.link j).core := by
  unfold Dev.sendNew
  extract_lets q s1 s2
  have charged : s2.link j = s1.link j := by unfold s2; split <;> rfl
  rw [(s2.emitFrame_queueing ..).core, charged, Dev.modLink_link_other _ other]

theorem Dev.sendNew_looms (s : Dev) (i : Nat) (f : Frame) : (s.sendNew i f).looms = s.looms := by
  unfold Dev.sendNew
  dsimp only
  rw [Dev.emitFrame_looms]
  split <;> rfl

/-- Taking a frame from its queue first does not change what its sending leaves. -/
theorem Queueing.sendNew {s t : Dev} (h : Queueing s t) (looms : t.looms = s.looms) (i : Nat) (g : Frame) : SentNew i g s (t.sendNew i g) := by
  obtain ⟨owed, naked, sent⟩ := t.sendNew_link_same i g
  exact {
    replay := by rw [sent, ← h.replay, ← h.txSeq]
    txSeq := by rw [sent, ← h.txSeq]
    others := fun j other => (t.sendNew_link_other other g).trans (h.core j)
    looms := (t.sendNew_looms i g).trans looms }

theorem Dev.takeFwd_queueing (s : Dev) (i vc : Nat) (e : Frame × Nat) : Queueing s (s.takeFwd i vc e) := by
  unfold Dev.takeFwd
  extract_lets s1
  have taken : Queueing s s1 := (Queueing.refl s).modLink i
  split
  · exact taken.modLink ..
  · exact taken

theorem Dev.takeFwd_looms (s : Dev) (i vc : Nat) (e : Frame × Nat) : (s.takeFwd i vc e).looms = s.looms := by
  unfold Dev.takeFwd
  dsimp only
  split
  · rw [Dev.modLink_looms, Dev.modLink_looms]
  · rw [Dev.modLink_looms]

/-- A forwarded frame is taken and sent. -/
theorem Dev.takeFwd_sendNew (s : Dev) (i served next vc : Nat) (e : Frame × Nat) : SentNew i e.1 s
    (((s.takeFwd i vc e).modLink i fun x => { x with fwdServed := served, fwdVc := next }).sendNew i e.1) :=
  Queueing.sendNew (.modLink (s.takeFwd_queueing i vc e) i) ((Dev.modLink_looms ..).trans (s.takeFwd_looms ..)) i e.1

/-! ### The stall whose turn it is (R317, R345) -/

theorem nextStall_waits {r : RegSt} {w : Nat → Nat} {k : Nat} {fresh : Bool} (next : nextStall r w = some (k, fresh)) : 0 < tget 0 r.waiting k := by
  unfold nextStall at next
  dsimp only at next
  split at next
  · next found =>
    cases next
    have wants := List.find?_some found
    simp only [Bool.and_eq_true, decide_eq_true_eq] at wants
    exact wants.1.1
  · obtain ⟨_, found, same⟩ := Option.map_eq_some_iff.1 next
    cases same
    have wants := List.find?_some found
    simp only [Bool.and_eq_true, decide_eq_true_eq] at wants
    exact wants.1

theorem nextStall_eq_none {r : RegSt} (nothing : ∀ k, tget 0 r.waiting k = 0) (w : Nat → Nat) : nextStall r w = none := by
  cases next : nextStall r w with
  | none => rfl
  | some e =>
    have waits := nextStall_waits (k := e.1) (fresh := e.2) next
    exact absurd (nothing e.1) (Nat.ne_of_gt waits)

theorem nextStall_ne_none {r : RegSt} {w : Nat → Nat} {k : Nat} (stall : k < 96) (waits : 0 < tget 0 r.waiting k) (weight : 0 < w k) :
    nextStall r w ≠ none := by
  unfold nextStall
  dsimp only
  split
  · exact Option.some_ne_none _
  · intro none
    rw [Option.map_eq_none_iff, List.find?_eq_none] at none
    exact none k (List.mem_range.2 stall) (by simp only [waits, weight, decide_true, Bool.and_self])

/-- A unit for each stall whose first local frame has a credit, as the arbiter counts them. -/
def LinkOne.localUnits (x : LinkOne) : Tab Nat := x.loc.filterMap fun e => match e.2 with
  | f :: _ => if x.credit f then some (e.1, 1) else none
  | [] => none

theorem tget_eq_default_of_notMem {α : Type} (d : α) {t : Tab α} {k : Nat} (absent : ∀ e ∈ t, e.1 ≠ k) : tget d t k = d := by
  induction t with
  | nil => rfl
  | cons e t ih =>
    obtain ⟨here, rest⟩ := List.forall_mem_cons.1 absent
    rw [tget, if_neg (Ne.symm here), ih rest]

/-- A table filtered and mapped at each key by itself reads, at each key, as what its entry became. -/
theorem tget_filterMap {α β : Type} (a : α) (b : β) (f : α → Option β) {t : Tab α} (rising : t.Pairwise fun x y => x.1 < y.1)
    (default : f a = none) (k : Nat) : tget b (t.filterMap fun e => (f e.2).map (e.1, ·)) k = (f (tget a t k)).getD b := by
  induction t with
  | nil => simp only [List.filterMap_nil, tget, default, Option.getD_none]
  | cons e t ih =>
    obtain ⟨below, rising⟩ := List.pairwise_cons.1 rising
    have later : k = e.1 → tget b (t.filterMap fun e => (f e.2).map (e.1, ·)) k = b := by
      rintro rfl
      rw [ih rising, tget_eq_default_of_notMem a fun y hy => (Nat.ne_of_gt (below y hy)), default, Option.getD_none]
    rw [List.filterMap_cons]
    by_cases here : k = e.1
    · cases value : f e.2 with
      | none => simp only [Option.map_none, later here, tget, if_pos here, value, Option.getD_none]
      | some v => simp only [Option.map_some, tget, if_pos here, value, Option.getD_some]
    · cases value : f e.2 with
      | none => simp only [Option.map_none, ih rising, tget, if_neg here]
      | some v => simp only [Option.map_some, ih rising, tget, if_neg here]

/-- The unit of a stall's local queue: one where its first frame has a credit. -/
def LinkOne.localUnit (x : LinkOne) : List Frame → Option Nat
  | f :: _ => if x.credit f then some 1 else none
  | [] => none

theorem LinkOne.localUnits_tget (x : LinkOne) (wf : twf [] x.loc = true) (k : Nat) :
    tget 0 x.localUnits k = (x.localUnit (tget [] x.loc k)).getD 0 := by
  have units : x.localUnits = x.loc.filterMap fun e => (x.localUnit e.2).map (e.1, ·) := by
    refine congrArg (List.filterMap · x.loc) (funext fun e => ?_)
    obtain ⟨n, q⟩ := e
    cases q with
    | nil => rfl
    | cons f rest => simp only [LinkOne.localUnit]; split <;> rfl
  rw [units]
  exact tget_filterMap [] 0 x.localUnit ((twf_iff ..).1 wf).2 rfl k

theorem LinkOne.localUnits_pos {x : LinkOne} (wf : twf [] x.loc = true) {k : Nat} :
    0 < tget 0 x.localUnits k ↔ ∃ f rest, tget [] x.loc k = f :: rest ∧ x.credit f = true := by
  rw [x.localUnits_tget wf]
  cases tget [] x.loc k with
  | nil => exact ⟨fun waits => absurd waits (Nat.lt_irrefl 0), fun ⟨_, _, first, _⟩ => nomatch first⟩
  | cons f rest =>
    by_cases credit : x.credit f = true
    · have unit : x.localUnit (f :: rest) = some 1 := if_pos credit
      rw [unit]
      exact ⟨fun _ => ⟨f, rest, rfl, credit⟩, fun _ => Nat.one_pos⟩
    · have unit : x.localUnit (f :: rest) = none := if_neg credit
      rw [unit]
      refine ⟨fun waits => absurd waits (Nat.lt_irrefl 0), ?_⟩
      rintro ⟨_, _, first, enough⟩
      cases first
      exact absurd enough credit

theorem LinkOne.credit_iff {x : LinkOne} {f : Frame} : x.credit f = true ↔ tget 0 x.used f.vc < 64 := decide_eq_true_iff

theorem LinkOne.nextFwd_credit {x : LinkOne} {from_ vc : Nat} {e : Frame × Nat} (next : x.nextFwd from_ = some (vc, e)) : x.credit e.1 = true := by
  obtain ⟨c, -, found⟩ := List.exists_of_findSome?_eq_some next
  split at found
  · split at found
    · next credit => cases found; exact credit
    · cases found
  · cases found

theorem LinkOne.nextFwd_eq_none {x : LinkOne} (nothing : ∀ vc, tget [] x.fwd vc = []) (from_ : Nat) : x.nextFwd from_ = none := by
  unfold LinkOne.nextFwd
  rw [List.findSome?_eq_none_iff]
  intro vc _
  rw [nothing]

/-! ### The frame that a frame time carries (R345) -/

/-- The place in the replay buffer moves on. -/
def LinkOne.replayed (x : LinkOne) : LinkOne := { x with cursor := x.cursor + 1 }

theorem Dev.linkSend_replay {s : Dev} {i q : Nat} {f : Frame} (up : (s.link i).state = .up)
    (next : (s.link i).replay[(s.link i).cursor]? = some (q, f)) :
    s.linkSend i = (s.modLink i LinkOne.replayed).emitFrame i (if f.ctl then 2 else 1) f q := by
  unfold Dev.linkSend
  simp only [up, next, ne_eq, not_true_eq_false, if_false]
  rfl

theorem Dev.linkSend_ctl {s : Dev} {i : Nat} {f : Frame} (up : (s.link i).state = .up) (fresh : (s.link i).replay[(s.link i).cursor]? = none)
    (room : (s.link i).replay.length < 512) (ctl : (s.link i).ctl.find? (s.link i).credit = some f) :
    s.linkSend i = (s.modLink i fun x => { x with ctl := x.ctl.erase f }).sendNew i f := by
  unfold Dev.linkSend
  simp only [up, fresh, ctl, if_neg (Nat.not_le.2 room), ne_eq, not_true_eq_false, if_false]

theorem Dev.linkSend_idle {s : Dev} {i : Nat} (up : (s.link i).state = .up) (fresh : (s.link i).replay[(s.link i).cursor]? = none)
    (ctl : (s.link i).ctl = []) (loc : (s.link i).loc = []) (fwd : ∀ vc, tget [] (s.link i).fwd vc = []) :
    s.linkSend i = s.emitFrame i 0 idleFrame 0 := by
  have turn (r : RegSt) (w : Nat → Nat) : nextStall { r with waiting := [] } w = none := nextStall_eq_none (fun _ => rfl) w
  have relayed : (List.range 4).findSome? (fun vc => ((tget [] (s.link i).fwd vc).find? fun e => e.1.ctl && (s.link i).credit e.1).map
      fun e => (vc, e)) = none := List.findSome?_eq_none_iff.2 fun vc _ => by rw [fwd]; rfl
  unfold Dev.linkSend
  simp only [up, fresh, ctl, loc, relayed, turn, LinkOne.nextFwd_eq_none fwd, List.find?_nil, List.filterMap_nil, ne_eq, not_true_eq_false, if_false,
    ite_self]

/-- While a stall with a weight has a local frame with a credit, some frame with a credit is sent. -/
theorem Dev.linkSend_sends {s : Dev} {i : LinkId} (up : (s.link i.val).state = .up)
    (fresh : (s.link i.val).replay[(s.link i.val).cursor]? = none) (room : (s.link i.val).replay.length < 512)
    (wf : twf [] (s.link i.val).loc = true) {k : Nat} {f : Frame} {rest : List Frame} (waits : tget [] (s.link i.val).loc k = f :: rest)
    (credit : (s.link i.val).credit f = true) (stall : k < 96) (weight : 0 < s.weightAt (.link i) k) :
    ∃ g, (s.link i.val).credit g = true ∧ SentNew i.val g s (s.linkSend i.val) := by
  have turn (r : RegSt) : nextStall { r with waiting := (s.link i.val).localUnits } (s.weightAt (.link i)) ≠ none :=
    nextStall_ne_none stall ((LinkOne.localUnits_pos wf).2 ⟨f, rest, waits, credit⟩) weight
  have unit : RegUnit.link (Fin.ofNat 96 i.val) = .link i := congrArg _ (Fin.ext (Nat.mod_eq_of_lt i.isLt))
  unfold Dev.linkSend
  extract_lets x idle u r ks wsum ready loc goFwd goLoc
  have ownSent {k : Nat} {b : Bool} (next : loc = some (k, b)) : ∃ g, x.credit g = true ∧ SentNew i.val g s (goLoc k b) := by
    have waits : 0 < tget 0 x.localUnits k := nextStall_waits next
    obtain ⟨g, rest, first, credit⟩ := (LinkOne.localUnits_pos (x := x) wf).1 waits
    refine ⟨g, credit, ?_⟩
    simp only [goLoc, first]
    exact Queueing.sendNew (.modReg (.modLink (.refl s) _) _ _) ((Dev.modReg_looms ..).trans (Dev.modLink_looms ..)) _ _
  have passed {a b : Nat} {e : Frame × Nat} (next : x.nextFwd a = some (b, e)) (n : Nat) :
      ∃ g, x.credit g = true ∧ SentNew i.val g s (goFwd n b e) :=
    ⟨e.1, LinkOne.nextFwd_credit next, s.takeFwd_sendNew ..⟩
  have busy : loc ≠ none := by
    unfold loc u
    rw [unit]
    exact turn r
  rw [if_neg (fun down => down up)]
  clear_value loc goLoc
  split
  · next replayed => cases fresh.symm.trans replayed
  rw [if_neg (Nat.not_le.2 room)]
  split
  · next f found => exact ⟨f, List.find?_some found, Queueing.sendNew (.modLink (.refl s) _) (Dev.modLink_looms ..) _ _⟩
  split
  · next vc e found =>
    obtain ⟨c, -, found⟩ := List.exists_of_findSome?_eq_some found
    obtain ⟨e, found, same⟩ := Option.map_eq_some_iff.1 found
    cases same
    have credit := List.find?_some found
    exact ⟨e.1, (Bool.and_eq_true_iff.1 credit).2, (s.takeFwd_queueing ..).sendNew (s.takeFwd_looms ..) _ _⟩
  split
  · next vc e found =>
    have next : x.nextFwd x.fwdVc = some (vc, e) := by
      split at found
      · exact found
      · cases found
    exact passed next _
  · exact ownSent rfl
  · next found =>
    obtain ⟨g, credit, sent⟩ := passed found 1
    exact ⟨g, credit, sent.modReg ..⟩
  · exact ownSent rfl
  · exact absurd rfl busy

end Sys2Proof.Machine
end

section
/-!
PROOFS. The states of a link (R336, R340, R341).
-/
namespace Sys2Proof.Machine

theorem Dev.logEvent_link (s : Dev) (a b c d : Nat) (e : List Nat) (j : Nat) : (s.logEvent a b c d e).link j = s.link j := by
  rw [Dev.link, Dev.logEvent_links]; rfl

/-! ### The frames of a link that goes DOWN, or waits on a DOWN link, are queued again (R341) -/

/-- `d` is `s` after frames left links for the links of their flows: every link keeps its state and sequence numbers. -/
structure Spreading (s d : Dev) : Prop where
  core : ∀ j, ∃ kept, (d.link j).core = { (s.link j).core with replay := kept }
  looms : d.looms = s.looms
  mem : d.mem = { s.mem with regs := d.mem.regs }

namespace Spreading
variable {s d e : Dev}

theorem refl (s : Dev) : Spreading s s := ⟨fun _ => ⟨_, rfl⟩, rfl, rfl⟩

theorem trans (h : Spreading s d) (g : Spreading d e) : Spreading s e := by
  refine ⟨fun j => ?_, g.looms.trans h.looms, MemSt.regsOnly_trans h.mem g.mem⟩
  obtain ⟨kept, kept_eq⟩ := g.core j
  obtain ⟨before, before_eq⟩ := h.core j
  exact ⟨kept, by rw [kept_eq, before_eq]⟩

theorem state (h : Spreading s d) (j : Nat) : (d.link j).state = (s.link j).state := by
  obtain ⟨_, core⟩ := h.core j
  exact congrArg LinkCore.state core

theorem cause (h : Spreading s d) (j : Nat) : (d.link j).cause = (s.link j).cause := by
  obtain ⟨_, core⟩ := h.core j
  exact congrArg LinkCore.cause core

theorem txSeq (h : Spreading s d) (j : Nat) : (d.link j).txSeq = (s.link j).txSeq := by
  obtain ⟨_, core⟩ := h.core j
  exact congrArg LinkCore.txSeq core

theorem rxSeq (h : Spreading s d) (j : Nat) : (d.link j).rxSeq = (s.link j).rxSeq := by
  obtain ⟨_, core⟩ := h.core j
  exact congrArg LinkCore.rxSeq core

theorem count (h : Spreading s d) (u n k : Nat) : Spreading s (d.count u n k) := h.trans ⟨fun _ => ⟨_, rfl⟩, rfl, rfl⟩

theorem logEvent (h : Spreading s d) (a b c e : Nat) (data : List Nat) : Spreading s (d.logEvent a b c e data) :=
  h.trans ⟨fun j => ⟨_, by rw [Dev.logEvent_link]⟩, Dev.logEvent_looms .., by rw [Dev.logEvent_mem]⟩

end Spreading

/-- A link without its frames and credits. -/
def LinkOne.emptied (x : LinkOne) : LinkOne :=
  { x with replay := [], cursor := 0, replays := 0, ctl := [], fwd := [], loc := [], used := [], owed := [] }

theorem Dev.spread_queueing (s : Dev) (i : Nat) : Queueing (s.modLink i LinkOne.emptied) (s.spread i) := by
  unfold Dev.spread
  exact (Queueing.refl _).foldl _ fun t e => Dev.requeue_queueing ..

theorem Dev.spread_looms (s : Dev) (i : Nat) : (s.spread i).looms = s.looms := by
  unfold Dev.spread
  exact List.foldlRecOn (motive := fun d : Dev => d.looms = s.looms) _ _ rfl fun _ h _ _ => h

theorem Dev.spread_replay (s : Dev) (i : Nat) : ((s.spread i).link i).replay = [] := by
  rw [(s.spread_queueing i).replay, Dev.modLink_link_same, LinkOne.emptied]

theorem Spreading.spread {s d : Dev} (h : Spreading s d) (i : Nat) : Spreading s (d.spread i) := by
  refine h.trans ⟨fun j => ?_, d.spread_looms i, (d.spread_queueing i).mem⟩
  rw [(d.spread_queueing i).core]
  by_cases here : j = i
  · rw [here, Dev.modLink_link_same]
    exact ⟨[], rfl⟩
  · rw [Dev.modLink_link_other _ here]
    exact ⟨_, rfl⟩

/-! ### DOWN (R340) -/

theorem Dev.linkDown_spreading (s : Dev) (i cause : Nat) :
    Spreading (s.modLink i fun x => { x with state := .down, cause := BitVec.ofNat 2 cause }) (s.linkDown i cause) := by
  unfold Dev.linkDown
  exact (((Spreading.refl _).count ..).spread i).logEvent ..

theorem Dev.linkDown_state (s : Dev) (i cause : Nat) : ((s.linkDown i cause).link i).state = .down := by
  rw [(s.linkDown_spreading i cause).state, Dev.modLink_link_same]

theorem Dev.linkDown_cause (s : Dev) (i cause : Nat) : ((s.linkDown i cause).link i).cause = BitVec.ofNat 2 cause := by
  rw [(s.linkDown_spreading i cause).cause, Dev.modLink_link_same]

theorem Dev.linkDown_replay (s : Dev) (i cause : Nat) : ((s.linkDown i cause).link i).replay = [] := by
  unfold Dev.linkDown
  rw [Dev.logEvent_link, Dev.spread_replay]

theorem Dev.linkDown_looms (s : Dev) (i cause : Nat) : (s.linkDown i cause).looms = s.looms := (s.linkDown_spreading i cause).looms

theorem Dev.linkDown_mem (s : Dev) (i cause : Nat) : (s.linkDown i cause).mem = { s.mem with regs := (s.linkDown i cause).mem.regs } :=
  (s.linkDown_spreading i cause).mem

theorem runs_laneLockLoss {i : LinkId} {s : State} (up : (s.link i.val).state = .up) : Runs (.laneLockLoss i) s (s.linkDown i.val 3) := by
  rw [Runs, exec, execLaneLockLoss]
  exact s.onDev_next _ _ (congrArg _ (if_pos up))

theorem runs_linkTrainingTimeout {i : LinkId} {ms : Nat} {s : State} (long : 200 ≤ ms) (training : (s.link i.val).state = .training)
    (core : s.coreUp 3 = true) : Runs (.linkTrainingTimeout i ms) s (s.linkDown i.val 1) := by
  rw [Runs, exec, execLinkTrainingTimeout]
  exact s.onDev_next _ _ (congrArg _ (if_pos ⟨training, long, core⟩))

/-! ### TRAINING again (R340) -/

/-- A DOWN link of a named port trains. -/
def Dev.retrain (s : Dev) (i : Nat) : Dev :=
  if (s.link i).state = .down ∧ (s.axesNow.portUse (i % 12)).isSome then s.modLink i fun x => { x with state := .training } else s

theorem Dev.retrain_axesNow (s : Dev) (i : Nat) : (s.retrain i).axesNow = s.axesNow := by
  unfold Dev.retrain; split <;> rfl

theorem Dev.retrain_state (s : Dev) (i j : Nat) : ((s.retrain i).link j).state =
    if j = i ∧ (s.link j).state = .down ∧ (s.axesNow.portUse (j % 12)).isSome then .training else (s.link j).state := by
  unfold Dev.retrain
  by_cases down : (s.link i).state = .down ∧ (s.axesNow.portUse (i % 12)).isSome
  · rw [if_pos down, Dev.modLink_link]
    by_cases here : j = i
    · subst here
      rw [if_pos rfl, if_pos ⟨rfl, down⟩]
    · rw [if_neg here, if_neg fun h : _ ∧ _ => here h.1]
  · rw [if_neg down, if_neg]
    rintro ⟨rfl, h⟩
    exact down h

theorem Dev.foldl_retrain_state (is : List Nat) (s : Dev) (j : Nat) : ((is.foldl Dev.retrain s).link j).state =
    if j ∈ is ∧ (s.link j).state = .down ∧ (s.axesNow.portUse (j % 12)).isSome then .training else (s.link j).state := by
  induction is generalizing s with
  | nil => rw [if_neg fun h => List.not_mem_nil h.1, List.foldl_nil]
  | cons i is ih =>
    rw [List.foldl_cons, ih, Dev.retrain_state, Dev.retrain_axesNow]
    by_cases here : j = i
    · subst here
      by_cases down : (s.link j).state = .down ∧ (s.axesNow.portUse (j % 12)).isSome
      · rw [if_pos (c := _ ∧ _ ∧ _) ⟨List.mem_cons_self, down⟩]
        split
        · exact ite_self _
        · next h => exact absurd ⟨rfl, down⟩ h
      · simp only [down, and_false, if_false]
    · simp only [here, false_and, if_false, List.mem_cons, false_or]

theorem Dev.foldl_retrain_frame (is : List Nat) (s : Dev) :
    ∃ li rg, is.foldl Dev.retrain s = { s with links := li, mem := { s.mem with regs := rg } } := by
  refine List.foldlRecOn (motive := fun d : Dev => ∃ li rg, d = { s with links := li, mem := { s.mem with regs := rg } }) _ _ ⟨_, _, rfl⟩ ?_
  rintro _ ⟨li, rg, rfl⟩ i _
  unfold Dev.retrain
  split <;> exact ⟨_, _, rfl⟩

theorem runs_linkRetrain {ms : Nat} {s : State} (long : 1000 ≤ ms) (core : s.coreUp 3 = true) :
    Runs (.linkRetrain ms) s ((List.range 96).foldl Dev.retrain s.toDev) := by
  rw [Runs, exec, execLinkRetrain]
  exact s.onDev_next _ _ (if_pos ⟨long, core⟩)

/-! ### UP (R336, R340) -/

/-- A link that comes UP, its sequences at 0. -/
def LinkOne.fresh (x : LinkOne) : LinkOne :=
  { x with state := .up, txSeq := 0, rxSeq := 0, nak := false, naked := false, used := [], owed := [], replays := 0 }

/-- A link of a port takes the frames that wait on the port's links that are not UP. -/
def Dev.gather (s : Dev) (p : Nat) : Dev := (portLinks p).foldl (fun t j => if (t.link j).state = .up then t else t.spread j) s

theorem Dev.gather_spreading (s : Dev) (p : Nat) : Spreading s (s.gather p) := by
  refine List.foldlRecOn (motive := Spreading s) _ _ (.refl s) fun t h j _ => ?_
  split
  · exact h
  · exact h.spread j

theorem runs_linkUp {i : LinkId} {s : State} (training : (s.link i.val).state = .training) :
    ∃ d, Runs (.linkUp i) s d ∧ Spreading (s.modLink i.val LinkOne.fresh) d := by
  have gathered := Dev.gather_spreading (s.modLink i.val LinkOne.fresh) (i.val % 12)
  refine ⟨if (s.link i.val).cause = 0 then (s.modLink i.val LinkOne.fresh).gather (i.val % 12) else
    ((s.modLink i.val LinkOne.fresh).gather (i.val % 12)).logEvent (0x200 + i.val / 12) 0x0030 255 1 [i.val, 0], ?_, ?_⟩
  · rw [Runs, exec, execLinkUp]
    exact s.onDev_next _ _ (if_pos training)
  · split
    · exact gathered
    · exact gathered.logEvent ..

end Sys2Proof.Machine
end

section
/-!
PROOFS. A frame received on a link that is UP (R338 to R340, R347).
-/
namespace Sys2Proof.Machine

/-! ### LACK, credits, and the sends that ask again -/

/-- `d` is `s` after link `i` took a frame's LACK and credits: frames may have left its replay buffer. -/
structure Acked (i : Nat) (s d : Dev) : Prop where
  link : ∃ kept cursor replays used, (∀ e ∈ kept, e ∈ (s.link i).replay) ∧
    d.link i = { s.link i with replay := kept, cursor := cursor, replays := replays, used := used }
  others : ∀ j, j ≠ i → d.link j = s.link j
  inbox : d.links.inbox = s.links.inbox
  mem : d.mem = { s.mem with regs := d.mem.regs }

theorem Dev.takeAck_acked {s : Dev} {i : Nat} {b : List Byte} (noNak : bit (u16 b 4) 12 = false) : Acked i s (s.takeAck i b) := by
  unfold Dev.takeAck
  extract_lets x lack kept gone crvc s1 n s2
  rw [if_neg fun h => Bool.false_ne_true (noNak.symm.trans h.1)]
  exact ⟨⟨kept, _, _, _, fun e he => (List.mem_filter.1 he).1, s.modLink_link_same ..⟩, fun j other => s.modLink_link_other other _, rfl, rfl⟩

theorem Dev.retryWaits_frame (s : Dev) (i : Nat) : ∃ lo, s.retryWaits i = { s with looms := lo } := by
  refine List.foldlRecOn (motive := fun d : Dev => ∃ lo, d = { s with looms := lo }) _ _ ⟨_, rfl⟩ ?_
  rintro _ ⟨lo, rfl⟩ e _
  dsimp only
  repeat' split
  all_goals exact ⟨_, rfl⟩

/-- A sound frame has arrived, its LACK and credits taken. -/
def Dev.heard (s : Dev) (i n : Nat) (b : List Byte) : Dev := ((s.count (portKey (i % 12)) 5 n).takeAck i b).retryWaits i

theorem Dev.heard_acked {s : Dev} {i : Nat} {b : List Byte} (noNak : bit (u16 b 4) 12 = false) (n : Nat) : Acked i s (s.heard i n b) := by
  obtain ⟨link, others, inbox, mem⟩ := Dev.takeAck_acked (s := s.count (portKey (i % 12)) 5 n) (i := i) noNak
  obtain ⟨lo, frame⟩ := Dev.retryWaits_frame ((s.count (portKey (i % 12)) 5 n).takeAck i b) i
  rw [Dev.heard, frame]
  exact ⟨link, others, inbox, mem⟩

/-! ### Frames in order and out of order (R339) -/

/-- The receiver's LSEQ advances. -/
def LinkOne.advanced (x : LinkOne) : LinkOne := { x with rxSeq := (x.rxSeq + 1) % 4096, naked := false }

theorem Dev.takeFrame_inOrder {s : Dev} {i : Nat} {b : List Byte} (next : u16 b 2 % 4096 = (s.link i).rxSeq) :
    Queueing (s.modLink i LinkOne.advanced) (s.takeFrame i b) := by
  unfold Dev.takeFrame
  extract_lets x lseq f p s1 s2 free
  have counted : Queueing (s.modLink i LinkOne.advanced) s2 := (((Queueing.refl _).count ..).count ..)
  have freed {t : Dev} (h : Queueing (s.modLink i LinkOne.advanced) t) : Queueing (s.modLink i LinkOne.advanced) (free t) := h.modLink i
  rw [if_pos next]
  split
  · exact freed (counted.trans (Dev.deliverFrame_queueing ..))
  · split
    · next forwarded => exact (counted.trans (Dev.routeFrame_queueing forwarded)).count ..
    · exact freed counted

theorem Dev.takeFrame_gap {s : Dev} {i : Nat} {b : List Byte} (other : u16 b 2 % 4096 ≠ (s.link i).rxSeq)
    (ahead : (u16 b 2 % 4096 + 4096 - (s.link i).rxSeq) % 4096 < 2048) :
    s.takeFrame i b = s.modLink i fun x => { x with nak := x.nak || !x.naked } := by
  unfold Dev.takeFrame
  simp only [if_neg other, if_pos ahead]

theorem Dev.takeFrame_repeated {s : Dev} {i : Nat} {b : List Byte} (other : u16 b 2 % 4096 ≠ (s.link i).rxSeq)
    (behind : ¬(u16 b 2 % 4096 + 4096 - (s.link i).rxSeq) % 4096 < 2048) : s.takeFrame i b = s := by
  unfold Dev.takeFrame
  simp only [if_neg other, if_neg behind]

/-! ### LINK_FRAME_RX -/

/-- A frame that fails is answered with NAK (R338). -/
def LinkOne.failed (x : LinkOne) : LinkOne := { x with nak := true }

section
variable {i : LinkId} {s : State} {b : List Byte} (up : (s.link i.val).state = .up)
include up

theorem runs_linkFrameRx_uncorrectable :
    Runs (.linkFrameRx i .uncorrectable b) s ((s.count (portKey (i.val % 12)) 6 1).modLink i.val LinkOne.failed) := by
  rw [Runs, exec, execLinkFrameRx]
  exact s.onDev_next _ _ (if_neg (fun down => down up))

theorem runs_linkFrameRx_crcFail (n : Nat) : Runs (.linkFrameRx i (.crcFail n) b) s
    (((s.count (portKey (i.val % 12)) 5 n).count (portKey (i.val % 12)) 7 1).modLink i.val LinkOne.failed) := by
  rw [Runs, exec, execLinkFrameRx]
  exact s.onDev_next _ _ (if_neg (fun down => down up))

theorem runs_linkFrameRx_fails {rx : FrameRx} (bad : rx = .uncorrectable ∨ ∃ e, rx = .crcFail e) :
    ∃ d, Runs (.linkFrameRx i rx b) s d ∧ d.link i.val = (s.link i.val).failed ∧ (∀ j, j ≠ i.val → d.link j = s.link j) ∧
      d.looms = s.looms ∧ d.links.inbox = s.links.inbox := by
  obtain rfl | ⟨n, rfl⟩ := bad
  · refine ⟨_, runs_linkFrameRx_uncorrectable up, ?_, fun j other => ?_, ?_, ?_⟩
    · rw [Dev.modLink_link_same, Dev.count_link]
    · rw [Dev.modLink_link_other _ other, Dev.count_link]
    · rw [Dev.modLink_looms, Dev.count_looms]
    · rw [Dev.modLink_inbox, Dev.count_links]
  · refine ⟨_, runs_linkFrameRx_crcFail up n, ?_, fun j other => ?_, ?_, ?_⟩
    · rw [Dev.modLink_link_same, Dev.count_link, Dev.count_link]
    · rw [Dev.modLink_link_other _ other, Dev.count_link, Dev.count_link]
    · rw [Dev.modLink_looms, Dev.count_looms, Dev.count_looms]
    · rw [Dev.modLink_inbox, Dev.count_links, Dev.count_links]

theorem runs_linkFrameRx_good (noNak : bit (u16 b 4) 12 = false) (n : Nat) :
    Runs (.linkFrameRx i (.good n) b) s
      (if u8 b 0 % 16 = 1 ∨ u8 b 0 % 16 = 2 then (s.heard i.val n b).takeFrame i.val b else s.heard i.val n b) := by
  have still : ((s.heard i.val n b).link i.val).state = .up := by
    obtain ⟨⟨_, _, _, _, _, link⟩, -⟩ := Dev.heard_acked (s := s.toDev) (i := i.val) noNak n
    rw [link]
    exact up
  rw [Runs, exec, execLinkFrameRx]
  refine s.onDev_next _ _ ((if_neg (fun down => down up)).trans ?_)
  exact congrArg _ (ite_congr (propext (and_iff_right still)) (fun _ => rfl) fun _ => rfl)

/-- A sequenced frame under the LSEQ expected: whatever becomes of it, the LSEQ advances. -/
theorem runs_linkFrameRx_inOrder (noNak : bit (u16 b 4) 12 = false) (n : Nat) (sequenced : u8 b 0 % 16 = 1 ∨ u8 b 0 % 16 = 2)
    (next : u16 b 2 % 4096 = (s.link i.val).rxSeq) :
    ∃ d, Runs (.linkFrameRx i (.good n) b) s d ∧ (d.link i.val).rxSeq = ((s.link i.val).rxSeq + 1) % 4096 ∧ (d.link i.val).state = .up ∧
      d.mem = { s.mem with regs := d.mem.regs } := by
  obtain ⟨⟨_, _, _, _, _, link⟩, -, -, mem⟩ := Dev.heard_acked (s := s.toDev) (i := i.val) noNak n
  have taken := Dev.takeFrame_inOrder (s := s.heard i.val n b) (i := i.val) (b := b) (by rw [link, next])
  have runs := runs_linkFrameRx_good up noNak n
  rw [if_pos sequenced] at runs
  refine ⟨_, runs, ?_, ?_, ?_⟩
  · rw [taken.rxSeq, Dev.modLink_link_same, link, LinkOne.advanced]
  · rw [taken.state, Dev.modLink_link_same, link]
    exact up
  · exact MemSt.regsOnly_trans mem (MemSt.regsOnly_trans (Dev.modLink_mem ..) taken.mem)

/-- A sequenced frame under another LSEQ is discarded; where frames are missing before it, it sets NAK unless one was sent for them. -/
theorem runs_linkFrameRx_outOfOrder (noNak : bit (u16 b 4) 12 = false) (n : Nat) (sequenced : u8 b 0 % 16 = 1 ∨ u8 b 0 % 16 = 2)
    (other : u16 b 2 % 4096 ≠ (s.link i.val).rxSeq) :
    ∃ d, Runs (.linkFrameRx i (.good n) b) s d ∧ (d.link i.val).rxSeq = (s.link i.val).rxSeq ∧ (∀ j, j ≠ i.val → d.link j = s.link j) ∧
      ((u16 b 2 % 4096 + 4096 - (s.link i.val).rxSeq) % 4096 < 2048 → (s.link i.val).naked = false → (d.link i.val).nak = true) ∧
      d.links.inbox = s.links.inbox ∧ d.mem = { s.mem with regs := d.mem.regs } := by
  obtain ⟨⟨_, _, _, _, _, link⟩, others, inbox, mem⟩ := Dev.heard_acked (s := s.toDev) (i := i.val) noNak n
  have rxSeq : ((s.heard i.val n b).link i.val).rxSeq = (s.link i.val).rxSeq := by rw [link]
  have naked : ((s.heard i.val n b).link i.val).naked = (s.link i.val).naked := by rw [link]
  have runs := runs_linkFrameRx_good up noNak n
  rw [if_pos sequenced] at runs
  rw [← rxSeq] at other
  by_cases ahead : (u16 b 2 % 4096 + 4096 - ((s.heard i.val n b).link i.val).rxSeq) % 4096 < 2048
  · rw [Dev.takeFrame_gap other ahead] at runs
    refine ⟨_, runs, by rw [Dev.modLink_link_same, rxSeq], fun j ne => by rw [Dev.modLink_link_other _ ne, others j ne], fun _ first => ?_, inbox,
      MemSt.regsOnly_trans mem (Dev.modLink_mem ..)⟩
    · rw [Dev.modLink_link_same, naked, first, Bool.not_false, Bool.or_true]
  · rw [Dev.takeFrame_repeated other ahead] at runs
    exact ⟨_, runs, rxSeq, others, fun gap => absurd (rxSeq ▸ gap) ahead, inbox, mem⟩

end

/-! ### The obligation -/

/-- The links other than `i` keep what the protocol keeps. -/
theorem sequences_of_core {s d : Dev} {i : Nat} (h : ∀ j, j ≠ i → (d.link j).core = (s.link j).core) :
    ∀ j < 96, j ≠ i → (d.link j).state = (s.link j).state ∧ (d.link j).replay = (s.link j).replay ∧
      (d.link j).txSeq = (s.link j).txSeq ∧ (d.link j).rxSeq = (s.link j).rxSeq := fun j _ other =>
  have same := h j other
  ⟨congrArg LinkCore.state same, congrArg LinkCore.replay same, congrArg LinkCore.txSeq same, congrArg LinkCore.rxSeq same⟩

/-- A frame time of a link, by the link's arbiter or by its regulator. -/
theorem runs_linkSend {i : LinkId} {c : Instr} (frameTime : c = .linkArbitrate i ∨ c = .regulatorServe (.link i)) (s : State) :
    Runs c s (s.linkSend i.val) := by
  obtain rfl | rfl := frameTime
  · rw [Runs, exec, execLinkArbitrate]
    exact s.onDev_next _ _ rfl
  · rw [Runs, exec]
    unfold execRegulatorServe
    exact s.onDev_next _ _ rfl

/-- Settles O54: sending by the frame that a frame time carries, the states by what the spreading of frames leaves of a link, and
receiving by the frame's place in the LSEQ order. -/
theorem linkCommands : Obligations.LinkCommands := by
  intro i s x n others
  refine ⟨fun up c frameTime => ⟨fun q f next => ?replay, fun f fresh room ctl => ?control,
      fun k f rest fresh room wf waits credit stall weight => ?new, fun fresh ctl loc fwd => ?idle⟩,
    fun up => ?lockLoss, fun ms long training core => ?timeout, fun ms long core => ⟨_, runs_linkRetrain long core, ?frame, fun j => ?retrain⟩,
    fun training => ?linkUp, fun up b => ⟨fun rx bad => ?bad, fun e noNak =>
      ⟨fun sequenced inOrder => ?inOrder, fun sequenced other => ?other, fun idle => ?idleRx⟩⟩⟩
  case replay =>
    have runs := runs_linkSend frameTime s
    rw [Dev.linkSend_replay up next] at runs
    obtain ⟨_, _, _, _, out⟩ := (s.modLink i.val LinkOne.replayed).emitFrame_out i.val (if f.ctl then 2 else 1) f q
    obtain ⟨_, _, link⟩ := (s.modLink i.val LinkOne.replayed).emitFrame_link_same i.val (if f.ctl then 2 else 1) f q
    rw [Dev.modLink_link_same] at link
    have queueing : Queueing s.toDev (s.modLink i.val LinkOne.replayed) := (Queueing.refl s.toDev).modLink i.val
    have sent := queueing.trans (Dev.emitFrame_queueing _ i.val (if f.ctl then 2 else 1) f q)
    exact ⟨_, _, runs, out, wireBytes_frameBytes_slice_payload .., wireBytes_frameBytes_u16_lseq .., by rw [link, LinkOne.replayed],
      sent.replay _, sent.txSeq _, sequences_of_core fun j _ => sent.core j⟩
  case control =>
    have runs := runs_linkSend frameTime s
    rw [Dev.linkSend_ctl up fresh room ctl] at runs
    obtain ⟨_, _, link⟩ := (s.modLink i.val fun x => { x with ctl := x.ctl.erase f }).sendNew_link_same i.val f
    rw [Dev.modLink_link_same] at link
    have taken : Queueing s.toDev (s.modLink i.val fun x => { x with ctl := x.ctl.erase f }) := (Queueing.refl s.toDev).modLink i.val
    obtain ⟨replay, txSeq, other, looms⟩ := taken.sendNew (Dev.modLink_looms ..) i.val f
    exact ⟨_, runs, replay, txSeq, by rw [link, tmod, tget_tset_same], by rw [link], sequences_of_core other, looms⟩
  case new =>
    obtain ⟨g, credit, replay, txSeq, other, looms⟩ := Dev.linkSend_sends up fresh room wf waits credit stall weight
    exact ⟨_, g, runs_linkSend frameTime s, replay, txSeq, LinkOne.credit_iff.1 credit, sequences_of_core other, looms⟩
  case idle =>
    have runs := runs_linkSend frameTime s
    rw [Dev.linkSend_idle up fresh ctl loc fwd] at runs
    obtain ⟨_, _, _, _, out⟩ := s.emitFrame_out i.val 0 idleFrame 0
    have queueing := s.emitFrame_queueing i.val 0 idleFrame 0
    exact ⟨_, _, runs, out, wireBytes_frameBytes_u8_type .., queueing.replay _, queueing.txSeq _,
      sequences_of_core fun j _ => queueing.core j⟩
  case lockLoss =>
    exact ⟨_, runs_laneLockLoss up, Dev.linkDown_state .., Dev.linkDown_cause .., Dev.linkDown_replay .., Dev.linkDown_looms .., Dev.linkDown_mem ..⟩
  case timeout =>
    exact ⟨_, runs_linkTrainingTimeout long training core, Dev.linkDown_state .., Dev.linkDown_cause .., Dev.linkDown_looms .., Dev.linkDown_mem ..⟩
  case frame =>
    obtain ⟨_, _, frame⟩ := Dev.foldl_retrain_frame (List.range 96) s.toDev
    rw [frame]
  case retrain =>
    rw [Dev.foldl_retrain_state]
    simp only [List.mem_range, j.isLt, true_and]
  case linkUp =>
    obtain ⟨d, runs, spreading⟩ := runs_linkUp training
    refine ⟨d, runs, ?_, ?_, ?_, fun j _ other => ?_, spreading.looms, spreading.mem⟩
    · rw [spreading.state, Dev.modLink_link_same, LinkOne.fresh]
    · rw [spreading.txSeq, Dev.modLink_link_same, LinkOne.fresh]
    · rw [spreading.rxSeq, Dev.modLink_link_same, LinkOne.fresh]
    · rw [spreading.state, Dev.modLink_link_other _ other]
  case bad =>
    obtain ⟨d, runs, link, other, looms, inbox⟩ := runs_linkFrameRx_fails (b := b) up bad
    exact ⟨d, runs, link, sequences_of_core fun j ne => by rw [other j ne], looms, inbox⟩
  case inOrder => exact runs_linkFrameRx_inOrder up noNak e sequenced inOrder
  case other =>
    obtain ⟨d, runs, rxSeq, otherLinks, gap, inbox, mem⟩ := runs_linkFrameRx_outOfOrder up noNak e sequenced other
    exact ⟨d, runs, rxSeq, sequences_of_core fun j ne => by rw [otherLinks j ne], gap, inbox, mem⟩
  case idleRx =>
    obtain ⟨⟨kept, _, _, _, old, link⟩, otherLinks, inbox, mem⟩ := Dev.heard_acked (s := s.toDev) (i := i.val) noNak e
    have type : ¬(u8 b 0 % 16 = 1 ∨ u8 b 0 % 16 = 2) := by omega
    have runs := runs_linkFrameRx_good up noNak e
    rw [if_neg type] at runs
    exact ⟨_, runs, by rw [link], sequences_of_core fun j ne => by rw [otherLinks j ne], by rw [link]; exact old, inbox, mem⟩

end Sys2Proof.Machine
end

section
/-!
PROOFS. What a step of the block keeps of the meter: its store in order (R402, R403, R409, R416), its register (R389), and its
store as it is while the inhibit holds (R411).
-/
namespace Sys2Proof.Machine

/-! ### What the invariant and the two frames speak of -/

/-- The invariant of the store but for the seal: working values and banks in order, records at their places, room for a CLOSE. -/
def MeterSt.filed (m : MeterSt) : Bool :=
  m.work.ok && m.bank0.work.ok && m.bank1.work.ok && m.placed && (m.closing.isNone || decide (m.work.seq + 8 ≤ m.work.acked + 96))

/-- The seal's part of the invariant: a serving meter with a broken trace has SEAL_BROKEN set. -/
def MeterSt.sealKnown (m : MeterSt) : Bool := !(m.ready && m.traceBroken) || m.work.sealBroken

theorem MeterSt.ok_eq (m : MeterSt) : m.ok = (m.filed && m.sealKnown) := rfl

theorem MtrWork.ok_iff {w : MtrWork} : w.ok = true ↔ w.acked ≤ w.seq ∧ w.seq ≤ w.acked + 96 ∧ w.authKeys.length = 2 := by
  simp only [MtrWork.ok, Bool.and_eq_true, decide_eq_true_eq, beq_iff_eq, and_assoc]

/-- Working values that agree in sequence numbers and in the number of key slots are in order together. -/
theorem MtrWork.ok_congr {v w : MtrWork} (seq : v.seq = w.seq) (acked : v.acked = w.acked) (keys : v.authKeys.length = w.authKeys.length) :
    v.ok = w.ok := by
  simp only [MtrWork.ok, seq, acked, keys]

theorem MeterSt.filed_iff {m : MeterSt} : m.filed = true ↔ m.work.ok = true ∧ m.bank0.work.ok = true ∧ m.bank1.work.ok = true ∧ m.placed = true ∧
    (m.closing = none ∨ m.work.seq + 8 ≤ m.work.acked + 96) := by
  simp only [MeterSt.filed, Bool.and_eq_true, Bool.or_eq_true, decide_eq_true_eq, Option.isNone_iff_eq_none, and_assoc]

/-- `n` comes of `m` by steps of the meter that keep its invariant and its register, and while the inhibit holds also the inhibit
and the store. -/
structure MeterSt.Steady (m n : MeterSt) : Prop where
  filed : m.filed = true → n.filed = true
  sealKnown : m.sealKnown = true → n.sealKnown = true
  reg : n.work.reg = m.work.reg
  held : m.inhibit = true → n.inhibit = true ∧ n.records = m.records ∧ n.bank0 = m.bank0 ∧ n.bank1 = m.bank1

/-- All that `Steady` reads, but for the CLOSE under way. -/
def MeterSt.gist (m : MeterSt) : Bool × Tab (Option (Nat × List Byte)) × MtrBank × MtrBank × Bool × Bool × (Nat × Nat × Nat × Bool × Nat) :=
  (m.inhibit, m.records, m.bank0, m.bank1, m.ready, m.traceBroken, m.work.reg, m.work.seq, m.work.acked, m.work.sealBroken, m.work.authKeys.length)

/-- What the banks write agrees with the working values in register, sequence numbers, seal and keys. -/
theorem MeterSt.banked_gist (m : MeterSt) : m.banked.reg = m.work.reg ∧ m.banked.seq = m.work.seq ∧ m.banked.acked = m.work.acked ∧
    m.banked.sealBroken = m.work.sealBroken ∧ m.banked.authKeys = m.work.authKeys := by
  unfold banked
  split
  · split
    · exact ⟨rfl, rfl, rfl, rfl, rfl⟩
    · exact ⟨rfl, rfl, rfl, rfl, rfl⟩
  · exact ⟨rfl, rfl, rfl, rfl, rfl⟩

theorem MeterSt.banked_ok (m : MeterSt) : m.banked.ok = m.work.ok := by
  obtain ⟨-, seq, acked, -, keys⟩ := m.banked_gist
  exact MtrWork.ok_congr seq acked (congrArg List.length keys)

/-- A record put at the place of its number lies where R409 wants it. -/
theorem MeterSt.placed_put {m : MeterSt} (h : m.placed = true) (n : Nat) (b : List Byte) : (m.putRecord n b).placed = true := by
  simp only [placed, putRecord, List.all_eq_true] at h ⊢
  intro e he
  rw [tset, if_neg (Option.some_ne_none _)] at he
  obtain rfl | old := mem_tput _ _ _ _ he
  · exact beq_self_eq_true _
  · exact h e (mem_tdel.1 old).1

namespace MeterSt.Steady
variable {m n : MeterSt}

theorem refl (m : MeterSt) : m.Steady m := ⟨id, id, rfl, fun h => ⟨h, rfl, rfl, rfl⟩⟩

theorem trans {o : MeterSt} (h : m.Steady n) (g : n.Steady o) : m.Steady o := by
  refine ⟨g.filed ∘ h.filed, g.sealKnown ∘ h.sealKnown, g.reg.trans h.reg, fun i => ?_⟩
  obtain ⟨i, a, b, c⟩ := h.held i
  obtain ⟨i, a', b', c'⟩ := g.held i
  exact ⟨i, a'.trans a, b'.trans b, c'.trans c⟩

/-- A change of anything else, under which a CLOSE goes on or ends, is steady. -/
theorem of_gist (gist : n.gist = m.gist) (closing : n.closing.isSome = true → m.closing.isSome = true) : m.Steady n := by
  simp only [MeterSt.gist, Prod.mk.injEq] at gist
  obtain ⟨inhibit, records, bank0, bank1, ready, trace, reg, seq, acked, broken, keys⟩ := gist
  refine ⟨fun h => ?_, fun h => ?_, reg, fun h => ⟨inhibit.trans h, records, bank0, bank1⟩⟩
  · obtain ⟨work, b0, b1, places, room⟩ := filed_iff.1 h
    refine filed_iff.2 ⟨(MtrWork.ok_congr seq acked keys).trans work, bank0 ▸ b0, bank1 ▸ b1, ?_, ?_⟩
    · rw [placed, records]; exact places
    · rw [seq, acked]
      refine room.imp (fun none => ?_) id
      rw [none] at closing
      exact Option.not_isSome_iff_eq_none.1 fun some => nomatch closing some
  · rw [MeterSt.sealKnown, ready, trace, broken]; exact h

/-- A state write outside the inhibit: the bank takes over working values that are in order. -/
theorem writeState (h : m.Steady n) (free : n.inhibit = false) (clean ends : Bool) : m.Steady (n.writeState clean ends) := by
  refine h.trans ?_
  unfold MeterSt.writeState
  dsimp only
  split
  · refine ⟨fun f => ?_, id, rfl, fun i => nomatch free.symm.trans i⟩
    obtain ⟨work, -, b1, rest⟩ := filed_iff.1 f
    exact filed_iff.2 ⟨work, n.banked_ok.trans work, b1, rest⟩
  · refine ⟨fun f => ?_, id, rfl, fun i => nomatch free.symm.trans i⟩
    obtain ⟨work, b0, -, rest⟩ := filed_iff.1 f
    exact filed_iff.2 ⟨work, b0, n.banked_ok.trans work, rest⟩

/-- A record put under the next number, outside the inhibit and with no CLOSE under way any more, where a place was free. -/
theorem putRecord (h : m.Steady n) (free : n.inhibit = false) (idle : n.closing = none)
    (room : m.filed = true → n.work.seq < n.work.acked + 96) (b : List Byte) : m.Steady (n.putRecord (n.work.seq + 1) b) := by
  refine ⟨fun f => ?_, h.sealKnown, h.reg, fun i => nomatch free.symm.trans (h.held i).1⟩
  obtain ⟨work, b0, b1, places, -⟩ := filed_iff.1 (h.filed f)
  obtain ⟨acked, -, keys⟩ := MtrWork.ok_iff.1 work
  exact filed_iff.2 ⟨MtrWork.ok_iff.2 ⟨Nat.le_succ_of_le acked, room f, keys⟩, b0, b1, placed_put places _ b, .inl idle⟩

/-- An event written outside the inhibit and with no CLOSE under way. -/
theorem writeEvent (h : m.Steady n) (free : n.inhibit = false) (idle : n.closing = none) (code : Nat) (data : List Byte) :
    m.Steady (n.writeEvent code data) := by
  unfold MeterSt.writeEvent
  split
  · exact h.trans (of_gist rfl id)
  · next room =>
    rw [MtrWork.freePlaces] at room
    exact (h.putRecord free idle (fun _ => by omega) _).writeState free _ _

/-- An event, written or held. -/
theorem event (h : m.Steady n) (code : Nat) (data : List Byte) : m.Steady (n.event code data) := by
  unfold MeterSt.event
  split
  · exact h.trans (of_gist rfl id)
  · next free =>
    simp only [Bool.or_eq_true, not_or, Bool.not_eq_true, recordDue, Option.isSome_eq_false_iff, Option.isNone_iff_eq_none] at free
    exact h.writeEvent free.1 free.2 code data

end MeterSt.Steady

/-- An event written moves records, banks, counts of events and energies since a write: neither the inhibit nor a CLOSE. -/
theorem MeterSt.writeEvent_gates (m : MeterSt) (code : Nat) (data : List Byte) :
    (m.writeEvent code data).inhibit = m.inhibit ∧ (m.writeEvent code data).closing = m.closing := by
  unfold writeEvent writeState
  split
  · exact ⟨rfl, rfl⟩
  · dsimp only
    split
    · exact ⟨rfl, rfl⟩
    · exact ⟨rfl, rfl⟩

namespace MeterSt.Steady
variable {m n : MeterSt}

/-- The events that were held, written once nothing holds them. -/
theorem flushEvents (h : m.Steady n) : m.Steady n.flushEvents := by
  have writes (es : List (Nat × List Byte)) : ∀ {o : MeterSt}, m.Steady o → o.inhibit = false → o.closing = none →
      m.Steady (es.foldl (fun m e => m.writeEvent e.1 e.2) o) := by
    induction es with
    | nil => exact fun g _ _ => g
    | cons e es ih =>
      intro o g free idle
      obtain ⟨inhibit, closing⟩ := o.writeEvent_gates e.1 e.2
      exact ih (g.writeEvent free idle ..) (inhibit.trans free) (closing.trans idle)
  unfold MeterSt.flushEvents
  split
  · exact h
  · next free =>
    simp only [Bool.or_eq_true, not_or, Bool.not_eq_true, recordDue, Option.isSome_eq_false_iff, Option.isNone_iff_eq_none] at free
    exact writes _ (h.trans (of_gist rfl id)) free.1 free.2

/-- The interval cut for a waiting CLOSE. -/
theorem cutNow (h : m.Steady n) : m.Steady n.cutNow := by
  refine h.trans ?_
  unfold MeterSt.cutNow
  split
  · exact refl n
  · next waits =>
    split
    · exact refl n
    · exact of_gist rfl fun _ => by rw [waits]; rfl

/-- A poll cycle begun. -/
theorem beginCycle (h : m.Steady n) : m.Steady n.beginCycle := by
  refine h.trans ?_
  unfold MeterSt.beginCycle
  dsimp only
  split
  · exact of_gist rfl id
  · split
    · exact of_gist rfl id
    · exact of_gist rfl id

/-- A CLOSE that did not commit given up. -/
theorem unclose (h : m.Steady n) : m.Steady n.unclose := by
  obtain ⟨reg, seq, acked, broken, keys⟩ := n.banked_gist
  refine h.trans (of_gist ?_ fun some => nomatch some)
  simp only [gist, MeterSt.unclose, reg, seq, acked, broken, keys]

/-- A mailbox changed. -/
theorem setMbx (h : m.Steady n) (i : Nat) (x : Mbx) : m.Steady (n.setMbx i x) := by
  refine h.trans ?_
  unfold MeterSt.setMbx
  split
  · exact of_gist rfl id
  · exact of_gist rfl id

end MeterSt.Steady

/-! ### Steps of the block -/

/-- `t` comes of `s` with the queue of commands as it was, by steps under which the meter is steady. -/
structure State.Steady (s t : State) : Prop where
  pending : t.pending = s.pending
  meter : s.meter.Steady t.meter

namespace State.Steady
variable {s t : State}

theorem refl (s : State) : s.Steady s := ⟨rfl, .refl _⟩

theorem trans {u : State} (h : s.Steady t) (g : t.Steady u) : s.Steady u := ⟨g.pending.trans h.pending, h.meter.trans g.meter⟩

theorem modDev (h : s.Steady t) (f : Dev → Dev) : s.Steady (t.modDev f) := ⟨h.pending, h.meter⟩

/-- A further step of the meter, with whatever the module does beside it. -/
theorem move {u : State} (h : s.Steady t) (meter : t.meter.Steady u.meter) (pending : u.pending = t.pending := by rfl) : s.Steady u :=
  ⟨pending.trans h.pending, h.meter.trans meter⟩

theorem ite {c : Prop} [Decidable c] {u : State} (h : s.Steady t) (g : s.Steady u) : s.Steady (if c then t else u) := by
  split
  · exact h
  · exact g

/-- The state that a command of the module leaves, whatever it answers. -/
theorem nextOr_onDev (h : s.Steady t) (f : Dev → Host.Outcome Dev Fault Refusal) : s.Steady (nextOr t (t.onDev f)) := by
  unfold State.onDev
  split
  · exact h.move (.refl _)
  · exact h
  · exact h

theorem vendorReply (h : s.Steady t) (i : Nat) : s.Steady (t.vendorReply i) := by
  unfold State.vendorReply
  split
  · exact .ite (h.move (.of_gist rfl id)) h
  · exact h

theorem mbxEnd (h : s.Steady t) (i code : Nat) (resp : List Byte) : s.Steady (t.mbxEnd i code resp) := by
  refine vendorReply (t := State.modDev _ _) (h.move ?_) i
  exact (MeterSt.Steady.refl t.meter).setMbx ..

theorem dropUnknown (h : s.Steady t) (q : List (Nat × List Byte)) : s.Steady (t.dropUnknown q) := by
  induction q generalizing t with
  | nil => exact h
  | cons e q ih =>
    unfold State.dropUnknown
    refine .ite (ih (.mbxEnd (h.move ?_) ..)) h
    exact .of_gist rfl id

theorem newChallenge (h : s.Steady t) : s.Steady t.newChallenge := h.move (.of_gist rfl id)

theorem mbxGo (h : s.Steady t) (i len : Nat) : s.Steady (t.mbxGo i len) := by
  have queued (x : Mbx) (q : List (Nat × List Byte)) : t.meter.Steady { t.meter.setMbx i x with queue := q } :=
    ((MeterSt.Steady.refl _).setMbx ..).trans (.of_gist rfl id)
  unfold State.mbxGo
  refine .ite (h.mbxEnd ..) (.ite h (.ite (.dropUnknown (h.move ?_) _) (h.move ?_)))
  · exact queued ..
  · exact queued ..

theorem mtrRestart (h : s.Steady t) : s.Steady t.mtrRestart := by
  refine newChallenge (t := State.modMeter _ _) (h.move (.flushEvents ?_))
  exact (MeterSt.Steady.refl t.meter).unclose.trans (.of_gist rfl id)

end State.Steady
end Sys2Proof.Machine
end

section
/-!
PROOFS. Commands of the module leave the meter and the queue; every branch of every command answers a next state.
-/
namespace Sys2Proof

/-- The commands that may change the meter: register writes, losses of supply and the meter's own. -/
def Instr.metering : Instr → Bool
  | .registerWrite .. | .inputLoss _ | .vinPrsntBreak | .cartRemove | .meter .. | .meterPoll _ | .senseReply .. | .meterMap | .testPulse | .close
  | .meterRecordCommit | .ack | .enroll | .revoke | .verified | .read | .getCert | .meterStateWrite .. | .meterInhibitStart ..
  | .meterInhibitRelease .. | .meterPowerUp _ | .sealBreak _ | .meterFwLoad .. | .frontEndSample .. | .meterProcessorRestart
  | .verificationKeyEnrol _ => true
  | _ => false

/-- The commands that may move the register or the inhibited store: a sample, power-up, the cartridge's removal, and the inhibit's
release. -/
def Instr.unsteady : Instr → Bool
  | .frontEndSample .. | .meterPowerUp _ | .cartRemove | .meterInhibitRelease .. => true
  | _ => false

namespace Machine

/-- A host access answers a next module. -/
theorem Dev.host_answers (s k : Dev) : ∃ d, s.host k = .next d := ⟨_, s.host_eq k⟩

/-- So does the write of a command register. -/
theorem Dev.hostCmd_answers (s : Dev) (i : Nat) (k : Dev) : ∃ d, s.hostCmd i k = .next d := ⟨_, s.hostCmd_eq i k⟩

/-- So does an SPDM request. -/
theorem Dev.spdm_answers (s : Dev) (b : Binding) (req : List Byte) (k : Dev → Option (List Byte × Dev)) : ∃ d, s.spdm b req k = .next d := by
  unfold Dev.spdm
  split
  · exact ⟨_, rfl⟩
  · split
    · exact ⟨_, rfl⟩
    · exact ⟨_, rfl⟩

/-- So does a control message. -/
theorem Dev.takeMsg_answers (s : Dev) (op : Nat) (k : CtlMsg → Dev → Dev) : ∃ d, s.takeMsg op k = .next d := by
  unfold Dev.takeMsg
  split
  · exact ⟨_, rfl⟩
  · exact ⟨_, rfl⟩

/-- A command that is an effect on the module, which answers, leaves the meter and the queue. -/
theorem State.onDev_answers {o : Host.Outcome State Fault Refusal} {s : State} {f : Dev → Host.Outcome Dev Fault Refusal} (e : o = s.onDev f)
    (h : ∃ d, f s.toDev = .next d) : ∃ d, o = .next { s with toDev := d } := by
  obtain ⟨d, h⟩ := h
  exact ⟨d, e.trans (s.onDev_next f d h)⟩

/-- Every command but those of the meter answers a next state, and leaves the meter and the queue. -/
theorem exec_module (c : Instr) (s : State) (h : c.metering = false) : ∃ d, exec c s = .next { s with toDev := d } := by
  cases c
  all_goals dsimp only [exec]
  case accErrClear | attMissClear | bar0AccessError | bar4Read | bar4ReadTimeout | bar4Write | cdumpSelect | coldReset | excClear
      | functionLevelReset | fwActivate | hopperCountRead | hopperPop | hostfClear | hotReset | logSelect | pickOobClear | stcUeClear
      | tallyRequestPf | tallyRequestStall | tierFaultClear =>
    exact State.onDev_answers rfl (Dev.host_answers ..)
  case dplanLoad | dplanUnload | hopperDoorbell | planLoad | planUnload | quireAbort | quireCommit | quirePrepare | quireReconstruct
      | quireRestore | rosterRewrite =>
    exact State.onDev_answers rfl (Dev.hostCmd_answers ..)
  case challenge | chunkGet | getCapabilities | getCertificate | getDigests | getMeasurements | getVersion | negotiateAlgorithms =>
    exact State.onDev_answers rfl (Dev.spdm_answers ..)
  case req | grant | wait | stale | absent => exact State.onDev_answers rfl (Dev.takeMsg_answers ..)
  case pgePublish =>
    refine State.onDev_answers rfl ?_
    dsimp only
    split
    · exact Dev.hostCmd_answers ..
    · exact ⟨_, rfl⟩
  case cellarPortFail | cellarPortRestore | hostLinkReturn | linePartialWrite | lineReduce | linkRetrain | linkUp | powerLoopPeriod | runReached
      | stackOut | tapInstruction | tileAck | activateFirmware | crashDumpCopy | eventLogWrite | fwCommit | linkFrameRx | mctpControl
      | nvEarlyWarning | nvWriteComplete | phyTraining | pickLineArrive | regulationLoss | regulationTimeout | shelfAccess | storeLineAccess
      | weftBeatAccept =>
    refine State.onDev_answers rfl ?_
    repeat' split
    all_goals exact ⟨_, rfl⟩
  case bootVerify | callupGranule | capacityZeroComplete | cccExcService | completionPost | emergencyClear | emergencySet | faultNotify
      | frameRelocate | fwHandoverReady | fwRestartComplete | granulePutDown | granuleWriteback | nvInhibitRelease | planPlace | planRegions
      | planVerify | quarterFill | quireCommitComplete | quirePrepared | quireResumeCommit | quireStage | regulatorServe | rosterRewriteDone
      | routeEntryComplete | routeEntryStart | runComplete | runDispatch | scrubLine | slotClaim | slotGrant | slotRequest | spillRefill
      | tallyAbandon | tallyInject | tallyMarkerAccept | tallyReport | tierFetch | tierFollow | tierMigrate | tierWriteBack | tileArrive
      | tileReadComplete | tileSend | updateComponent | weightWithdraw =>
    refine State.onDev_answers rfl ?_
    dsimp only
    repeat' split
    all_goals exact ⟨_, rfl⟩
  case registerWrite | inputLoss | vinPrsntBreak | cartRemove | meter | meterPoll | senseReply | meterMap | testPulse | close | meterRecordCommit
      | ack | enroll | revoke | verified | read | getCert | meterStateWrite | meterInhibitStart | meterInhibitRelease | meterPowerUp | sealBreak
      | meterFwLoad | frontEndSample | meterProcessorRestart | verificationKeyEnrol =>
    exact nomatch h
  all_goals exact ⟨_, rfl⟩

end Machine
end Sys2Proof
end

section
/-!
PROOFS. Register writes and the meter's commands, one by one: each answers, keeps the queue and is steady for the meter.
-/
namespace Sys2Proof.Machine

/-! ### Register writes -/

namespace State.Steady
variable {s t : State}

theorem loomWrite (h : s.Steady t) (fn : FnId) (l a v : Nat) : s.Steady (t.loomWrite fn l a v) :=
  .ite (.ite (h.modDev _) h) (.ite (.ite (h.nextOr_onDev _) h) (.ite (.ite (h.nextOr_onDev _) h)
    (.ite (.ite (h.nextOr_onDev _) h) (.ite (.ite (h.nextOr_onDev _) h) h))))

theorem planWrite (h : s.Steady t) (fn : FnId) (p : PlanTarget) (a v : Nat) : s.Steady (t.planWrite fn p a v) := by
  unfold State.planWrite
  refine .ite ?_ (.ite (h.modDev _) (.ite (h.modDev _) h))
  cases p
  · exact .ite (h.nextOr_onDev _) (.ite (h.nextOr_onDev _) h)
  · exact .ite (h.nextOr_onDev _) (.ite (h.nextOr_onDev _) h)

theorem quireWrite (h : s.Steady t) (fn : FnId) (k : StallId) (a v hi : Nat) : s.Steady (t.quireWrite fn k a v hi) := by
  unfold State.quireWrite
  refine .ite (h.modDev _) (.ite ?_ (.ite (h.modDev _) h))
  split
  · exact h.nextOr_onDev _
  · exact h.nextOr_onDev _
  · exact h.nextOr_onDev _
  · exact h.nextOr_onDev _
  · exact h

/-- A write of a register that functions share, by the block that its offset lies in. -/
theorem sharedWrite (h : s.Steady t) (fn : FnId) (o v hi : Nat) : s.Steady (t.sharedWrite fn o v hi) := by
  unfold State.sharedWrite
  refine .ite (h.nextOr_onDev _) ?_
  split
  · exact .ite (h.nextOr_onDev _) h
  split
  · exact h.planWrite ..
  split
  · exact .ite (h.nextOr_onDev _) (.ite (h.modDev _) h)
  split
  · exact h.modDev _
  refine .ite (h.modDev _) ?_
  split
  · exact .ite (h.modDev _) h
  split
  · exact .ite (h.nextOr_onDev _) h
  split
  · exact .ite (h.nextOr_onDev _) h
  split
  · exact h.quireWrite ..
  split
  · split
    · exact .ite h (h.loomWrite ..)
    · exact h
  · exact h

/-- A write by the physical function: the meter's mailbox takes a command or bytes of one, and no more of the meter changes. -/
theorem pfWrite (h : s.Steady t) (fn : FnId) (o v hi : Nat) : s.Steady (t.pfWrite fn o v hi) := by
  unfold State.pfWrite
  refine .ite (h.modDev _) (.ite (modDev (.ite (h.nextOr_onDev _) h) _) (.ite (h.modDev _) (.ite (h.modDev _) (.ite (h.planWrite ..)
    (.ite (.ite ((h.modDev _).nextOr_onDev _) (h.modDev _)) (.ite (h.modDev _) (.ite (.ite ((h.modDev _).nextOr_onDev _) (h.modDev _))
    (.ite (h.modDev _) (.ite (.ite (h.modDev _) h) (.ite (h.modDev _) (.ite (h.modDev _) (.ite (.ite (h.mbxGo ..) h)
    (.ite (h.move (.of_gist rfl id)) ?_)))))))))))))
  split
  · exact h.modDev _
  split
  · exact .ite (h.nextOr_onDev _) h
  · exact h.sharedWrite ..

theorem dwordWrite (h : s.Steady t) (fn : FnId) (o v hi : Nat) : s.Steady (t.dwordWrite fn o v hi) :=
  .ite (h.pfWrite ..) (.ite (h.sharedWrite ..) (h.modDev _))

end State.Steady

/-- A register write of the host. -/
theorem execRegisterWrite_steady (fn : FnId) (off : BitVec 26) (eight : Bool) (v : W64) (s : State) :
    ∃ t, execRegisterWrite fn off eight v s = .next t ∧ s.Steady t := by
  have refl := State.Steady.refl s
  unfold execRegisterWrite
  by_cases aligned : off.toNat % (if eight = true then 8 else 4) ≠ 0
  · rw [if_pos aligned]
    exact ⟨_, s.onDev_host _, refl.move (.refl _)⟩
  · rw [if_neg aligned]
    split
    · exact ⟨_, rfl, refl⟩
    · exact ⟨_, rfl, .ite refl (.ite ((refl.dwordWrite ..).dwordWrite ..) (refl.dwordWrite ..))⟩

/-! ### The codes of R403 -/

/-- A condition that has a code of its own gives that code, not 0. -/
theorem ite_code_eq_zero {c : Prop} [Decidable c] {n k : Nat} (code : n ≠ 0) : (if c then n else k) = 0 ↔ ¬c ∧ k = 0 := by
  split
  · next h => simp only [code, h, not_true_eq_false, false_and]
  · next h => simp only [h, not_false_eq_true, true_and]

/-- Of a command that is accepted none of the conditions of R403 holds that the meter's invariant rests on: a CLOSE, ENROLL, REVOKE
or VERIFIED has eight free places and no inhibit, an ACK names a written record that was not acknowledged, and at a VERIFIED the
trace is whole. -/
theorem MeterSt.accepted {m : MeterSt} {c : List Byte} (h : m.code c = 0) :
    (u16 c 0 ∈ [0x101, 0x103, 0x104, 0x105] → 8 ≤ m.work.freePlaces ∧ m.inhibit = false) ∧
    (u16 c 0 = 0x102 → u64 c 8 ≤ m.work.seq ∧ m.work.acked < u64 c 8) ∧ (u16 c 0 = 0x105 → m.traceBroken = false ∧ m.work.verKey.isSome = true) := by
  unfold code at h
  simp only [ite_code_eq_zero, ne_eq, OfNat.ofNat_ne_zero, one_ne_zero, not_false_eq_true] at h
  obtain ⟨-, -, -, -, -, places, inhibit, -, ack, -, verified, -⟩ := h
  refine ⟨fun t => ?_, fun t => ?_, fun t => ?_⟩
  · have due : (u16 c 0 == 0x101 || u16 c 0 == 0x103 || u16 c 0 == 0x104 || u16 c 0 == 0x105) = true := by
      simpa only [Bool.or_eq_true, beq_iff_eq, List.mem_cons, List.not_mem_nil, or_false, or_assoc] using t
    rw [due, Bool.true_and, decide_eq_true_eq, Nat.not_lt] at places
    rw [due, Bool.true_and, Bool.not_eq_true] at inhibit
    exact ⟨places, inhibit⟩
  · simpa [t] using ack
  · simpa [t, Option.isSome_iff_ne_none] using verified

/-! ### Commands of the meter -/

/-- Records acknowledged up to a written one that was not: none is acknowledged that was not written, and places come free. -/
theorem MeterSt.Steady.acknowledge {m : MeterSt} {n : Nat} (written : n ≤ m.work.seq) (newer : m.work.acked < n) :
    m.Steady { m with work := { m.work with acked := n } } := by
  refine ⟨fun f => ?_, id, rfl, fun i => ⟨i, rfl, rfl, rfl⟩⟩
  obtain ⟨work, b0, b1, places, room⟩ := filed_iff.1 f
  obtain ⟨-, few, keys⟩ := MtrWork.ok_iff.1 work
  exact filed_iff.2 ⟨MtrWork.ok_iff.2 ⟨written, by dsimp only; omega, keys⟩, b0, b1, places, room.imp id fun _ => by dsimp only; omega⟩

/-- A CLOSE begun with eight free places. -/
theorem MeterSt.Steady.close {m n : MeterSt} (h : m.Steady n) (free : 8 ≤ n.work.freePlaces) (j : CloseJob) : m.Steady { n with closing := some j } := by
  refine h.trans ⟨fun f => ?_, id, rfl, fun i => ⟨i, rfl, rfl, rfl⟩⟩
  obtain ⟨work, b0, b1, places, -⟩ := filed_iff.1 f
  rw [MtrWork.freePlaces] at free
  exact filed_iff.2 ⟨work, b0, b1, places, .inr (by dsimp only; omega)⟩

/-- The record of a CLOSE under way committed (R404 steps 5 and 6): under the next number, and with it the state block. -/
def MeterSt.commitClose (m : MeterSt) (j : CloseJob) (cut : MtrWork) : MeterSt :=
  (({ m with closing := none, recon := cut.reconBad, work := { m.work with lastClose := some (slice j.cmd 8 16) } } : MeterSt).putRecord
    (m.work.seq + 1) j.record).writeState false true

/-- A place was free when the CLOSE was accepted (R403). -/
theorem MeterSt.Steady.commitClose {m : MeterSt} {j : CloseJob} (closing : m.closing = some j) (free : m.inhibit = false) (cut : MtrWork) :
    m.Steady (m.commitClose j cut) := by
  refine .writeState (.putRecord (n := { m with closing := none, recon := _, work := { m.work with lastClose := _ } }) ?_ free rfl (fun f => ?_) _)
    free _ _
  · exact .of_gist rfl fun some => nomatch some
  · obtain ⟨-, -, -, -, room⟩ := filed_iff.1 f
    obtain none | room := room
    · exact nomatch closing.symm.trans none
    · dsimp only; omega

/-- The early warnings noted. -/
theorem MeterSt.Steady.warned {m n : MeterSt} (h : m.Steady n) (input standby : Bool) : m.Steady { n with inWarn := input, sbWarn := standby } :=
  h.trans (.of_gist rfl id)

/-- A mailbox's state is no working value of the meter. -/
@[simp] theorem MeterSt.setMbx_work (m : MeterSt) (i : Nat) (x : Mbx) : (m.setMbx i x).work = m.work := by
  unfold setMbx
  split
  · rfl
  · rfl

/-- An accepted CLOSE taken up: its mailbox is in STATE 2, and it waits for the end of a poll cycle in progress (R404). -/
def MeterSt.takeClose (m : MeterSt) (i : Nat) (c : List Byte) : MeterSt :=
  let m1 := { m.setMbx i { m.mbx i with state := 2 } with closing := some { mbx := i, cmd := c } }
  if m.polling then m1 else m1.cutNow

theorem MeterSt.Steady.takeClose {m n : MeterSt} (h : m.Steady n) (free : 8 ≤ n.work.freePlaces) (i : Nat) (c : List Byte) :
    m.Steady (n.takeClose i c) := by
  have begun := (h.setMbx i { n.mbx i with state := 2 }).close (by rw [setMbx_work]; exact free) { mbx := i, cmd := c }
  unfold MeterSt.takeClose
  dsimp only
  split
  · exact begun
  · exact begun.cutNow

/-- A command of two branches answers a state as its branches do. -/
theorem ite_answers {c : Prop} [Decidable c] {s : State} {a b : Host.Outcome State Fault Refusal} (h : ∃ t, a = .next t ∧ s.Steady t)
    (g : ∃ t, b = .next t ∧ s.Steady t) : ∃ t, (if c then a else b) = .next t ∧ s.Steady t := by
  split
  · exact h
  · exact g

section Commands
variable (s : State)

theorem execTestPulse_steady : ∃ t, execTestPulse s = .next t ∧ s.Steady t := by
  have pulsed (energy : Nat) : s.Steady ((s.modMeter fun m => { m with sincePulse := m.sincePulse - energy }).modDev fun d => d.emit .pulse) := by
    refine (State.Steady.refl s).move ?_
    exact .of_gist rfl id
  exact ⟨_, rfl, .ite (pulsed pulseEvery) (.refl s)⟩

theorem execMeterPoll_steady (mv : Nat) : ∃ t, execMeterPoll mv s = .next t ∧ s.Steady t := by
  unfold execMeterPoll
  split
  · exact ⟨_, rfl, .refl s⟩
  · refine ⟨_, rfl, (State.Steady.refl s).move (.beginCycle (.cutNow ?_))⟩
    split
    · exact .of_gist rfl id
    · exact .refl _

theorem execSenseReply_steady (src : Fin 9) (poll : Byte) (good : Bool) (charges : List W32) (us : Nat) :
    ∃ t, execSenseReply src poll good charges us s = .next t ∧ s.Steady t := by
  have refl := State.Steady.refl s
  unfold execSenseReply
  dsimp only
  refine ite_answers ⟨_, rfl, refl⟩ ?_
  split
  · refine ⟨_, rfl, refl.move ?_⟩
    dsimp only
    split
    · exact .of_gist rfl id
    · exact .of_gist rfl id
  · refine ite_answers ⟨_, rfl, refl.move ?_⟩ ⟨_, rfl, refl.move ?_⟩
    · exact .of_gist rfl id
    · exact .of_gist rfl id

theorem execMeterMap_steady : ∃ t, execMeterMap s = .next t ∧ s.Steady t := by
  unfold execMeterMap
  split
  · exact ⟨_, rfl, .refl s⟩
  · exact ⟨_, rfl, (State.Steady.refl s).move (.of_gist rfl id)⟩

theorem execMeter_steady (b : Binding) (cmd : List Byte) : ∃ t, execMeter b cmd s = .next t ∧ s.Steady t := by
  unfold execMeter
  dsimp only
  split
  · exact ⟨_, rfl, .refl s⟩
  · refine ⟨_, rfl, .mbxGo ((State.Steady.refl s).move ?_) ..⟩
    exact .of_gist rfl id

/-- A command of a type is served steadily if its effect is steady where it is accepted. -/
theorem State.mtrServe_steady (type : Nat) (k : State → List Byte → State × List Byte)
    (effect : ∀ (t : State) c, t.meter.code c = 0 → u16 c 0 = type → t.Steady (k t c).1) : ∃ t, s.mtrServe type k = .next t ∧ s.Steady t := by
  have front := (State.Steady.refl s).dropUnknown s.meter.queue
  unfold State.mtrServe
  split
  · exact ⟨_, rfl, .refl s⟩
  dsimp only
  split
  · exact ⟨_, rfl, front⟩
  next i c rest _ =>
  split
  · exact ⟨_, rfl, front⟩
  next type =>
  refine ⟨_, rfl, .dropUnknown ?_ _⟩
  have taken : s.Steady ((s.dropUnknown s.meter.queue).modMeter fun m => { m with queue := rest }) := front.move (.of_gist rfl id)
  split
  · next accepted => exact (taken.trans (effect _ c accepted (not_not.1 type))).mbxEnd ..
  · exact taken.mbxEnd ..

theorem execAck_steady : ∃ t, execAck s = .next t ∧ s.Steady t := by
  refine s.mtrServe_steady _ _ fun t c accepted type => ?_
  obtain ⟨-, ack, -⟩ := MeterSt.accepted accepted
  obtain ⟨written, newer⟩ := ack type
  exact .newChallenge ((State.Steady.refl t).move (.acknowledge written newer))

theorem lmod_length {α : Type} (l : List α) (i : Nat) (f : α → α) : (lmod l i f).length = l.length := by
  induction l generalizing i with
  | nil => rfl
  | cons a t ih => cases i with
    | zero => rfl
    | succ i => exact congrArg (· + 1) (ih i)

theorem execEnroll_steady : ∃ t, execEnroll s = .next t ∧ s.Steady t := by
  refine s.mtrServe_steady _ _ fun t c _ _ => ?_
  have enrolled (i : Nat) (key : List Byte) (data : List Byte) : t.Steady (t.modMeter fun m =>
      MeterSt.event { m with work := { m.work with authKeys := lmod m.work.authKeys i fun _ => some key } } 3 data) := by
    refine (State.Steady.refl t).move (.event (.of_gist ?_ ?_) ..)
    · simp only [MeterSt.gist, lmod_length]
    · exact id
  exact .ite (enrolled ..) (enrolled ..).newChallenge

theorem execRevoke_steady : ∃ t, execRevoke s = .next t ∧ s.Steady t := by
  refine s.mtrServe_steady _ _ fun t c _ _ => ?_
  refine .newChallenge (.ite ((State.Steady.refl t).move (.event (.of_gist ?_ ?_) ..)) (.refl t))
  · simp only [MeterSt.gist, List.length_map]
  · exact id

/-- A broken trace keeps a VERIFIED from being accepted, so SEAL_BROKEN clears where nothing demands it. -/
theorem execVerified_steady : ∃ t, execVerified s = .next t ∧ s.Steady t := by
  refine s.mtrServe_steady _ _ fun t c accepted type => ?_
  obtain ⟨-, -, verified⟩ := MeterSt.accepted accepted
  obtain ⟨whole, -⟩ := verified type
  refine .newChallenge ((State.Steady.refl t).move (.event ?_ ..))
  refine ⟨id, fun _ => ?_, rfl, fun i => ⟨i, rfl, rfl, rfl⟩⟩
  simp only [MeterSt.sealKnown, whole, Bool.and_false, Bool.not_false, Bool.true_or]

theorem execRead_steady : ∃ t, execRead s = .next t ∧ s.Steady t := s.mtrServe_steady _ _ fun t _ _ _ => .refl t

theorem execGetCert_steady : ∃ t, execGetCert s = .next t ∧ s.Steady t := s.mtrServe_steady _ _ fun t _ _ _ => .refl t

/-- An accepted CLOSE finds the eight free places that the invariant asks for while it is under way. -/
theorem execClose_steady : ∃ t, execClose s = .next t ∧ s.Steady t := by
  have front := (State.Steady.refl s).dropUnknown s.meter.queue
  unfold execClose
  split
  · exact ⟨_, rfl, .refl s⟩
  dsimp only
  split
  · exact ⟨_, rfl, front⟩
  next i c rest _ =>
  split
  · exact ⟨_, rfl, front⟩
  next type =>
  have taken : s.Steady ((s.dropUnknown s.meter.queue).modMeter fun m => { m with queue := rest }) := front.move (.of_gist rfl id)
  split
  · next accepted =>
    refine ⟨_, rfl, taken.move ?_⟩
    obtain ⟨places, -⟩ := MeterSt.accepted accepted
    obtain ⟨free, -⟩ := places (by simp only [not_not.1 type, List.mem_cons, true_or])
    exact MeterSt.Steady.takeClose (.refl { (s.dropUnknown s.meter.queue).meter with queue := rest }) free i c
  · exact ⟨_, rfl, .dropUnknown (taken.mbxEnd ..) _⟩

theorem execMeterRecordCommit_steady : ∃ t, execMeterRecordCommit s = .next t ∧ s.Steady t := by
  unfold execMeterRecordCommit
  split
  · exact ⟨_, rfl, .refl s⟩
  next free =>
  split
  · exact ⟨_, rfl, .refl s⟩
  next j closing =>
  split
  · exact ⟨_, rfl, .refl s⟩
  next cut _ =>
  simp only [Bool.or_eq_true, not_or, Bool.not_eq_true] at free
  have committed : s.Steady (s.modMeter fun m => m.commitClose j cut) := (State.Steady.refl s).move (.commitClose closing free.2 cut)
  have flushed : s.Steady ((s.modMeter fun m => m.commitClose j cut).newChallenge.modMeter MeterSt.flushEvents) :=
    committed.newChallenge.move (MeterSt.Steady.refl _).flushEvents
  exact ⟨_, rfl, (flushed.mbxEnd ..).dropUnknown _⟩

theorem execMeterStateWrite_steady (mv sb : Nat) (ends : Bool) : ∃ t, execMeterStateWrite mv sb ends s = .next t ∧ s.Steady t := by
  unfold execMeterStateWrite
  split
  · exact ⟨_, rfl, .refl s⟩
  refine ⟨_, rfl, (State.Steady.refl s).move ?_⟩
  dsimp only
  split
  · next write =>
    rw [Bool.and_eq_true, Bool.not_eq_true'] at write
    refine ((MeterSt.Steady.refl s.meter).warned ..).writeState ?_ ..
    exact write.1
  · exact (MeterSt.Steady.refl s.meter).warned ..

theorem execMeterInhibitStart_steady (mv sb : Nat) : ∃ t, execMeterInhibitStart mv sb s = .next t ∧ s.Steady t := by
  have inhibited : s.Steady (s.modMeter fun m => { m with inhibit := true, work := { m.work with flags := m.work.flags ||| 256 } }) :=
    (State.Steady.refl s).move ⟨id, id, rfl, fun _ => ⟨rfl, rfl, rfl, rfl⟩⟩
  unfold execMeterInhibitStart
  split
  · exact ⟨_, rfl, .refl s⟩
  dsimp only
  split
  · next j _ =>
    refine ite_answers ⟨_, rfl, .dropUnknown (.mbxEnd (inhibited.move ?_) ..) _⟩ ⟨_, rfl, inhibited⟩
    exact (MeterSt.Steady.refl _).unclose
  · exact ⟨_, rfl, inhibited⟩

theorem execMeterProcessorRestart_steady : ∃ t, execMeterProcessorRestart s = .next t ∧ s.Steady t :=
  ⟨_, rfl, .ite (State.Steady.refl s).mtrRestart (.refl s)⟩

theorem execMeterFwLoad_steady (image sig : List Byte) : ∃ t, execMeterFwLoad image sig s = .next t ∧ s.Steady t := by
  refine ⟨_, rfl, .ite (.mtrRestart ((State.Steady.refl s).move (.event ?_ ..))) (.refl s)⟩
  exact .of_gist rfl id

theorem execVerificationKeyEnrol_steady (key : List Byte) : ∃ t, execVerificationKeyEnrol key s = .next t ∧ s.Steady t := by
  refine ⟨_, rfl, .ite ((State.Steady.refl s).move ?_) (.refl s)⟩
  exact .of_gist rfl id

/-- A trace found broken sets SEAL_BROKEN and writes or holds its event. -/
theorem MeterSt.Steady.foundBroken {m n : MeterSt} (h : m.Steady n) : m.Steady n.foundBroken := by
  unfold MeterSt.foundBroken
  split
  · exact h
  · refine (h.trans ?_).event ..
    exact ⟨id, fun _ => Bool.or_true _, rfl, fun i => ⟨i, rfl, rfl, rfl⟩⟩

/-- Neither a record nor an event changes whether SEAL_BROKEN is set. -/
@[simp] theorem MeterSt.event_sealBroken (m : MeterSt) (code : Nat) (data : List Byte) : (m.event code data).work.sealBroken = m.work.sealBroken := by
  unfold event writeEvent writeState
  split
  · rfl
  split
  · rfl
  dsimp only
  split
  · rfl
  · rfl

theorem MeterSt.foundBroken_sealBroken (m : MeterSt) : m.foundBroken.work.sealBroken = true := by
  unfold foundBroken
  split
  · assumption
  · exact event_sealBroken ..

/-- A meter that has found its trace broken knows of it. -/
theorem MeterSt.foundBroken_sealKnown (m : MeterSt) : m.foundBroken.sealKnown = true := by
  rw [sealKnown, foundBroken_sealBroken, Bool.or_true]

theorem execSealBreak_steady (broken : Bool) : ∃ t, execSealBreak broken s = .next t ∧ s.Steady t := by
  have traced (known : s.meter.sealKnown = true → ({ s.meter with traceBroken := broken } : MeterSt).sealKnown = true) :
      s.meter.Steady { s.meter with traceBroken := broken } := ⟨id, known, rfl, fun i => ⟨i, rfl, rfl, rfl⟩⟩
  unfold execSealBreak
  split
  · exact ⟨_, rfl, .refl s⟩
  refine ⟨_, rfl, (State.Steady.refl s).move ?_⟩
  dsimp only
  split
  · next served =>
    have found : ({ s.meter with traceBroken := broken } : MeterSt).Steady ({ s.meter with traceBroken := broken } : MeterSt).foundBroken :=
      (MeterSt.Steady.refl _).foundBroken
    exact ⟨found.filed, fun _ => MeterSt.foundBroken_sealKnown _, found.reg, found.held⟩
  · next unserved =>
    refine ⟨id, fun _ => ?_, rfl, fun i => ⟨i, rfl, rfl, rfl⟩⟩
    rw [Bool.and_comm, Bool.not_eq_true] at unserved
    rw [MeterSt.sealKnown, unserved, Bool.not_false, Bool.true_or]

/-- The input's loss leaves the meter but stops it. -/
theorem State.powerOff_steady : s.Steady s.powerOff := by
  refine (State.Steady.refl s).move ⟨id, fun _ => ?_, rfl, fun i => ⟨i, rfl, rfl, rfl⟩⟩
  exact Bool.true_or _

end Commands

/-! ### Every command -/

/-- Every other command answers a next state, with the queue as it was and the meter steady. -/
theorem exec_steady (c : Instr) (s : State) (h : c.unsteady = false) : ∃ t, exec c s = .next t ∧ s.Steady t := by
  cases c
  case registerWrite => exact execRegisterWrite_steady ..
  case inputLoss => exact ⟨_, rfl, .ite s.powerOff_steady (.refl s)⟩
  case vinPrsntBreak => exact ⟨_, rfl, s.powerOff_steady⟩
  case meter => exact execMeter_steady ..
  case meterPoll => exact execMeterPoll_steady ..
  case senseReply => exact execSenseReply_steady ..
  case meterMap => exact execMeterMap_steady ..
  case testPulse => exact execTestPulse_steady ..
  case close => exact execClose_steady ..
  case meterRecordCommit => exact execMeterRecordCommit_steady ..
  case ack => exact execAck_steady ..
  case enroll => exact execEnroll_steady ..
  case revoke => exact execRevoke_steady ..
  case verified => exact execVerified_steady ..
  case read => exact execRead_steady ..
  case getCert => exact execGetCert_steady ..
  case meterStateWrite => exact execMeterStateWrite_steady ..
  case meterInhibitStart => exact execMeterInhibitStart_steady ..
  case sealBreak => exact execSealBreak_steady ..
  case meterFwLoad => exact execMeterFwLoad_steady ..
  case meterProcessorRestart => exact execMeterProcessorRestart_steady ..
  case verificationKeyEnrol => exact execVerificationKeyEnrol_steady ..
  case frontEndSample | meterPowerUp | cartRemove | meterInhibitRelease => exact nomatch h
  all_goals
    refine (exec_module _ s ?_).elim fun d runs => ⟨_, runs, (State.Steady.refl s).modDev fun _ => d⟩
    rfl
end Sys2Proof.Machine
end

section
/-!
PROOFS. Power-up (R413), and the statements about every step: no command stops, the queue stays, the meter's invariant, its register
and its inhibited store.
-/
namespace Sys2Proof.Machine

/-! ### What a power-up recovers from the store -/

/-- The working values of the governing bank, or none (R413). -/
def MeterSt.base (m : MeterSt) : MtrWork := match m.governs with
  | some b => b.work
  | none => {}

/-- The working values that a power-up starts from (R413): the governing bank's with the later records adopted, or where no bank checks the
numbers and the seal that the records show. -/
def MeterSt.recovered (m : MeterSt) : MtrWork :=
  let found := (m.laterRecords m.base.seq).foldl MtrWork.adopt m.base
  if m.governs.isSome then found else { seq := found.seq, acked := found.acked, sealBroken := found.sealBroken }

/-- The last power-down was unclean: the governing bank was not one of a warning, or the store went on after it. -/
def MeterSt.unclean (m : MeterSt) : Bool := match m.governs with
  | some b => !b.clean || !(m.laterRecords m.base.seq).isEmpty || decide (b.wseq < max m.bank0.wseq m.bank1.wseq)
  | none => true

/-- The meter that comes through power-up, before it writes its events. -/
def MeterSt.booted (m : MeterSt) (trace : Bool) : MeterSt :=
  let w := { m.recovered with
    flags := m.recovered.flags ||| (2 + 4 * b2n m.unclean + 512),
    eventsLost := if m.recovered.freePlaces = 0 then m.recovered.eventsLost else 0 }
  { present := true, ready := true, work := w, bank0 := m.bank0, bank1 := m.bank1, records := m.records,
    recon := m.lastRecon w.seq, fwDigest := if m.present then m.fwDigest else Config.meterFirmware, traceBroken := trace,
    regShown := BitVec.ofNat 64 (uj w.reg) }

/-- The power-up event, with the events that were lost (R408). -/
def MeterSt.powerEvent (m : MeterSt) (trace : Bool) : MeterSt :=
  (m.booted trace).event 1 ([BitVec.ofNat 8 (b2n m.unclean), 0, 0, 0] ++ natLe 4 m.recovered.eventsLost)

/-- An event for a module that the cartridge has not met before. -/
def MeterSt.moduleEvent (m : MeterSt) (identity : Bool) : MeterSt :=
  if identity && m.work.lastModule != some identityKeyId then
    { m with work := { m.work with lastModule := some identityKeyId } }.event 2 (natLe 8 identityKeyId.toNat)
  else m

/-- The meter that a power-up leaves, but for its challenge. -/
def MeterSt.poweredUp (m : MeterSt) (trace identity : Bool) : MeterSt :=
  let n := (m.powerEvent trace).moduleEvent identity
  if trace then n.foundBroken else n

theorem execMeterPowerUp_eq {s : State} (trace : Bool) (on : s.power.state ≠ .off) (unready : s.meter.ready = false) :
    execMeterPowerUp trace s = .next ({ s with meter := s.meter.poweredUp trace s.sec.identity } : State).newChallenge := by
  unfold execMeterPowerUp
  rw [if_neg (by rw [unready]; simpa using on)]
  rfl

/-! ### The store after a power-up -/

/-- A record adopted brings its number, and acknowledges what it overwrote (R409). -/
theorem MtrWork.adopt_gist (w : MtrWork) (r : Nat × List Byte) :
    (w.adopt r).seq = r.1 ∧ (w.adopt r).acked = max w.acked (r.1 - 96) ∧ (w.adopt r).authKeys = w.authKeys := by
  unfold adopt
  split
  · exact ⟨rfl, rfl, rfl⟩
  split
  · exact ⟨rfl, rfl, rfl⟩
  split
  · exact ⟨rfl, rfl, rfl⟩
  · exact ⟨rfl, rfl, rfl⟩

/-- Adopting records in rising order above the working values keeps these in order. -/
theorem MtrWork.foldl_adopt_ok (rs : List (Nat × List Byte)) {w : MtrWork} (h : w.ok = true) (above : ∀ r ∈ rs, w.seq < r.1)
    (rising : rs.Pairwise fun a b => a.1 < b.1) : (rs.foldl adopt w).ok = true := by
  induction rs generalizing w with
  | nil => exact h
  | cons r rs ih =>
    obtain ⟨first, rest⟩ := List.pairwise_cons.1 rising
    obtain ⟨seq, acked, keys⟩ := w.adopt_gist r
    obtain ⟨le, -, two⟩ := ok_iff.1 h
    have newer := above r List.mem_cons_self
    refine ih (ok_iff.2 ⟨?_, ?_, keys ▸ two⟩) (fun e he => seq.symm ▸ first e he) rest
    · rw [seq, acked]; omega
    · rw [seq, acked]; omega

/-- The later records come in rising order, above the number asked for. -/
theorem MeterSt.laterRecords_rise (m : MeterSt) (n : Nat) :
    (∀ r ∈ m.laterRecords n, n < r.1) ∧ (m.laterRecords n).Pairwise fun a b => a.1 < b.1 := by
  unfold laterRecords
  constructor
  · intro r h
    obtain ⟨i, -, at_⟩ := List.mem_filterMap.1 h
    obtain ⟨b, -, rfl⟩ := Option.map_eq_some_iff.1 at_
    dsimp only; omega
  · refine List.pairwise_filterMap.2 (List.pairwise_lt_range.imp fun {i j} lt a ha b hb => ?_)
    obtain ⟨_, -, rfl⟩ := Option.map_eq_some_iff.1 ha
    obtain ⟨_, -, rfl⟩ := Option.map_eq_some_iff.1 hb
    dsimp only; omega

theorem MeterSt.base_ok {m : MeterSt} (h : m.filed = true) : m.base.ok = true := by
  obtain ⟨-, b0, b1, -, -⟩ := filed_iff.1 h
  unfold base governs
  split
  · next b governs =>
    split at governs
    · exact Option.some.inj governs ▸ b0
    split at governs
    · exact Option.some.inj governs ▸ b1
    · exact nomatch governs
  · rfl

theorem MeterSt.recovered_ok {m : MeterSt} (h : m.filed = true) : m.recovered.ok = true := by
  obtain ⟨above, rising⟩ := m.laterRecords_rise m.base.seq
  have found := MtrWork.foldl_adopt_ok _ (base_ok h) above rising
  unfold recovered
  dsimp only
  split
  · exact found
  · obtain ⟨le, few, -⟩ := MtrWork.ok_iff.1 found
    exact MtrWork.ok_iff.2 ⟨le, few, rfl⟩

/-- The meter comes through power-up with its store in order. -/
theorem MeterSt.booted_filed {m : MeterSt} (h : m.filed = true) (trace : Bool) : (m.booted trace).filed = true := by
  obtain ⟨-, b0, b1, places, -⟩ := filed_iff.1 h
  exact filed_iff.2 ⟨recovered_ok h, b0, b1, places, .inl rfl⟩

/-- The events of a power-up. -/
theorem MeterSt.poweredUp_steady (m : MeterSt) (trace identity : Bool) : (m.booted trace).Steady (m.poweredUp trace identity) := by
  have named : (m.booted trace).Steady ((m.powerEvent trace).moduleEvent identity) := by
    have first : (m.booted trace).Steady (m.powerEvent trace) := .event (.refl _) ..
    refine first.trans ?_
    unfold moduleEvent
    split
    · refine .event ?_ ..
      exact .of_gist rfl id
    · exact .refl _
  unfold poweredUp
  dsimp only
  split
  · exact named.foundBroken
  · exact named

theorem MeterSt.poweredUp_ok {m : MeterSt} (h : m.filed = true) (trace identity : Bool) : (m.poweredUp trace identity).ok = true := by
  have events := m.poweredUp_steady trace identity
  rw [ok_eq, events.filed (booted_filed h trace), Bool.true_and]
  cases trace
  · exact events.sealKnown rfl
  · exact foundBroken_sealKnown _

/-! ### Every command answers, and the queue stays -/

theorem execMeterPowerUp_answers (trace : Bool) (s : State) : ∃ t, execMeterPowerUp trace s = .next t ∧ t.pending = s.pending ∧
    (s.meter.ok = true → t.meter.ok = true) := by
  by_cases rest : s.power.state = .off ∨ s.meter.ready = true
  · exact ⟨s, if_pos rest, rfl, id⟩
  · obtain ⟨on, unready⟩ := not_or.1 rest
    refine ⟨_, execMeterPowerUp_eq trace on (Bool.not_eq_true _ ▸ unready), rfl, fun ok => ?_⟩
    rw [MeterSt.ok_eq, Bool.and_eq_true] at ok
    exact MeterSt.poweredUp_ok ok.1 ..

/-- A sample adds its product to the energies and itself to the count, and leaves the rest of the meter. -/
def MeterSt.sampled (m : MeterSt) (ma mv : Nat) : MeterSt :=
  let out := decide (mv < 40000) || decide (60000 < mv) || decide (ma < 2000) || decide (85000 < ma)
  { m with
    work := { m.work with reg := m.work.reg + ma * mv, eIn := m.work.eIn + ma * mv, eOut := m.work.eOut + (if out then ma * mv else 0),
                          nsamp := m.work.nsamp + 1 },
    sinceWrite := m.sinceWrite + ma * mv, sincePulse := m.sincePulse + ma * mv }

theorem execFrontEndSample_up {s : State} (up : s.mtrUp = true) (ma mv : Nat) :
    execFrontEndSample ma mv s = .next { s with meter := s.meter.sampled ma mv } := by
  unfold execFrontEndSample
  rw [up]
  rfl

theorem execFrontEndSample_down {s : State} (down : s.mtrUp = false) (ma mv : Nat) : execFrontEndSample ma mv s = .next s := by
  unfold execFrontEndSample
  rw [down]
  rfl

/-- The inhibit's release writes the held events and, cleanly, the state block (R411). -/
def MeterSt.released (m : MeterSt) : MeterSt := ({ m with inhibit := false }.flushEvents).writeState true true

/-- Writing the held events starts no inhibit. -/
theorem MeterSt.flushEvents_inhibit (m : MeterSt) : m.flushEvents.inhibit = m.inhibit := by
  have writes (es : List (Nat × List Byte)) : ∀ o : MeterSt, (es.foldl (fun m e => m.writeEvent e.1 e.2) o).inhibit = o.inhibit := by
    induction es with
    | nil => exact fun _ => rfl
    | cons e es ih => exact fun o => (ih _).trans (o.writeEvent_gates ..).1
  unfold flushEvents
  split
  · rfl
  · exact writes ..

theorem MeterSt.released_steady (m : MeterSt) : ({ m with inhibit := false } : MeterSt).Steady m.released := by
  have flushed : ({ m with inhibit := false } : MeterSt).Steady ({ m with inhibit := false } : MeterSt).flushEvents := (Steady.refl _).flushEvents
  exact flushed.writeState (flushEvents_inhibit _) ..

theorem execMeterInhibitRelease_answers (mv sb ms : Nat) (s : State) : ∃ t, execMeterInhibitRelease mv sb ms s = .next t ∧
    (t = s ∨ t = { s with meter := s.meter.released }) := by
  unfold execMeterInhibitRelease
  split
  · exact ⟨_, rfl, .inr rfl⟩
  · exact ⟨_, rfl, .inl rfl⟩

theorem execCartRemove_answers (s : State) : ∃ t, execCartRemove s = .next t ∧ t.pending = s.pending ∧
    (s.meter.ok = true → t.meter.ok = true) := by
  unfold execCartRemove
  split
  · exact ⟨_, rfl, rfl, fun _ => rfl⟩
  · exact ⟨_, rfl, rfl, id⟩

theorem MeterSt.Steady.ok {m n : MeterSt} (h : m.Steady n) (ok : m.ok = true) : n.ok = true := by
  rw [MeterSt.ok_eq, Bool.and_eq_true] at ok ⊢
  exact ⟨h.filed ok.1, h.sealKnown ok.2⟩

/-- Every command answers a next state, with the queue as it was and the meter's invariant kept. -/
theorem exec_keeps (c : Instr) (s : State) : ∃ t, exec c s = .next t ∧ t.pending = s.pending ∧ (s.meter.ok = true → t.meter.ok = true) := by
  by_cases unsteady : c.unsteady = true
  · cases c
    case frontEndSample ma mv =>
      cases up : s.mtrUp
      · exact ⟨s, execFrontEndSample_down up .., rfl, id⟩
      · exact ⟨_, execFrontEndSample_up up .., rfl, id⟩
    case meterInhibitRelease mv sb ms =>
      obtain ⟨t, runs, rfl | rfl⟩ := execMeterInhibitRelease_answers mv sb ms s
      · exact ⟨_, runs, rfl, id⟩
      · exact ⟨_, runs, rfl, s.meter.released_steady.ok⟩
    case meterPowerUp trace => exact execMeterPowerUp_answers trace s
    case cartRemove => exact execCartRemove_answers s
    all_goals exact nomatch unsteady
  · obtain ⟨t, runs, steady⟩ := exec_steady c s (Bool.not_eq_true _ ▸ unsteady)
    exact ⟨t, runs, steady.pending, steady.meter.ok⟩

end Sys2Proof.Machine
end

section
/-!
PROOFS. The statements about every step and about reset: no command stops, the queue stays, the meter's invariant, its register and its
inhibited store; the registers' reset values.
-/
namespace Sys2Proof.Machine

/-! ### Registers after reset -/

/-- Place `a` of block `k` in an array of blocks. -/
theorem inArr_block (base : Nat) {step n k a : Nat} (inside : a < step) (block : k < n) : inArr (base + step * k + a) base step n = some (k, a) := by
  have next : step * k + step ≤ step * n := Nat.mul_le_mul_left step block
  have start : base + step * k + a - base = a + step * k := by omega
  rw [inArr, if_pos ⟨by omega, by omega⟩, start, Nat.add_mul_div_left _ _ (by omega), Nat.div_eq_of_lt inside, Nat.zero_add,
    Nat.add_mul_mod_self_left, Nat.mod_eq_of_lt inside]

/-- What the physical function reads in a loom's block (R477). -/
theorem State.bar0Read_loom (s : State) (c : ClusterId) (i : Fin 12) {a : Nat} (inside : a < 0x2000) :
    s.bar0Read 0 (0x1000000 + 0x40000 * c.val + 0x10000 + 0x2000 * i.val + a) false =
      if s.dead c.val then 0 else s.loomReg 0 (12 * c.val + i.val) a := by
  have loom := i.isLt
  have cluster := inArr_block 0x1000000 (step := 0x40000) (a := 0x10000 + 0x2000 * i.val + a) (by omega) c.isLt
  have block := inArr_block 0x10000 inside loom
  have sees : s.sees 0 (0x1000000 + 0x40000 * c.val + 0x10000 + 0x2000 * i.val + a) false = true := rfl
  simp only [← Nat.add_assoc] at cluster
  unfold bar0Read bar0Dword
  rw [sees, cluster]
  simp only [Bool.not_true, Bool.false_eq_true, if_false, Nat.add_zero, Dev.cluReg, loomAt, block, Option.map_some]
  repeat rw [if_neg (by omega)]

/-- LOM_EXC_CTRL and K_INDEX of a loom after reset. -/
theorem loomReg_reset (l : Nat) : State.reset.loomReg 0 l 4 = 2 ∧ State.reset.loomReg 0 l 12 = 0xFFFFFFFF := by
  have fresh : State.reset.loom l = {} := rfl
  unfold Dev.loomReg
  rw [fresh]
  exact ⟨rfl, rfl⟩

/-- Settles O8: the loom registers by the block that an offset lies in, where each loom of the reset state is the default one. -/
theorem resetRegisters : Obligations.ResetRegisters := by
  refine ⟨by decide, by decide, by decide, by decide, by decide, by decide, by decide, by decide, by decide, by decide, fun c i => ?_⟩
  obtain ⟨ctrl, index⟩ := loomReg_reset (12 * c.val + i.val)
  have lit : State.reset.dead c.val = false := rfl
  dsimp only
  rw [State.bar0Read_loom State.reset c i (a := 4) (by decide), State.bar0Read_loom State.reset c i (a := 12) (by decide), lit, ctrl, index]
  exact ⟨rfl, rfl⟩

/-! ### Every step -/

/-- Settles O1. -/
theorem stepRunsTheFrontCommand : Obligations.StepRunsTheFrontCommand := fun _ _ => rfl

/-- Settles O2. -/
theorem noCommandStops : Obligations.NoCommandStops := fun c s => (exec_keeps c s).imp fun _ h => h.1

/-- Settles O3. -/
theorem commandsLeaveTheQueue : Obligations.CommandsLeaveTheQueue := by
  intro c s t runs
  obtain ⟨u, runs', pending, -⟩ := exec_keeps c s
  exact Host.Outcome.next.inj (runs.symm.trans runs') ▸ pending

/-- Settles O4: every command but four is `Steady` for the meter; a sample moves energies alone, the inhibit's release goes on from a meter
without the inhibit, a power-up starts from records and banks in order, and the cartridge's removal leaves a meter as after reset. -/
theorem meterInvariantIsKept : Obligations.MeterInvariantIsKept := by
  intro s t ok runs
  unfold step at runs
  split at runs
  · exact Host.Outcome.next.inj runs ▸ ok
  · next c rest _ =>
    obtain ⟨u, runs', -, keeps⟩ := exec_keeps c { s with pending := rest }
    exact Host.Outcome.next.inj (runs.symm.trans runs') ▸ keeps ok

/-- Settles O5. -/
theorem meterInvariantAtReset : Obligations.MeterInvariantAtReset := rfl

/-- Settles O6. -/
theorem onlySamplesMoveTheRegister : Obligations.OnlySamplesMoveTheRegister := by
  intro c s t runs noSample noPowerUp noRemoval
  by_cases unsteady : c.unsteady = true
  · cases c
    case frontEndSample ma mv => exact absurd rfl (noSample ma mv)
    case meterPowerUp b => exact absurd rfl (noPowerUp b)
    case cartRemove => exact absurd rfl noRemoval
    case meterInhibitRelease mv sb ms =>
      obtain ⟨u, runs', kept | released⟩ := execMeterInhibitRelease_answers mv sb ms s
      · rw [Host.Outcome.next.inj (runs.symm.trans runs'), kept]
      · rw [Host.Outcome.next.inj (runs.symm.trans runs'), released]
        exact s.meter.released_steady.reg
    all_goals exact nomatch unsteady
  · obtain ⟨u, runs', steady⟩ := exec_steady c s (Bool.not_eq_true _ ▸ unsteady)
    exact Host.Outcome.next.inj (runs.symm.trans runs') ▸ steady.meter.reg

/-- Settles O7. -/
theorem inhibitStopsStoreWrites : Obligations.InhibitStopsStoreWrites := by
  intro c s t inhibit runs noRelease noPowerUp noRemoval
  by_cases unsteady : c.unsteady = true
  · cases c
    case meterInhibitRelease mv sb ms => exact absurd rfl (noRelease mv sb ms)
    case meterPowerUp b => exact absurd rfl (noPowerUp b)
    case cartRemove => exact absurd rfl noRemoval
    case frontEndSample ma mv =>
      cases up : s.mtrUp
      · exact Host.Outcome.next.inj (runs.symm.trans (execFrontEndSample_down up ..)) ▸ ⟨rfl, rfl, rfl⟩
      · exact Host.Outcome.next.inj (runs.symm.trans (execFrontEndSample_up up ..)) ▸ ⟨rfl, rfl, rfl⟩
    all_goals exact nomatch unsteady
  · obtain ⟨u, runs', steady⟩ := exec_steady c s (Bool.not_eq_true _ ▸ unsteady)
    exact Host.Outcome.next.inj (runs.symm.trans runs') ▸ (steady.meter.held inhibit).2

end Sys2Proof.Machine
end

section
/-!
PROOFS. The meter's records and state banks: what a record's bytes say, what writing one keeps, and which bank governs (R408 to R413).
-/
namespace Sys2Proof.Machine

/-! ### Fields at their offset in a record -/

theorem u8_append (a z : List Byte) (i : Nat) : u8 (a ++ z) (a.length + i) = u8 z i := by
  simp only [u8, List.getD, List.getElem?_append_right (Nat.le_add_right ..), Nat.add_sub_cancel_left]

/-- A four-byte field. -/
theorem u32_at (a z : List Byte) (v : Nat) : u32 (a ++ (natLe 4 v ++ z)) a.length = v % 2 ^ 32 := by
  have byte0 : u8 (a ++ (natLe 4 v ++ z)) a.length = v % 256 := u8_append a _ 0
  have byte1 : u8 (a ++ (natLe 4 v ++ z)) (a.length + 1) = v / 256 % 256 := u8_append a _ 1
  have byte2 : u8 (a ++ (natLe 4 v ++ z)) (a.length + 2) = v / 256 / 256 % 256 := u8_append a _ 2
  have byte3 : u8 (a ++ (natLe 4 v ++ z)) (a.length + 2 + 1) = v / 256 / 256 / 256 % 256 := u8_append a _ 3
  rw [u32, u16, u16, byte0, byte1, byte2, byte3]
  omega

@[simp] theorem length_natLe (n v : Nat) : (natLe n v).length = n := by
  induction n generalizing v with
  | zero => rfl
  | succ n ih => exact congrArg (· + 1) (ih _)

/-- The 200 bytes of an event record before its code (R408). -/
def MeterSt.eventHead (m : MeterSt) : List Byte :=
  [natLe 4 0x4D5A4C45, natLe 2 1, natLe 2 2, natLe 8 (m.work.seq + 1), List.replicate 40 0, natLe 8 (uj m.work.reg), List.replicate 24 0,
    natLe 4 (128 * b2n m.work.sealBroken), List.replicate 36 0, digestBytes m.fwDigest, natLe 8 meterKeyId.toNat, List.replicate 32 0].flatten

theorem MeterSt.eventHead_length (m : MeterSt) : m.eventHead.length = 200 := by
  simp only [eventHead, digestBytes, List.flatten_cons, List.flatten_nil, List.length_append, length_natLe, List.length_replicate, List.length_nil]

theorem MeterSt.eventRecord_eq (m : MeterSt) (code : Nat) (data : List Byte) : ∃ z, m.eventRecord code data = m.eventHead ++ (natLe 4 code ++ z) := by
  unfold eventRecord sealRecord eventHead
  simp only [List.flatten_cons, List.flatten_nil, List.append_assoc, List.append_nil]
  exact ⟨_, rfl⟩

/-- An event record names itself and its code (R408). -/
theorem MeterSt.eventRecord_kind (m : MeterSt) (code : Nat) (data : List Byte) :
    u16 (m.eventRecord code data) 6 = 2 ∧ u32 (m.eventRecord code data) 200 = code % 2 ^ 32 := by
  obtain ⟨z, e⟩ := m.eventRecord_eq code data
  rw [e]
  exact ⟨rfl, m.eventHead_length ▸ u32_at m.eventHead z code⟩

/-! ### Records in the store (R409) -/

@[simp] theorem MeterSt.record_putRecord (m : MeterSt) (n : Nat) (b : List Byte) : (m.putRecord n b).record n = some b := by
  simp only [record, putRecord, tget_tset_same, if_true]

/-- Records at other places stay. -/
theorem MeterSt.record_putRecord_other (m : MeterSt) {i n : Nat} (b : List Byte) (other : i % 96 ≠ n % 96) :
    (m.putRecord n b).record i = m.record i := by
  simp only [record, putRecord, tget_tset_other _ _ _ _ _ other]

/-- A state write changes a bank and the energy since the last write. -/
theorem MeterSt.writeState_eq (m : MeterSt) (clean ends : Bool) :
    ∃ b0 b1, m.writeState clean ends = { m with bank0 := b0, bank1 := b1, sinceWrite := 0 } := by
  unfold writeState
  dsimp only
  split
  · exact ⟨_, m.bank1, rfl⟩
  · exact ⟨m.bank0, _, rfl⟩

@[simp] theorem MeterSt.record_writeState (m : MeterSt) (clean ends : Bool) (n : Nat) : (m.writeState clean ends).record n = m.record n := by
  obtain ⟨_, _, e⟩ := m.writeState_eq clean ends
  rw [e]
  rfl

/-- After a state write that ends, the bank written governs (R409, R413). -/
theorem MeterSt.governs_writeState (m : MeterSt) (clean : Bool) : ∃ b, (m.writeState clean true).governs = some b ∧ b.work = m.banked := by
  unfold writeState governs
  dsimp only
  split
  · refine ⟨_, if_pos ?_, rfl⟩
    rw [Bool.true_and, Bool.or_eq_true, decide_eq_true_eq]
    exact .inr (by dsimp only; omega)
  · rw [if_neg, if_pos rfl]
    · exact ⟨_, rfl, rfl⟩
    · rw [Bool.not_true, Bool.false_or, Bool.and_eq_true, decide_eq_true_eq]
      dsimp only
      omega

/-- An event with places free, outside the inhibit and a CLOSE, is the next record. -/
theorem MeterSt.event_eq {m : MeterSt} (free : m.inhibit = false) (idle : m.closing = none) (room : 0 < m.work.freePlaces) (code : Nat)
    (data : List Byte) : m.event code data = (m.putRecord (m.work.seq + 1) (m.eventRecord code data)).writeState false true := by
  have full : m.work.freePlaces ≠ 0 := by omega
  rw [event, recordDue, idle, free, writeEvent, if_neg full]
  rfl

/-! ### What events leave -/

/-- `n` comes of `m` by writing or holding events: numbers, records and banks aside the meter is as before. -/
def MeterSt.Logged (m n : MeterSt) : Prop :=
  n = { m with
    work := { m.work with seq := n.work.seq, eventsLost := n.work.eventsLost }, records := n.records, bank0 := n.bank0, bank1 := n.bank1,
    sinceWrite := n.sinceWrite, evHeld := n.evHeld }

namespace MeterSt.Logged
variable {m n : MeterSt}

theorem refl (m : MeterSt) : m.Logged m := rfl

theorem trans {o : MeterSt} (h : m.Logged n) (g : n.Logged o) : m.Logged o := by
  unfold Logged at h g ⊢
  rw [h] at g
  exact g

theorem writeEvent (m : MeterSt) (code : Nat) (data : List Byte) : m.Logged (m.writeEvent code data) := by
  unfold MeterSt.writeEvent
  split
  · rfl
  · obtain ⟨_, _, e⟩ := (m.putRecord (m.work.seq + 1) (m.eventRecord code data)).writeState_eq false true
    rw [e]
    rfl

theorem event (m : MeterSt) (code : Nat) (data : List Byte) : m.Logged (m.event code data) := by
  unfold MeterSt.event
  split
  · rfl
  · exact writeEvent ..

theorem flushEvents (m : MeterSt) : m.Logged m.flushEvents := by
  have writes (es : List (Nat × List Byte)) : ∀ o : MeterSt, o.Logged (es.foldl (fun m e => m.writeEvent e.1 e.2) o) := by
    induction es with
    | nil => exact fun o => refl o
    | cons e es ih => exact fun o => (writeEvent o ..).trans (ih _)
  unfold MeterSt.flushEvents
  split
  · exact refl m
  · have emptied : m.Logged { m with evHeld := [] } := rfl
    exact emptied.trans (writes ..)

end MeterSt.Logged

/-- An event gives the next number at most, and leaves the records that it does not overwrite. -/
theorem MeterSt.event_record (m : MeterSt) (code : Nat) (data : List Byte) {n : Nat} (held : n ≤ m.work.seq) (young : m.work.seq + 1 < n + 96) :
    (m.event code data).record n = m.record n ∧ m.work.seq ≤ (m.event code data).work.seq ∧ (m.event code data).work.seq ≤ m.work.seq + 1 := by
  unfold event writeEvent
  split
  · exact ⟨rfl, Nat.le_refl _, Nat.le_succ _⟩
  split
  · exact ⟨rfl, Nat.le_refl _, Nat.le_succ _⟩
  · obtain ⟨_, _, e⟩ := (m.putRecord (m.work.seq + 1) (m.eventRecord code data)).writeState_eq false true
    rw [record_writeState, e]
    exact ⟨m.record_putRecord_other _ (by omega), Nat.le_succ _, Nat.le_refl _⟩

end Sys2Proof.Machine
end

section
/-!
PROOFS. The meter's power-up, its seal, its cartridge and its firmware (R404, R413 to R418).
-/
namespace Sys2Proof.Machine

/-! ### Power-up (R413) -/

/-- With a bank that governs and no record that it does not know, the working values start from the bank's. -/
theorem MeterSt.recovered_eq {m : MeterSt} {b : MtrBank} (governs : m.governs = some b) (none : m.laterRecords b.work.seq = []) :
    m.recovered = b.work := by
  simp only [recovered, base, governs, none, Option.isSome_some, if_true, List.foldl_nil]

/-- The module's key and SEAL_BROKEN set to what they are. -/
def MeterSt.marked (m : MeterSt) (l : Option W64) (broken : Bool) : MeterSt := { m with work := { m.work with lastModule := l, sealBroken := broken } }

/-- They are beside what events move. -/
theorem MeterSt.Logged.marked {m n : MeterSt} (h : m.Logged n) (l : Option W64) (broken : Bool) : (m.marked l broken).Logged (n.marked l broken) := by
  unfold Logged MeterSt.marked at *
  rw [h]

/-- The event of an unknown module. -/
theorem MeterSt.Logged.moduleEvent (m : MeterSt) (identity : Bool) : ∃ l, (m.marked l m.work.sealBroken).Logged (m.moduleEvent identity) := by
  unfold MeterSt.moduleEvent
  split
  · exact ⟨_, event ..⟩
  · exact ⟨m.work.lastModule, refl m⟩

/-- A trace found broken sets SEAL_BROKEN, with an event where it was not set. -/
theorem MeterSt.Logged.foundBroken (m : MeterSt) : (m.marked m.work.lastModule true).Logged m.foundBroken := by
  unfold MeterSt.foundBroken
  split
  · next broken =>
    have same : m.marked m.work.lastModule true = m := congrArg (m.marked m.work.lastModule) broken.symm
    rw [same]
    exact refl m
  · exact event ..

/-- The record of a power-up stands after the two events that may follow it. -/
theorem MeterSt.poweredUp_record (m : MeterSt) (trace identity : Bool) {n : Nat} (last : (m.powerEvent trace).work.seq = n) :
    (m.poweredUp trace identity).record n = (m.powerEvent trace).record n := by
  subst last
  have named : ((m.powerEvent trace).moduleEvent identity).record (m.powerEvent trace).work.seq = (m.powerEvent trace).record (m.powerEvent trace).work.seq ∧
      (m.powerEvent trace).work.seq ≤ ((m.powerEvent trace).moduleEvent identity).work.seq ∧
      ((m.powerEvent trace).moduleEvent identity).work.seq ≤ (m.powerEvent trace).work.seq + 1 := by
    unfold moduleEvent
    split
    · exact event_record { m.powerEvent trace with work := { (m.powerEvent trace).work with lastModule := _ } } _ _ (Nat.le_refl _) (by dsimp only; omega)
    · exact ⟨rfl, Nat.le_refl _, Nat.le_succ _⟩
  obtain ⟨same, le, ge⟩ := named
  unfold poweredUp foundBroken
  dsimp only
  split
  · split
    · exact same
    · refine Eq.trans (And.left (event_record { (m.powerEvent trace).moduleEvent identity with
        work := { ((m.powerEvent trace).moduleEvent identity).work with sealBroken := true } } _ _ le ?_)) same
      dsimp only; omega
  · exact same

/-- What a power-up leaves: the meter that came through it, with the module's key, SEAL_BROKEN where the trace is broken, and its events. -/
theorem MeterSt.poweredUp_logged (m : MeterSt) (trace identity : Bool) :
    ∃ l, ((m.booted trace).marked l (m.recovered.sealBroken || trace)).Logged (m.poweredUp trace identity) := by
  have first : (m.booted trace).Logged (m.powerEvent trace) := .event ..
  have unmoved : (m.powerEvent trace).work.sealBroken = m.recovered.sealBroken := event_sealBroken ..
  obtain ⟨l, named⟩ := Logged.moduleEvent (m.powerEvent trace) identity
  cases trace
  · rw [Bool.or_false, ← unmoved]
    exact ⟨l, (first.marked ..).trans named⟩
  · rw [Bool.or_true]
    exact ⟨_, (first.marked ..).trans ((named.marked _ true).trans (.foundBroken _))⟩

/-- The power-up event is the next record (R408). -/
theorem MeterSt.powerEvent_record {m : MeterSt} (trace : Bool) (room : 0 < m.recovered.freePlaces) :
    (m.powerEvent trace).work.seq = m.recovered.seq + 1 ∧
    ∃ r, (m.powerEvent trace).record (m.recovered.seq + 1) = some r ∧ u16 r 6 = 2 ∧ u32 r 200 = 1 := by
  have now := event_eq (m := m.booted trace) rfl rfl room 1 ([BitVec.ofNat 8 (b2n m.unclean), 0, 0, 0] ++ natLe 4 m.recovered.eventsLost)
  rw [powerEvent, now, record_writeState]
  obtain ⟨_, _, written⟩ := ((m.booted trace).putRecord (m.recovered.seq + 1) _).writeState_eq false true
  exact ⟨congrArg (fun n : MeterSt => n.work.seq) written, _, record_putRecord .., eventRecord_kind ..⟩

/-- The new challenge draws of the module's random source, and changes nothing else there. -/
theorem State.newChallenge_eq (s : State) : ∃ c, s.newChallenge =
    { s with toDev := { s.toDev with freeCtr := s.freeCtr + 1 }, meter := { s.meter with challenge := c } } := ⟨_, rfl⟩

/-- What the statement says of METER_POWER_UP. -/
theorem runs_meterPowerUp {s : State} {b : MtrBank} (trace : Bool) (on : s.power.state ≠ .off) (unready : s.meter.ready = false)
    (governs : s.meter.governs = some b) (none : s.meter.laterRecords b.work.seq = []) (room : 0 < b.work.freePlaces) :
    ∃ d m', RunsMeter (.meterPowerUp trace) s d m' ∧ m'.ready = true ∧ m'.present = true ∧ m'.work.reg = b.work.reg ∧ m'.work.eIn = b.work.eIn ∧
      m'.work.authKeys = b.work.authKeys ∧ m'.work.acked = b.work.acked ∧ m'.work.lastClose = b.work.lastClose ∧ m'.inhibit = false ∧
      m'.work.sealBroken = (b.work.sealBroken || trace) ∧ (∃ r, m'.record (b.work.seq + 1) = some r ∧ u16 r 6 = 2 ∧ u32 r 200 = 1) ∧
      d = { s.toDev with freeCtr := d.freeCtr } := by
  have base := MeterSt.recovered_eq governs none
  obtain ⟨c, drawn⟩ := State.newChallenge_eq { s with meter := s.meter.poweredUp trace s.sec.identity }
  obtain ⟨last, r, first, kind⟩ := MeterSt.powerEvent_record trace (base.symm ▸ room)
  obtain ⟨l, up⟩ := s.meter.poweredUp_logged trace s.sec.identity
  have stands := (s.meter.poweredUp_record trace s.sec.identity last).trans first
  refine ⟨_, _, (execMeterPowerUp_eq trace on unready).trans (congrArg Host.Outcome.next drawn), ?_⟩
  rw [← base]
  refine ⟨?_, ?_, ?_, ?_, ?_, ?_, ?_, ?_, ?_, ⟨r, stands, kind⟩, rfl⟩
  all_goals
    rw [up]
    rfl

/-! ### Seal, firmware and restart (R404, R415 to R417) -/

/-- The measured energy of a cut that is not committed. -/
def MeterSt.cutEnergy (m : MeterSt) : Nat := match m.closing with
  | some j => match j.cut with
    | some c => c.eIn
    | none => 0
  | none => 0

/-- A CLOSE that did not commit rejoins its cut to the open interval. -/
theorem MeterSt.banked_eIn (m : MeterSt) : m.banked.eIn = m.work.eIn + m.cutEnergy := by
  unfold banked cutEnergy
  cases m.closing with
  | none => rfl
  | some j =>
    obtain ⟨mbx, cmd, cut⟩ := j
    cases cut with
    | none => rfl
    | some c => exact Nat.add_comm ..

/-- The processor's restart ends the CLOSE, the queue and the mailboxes' commands. -/
def MeterSt.restarted (m : MeterSt) : MeterSt :=
  { m.unclose with queue := [], vendor := none, mbx0 := { m.mbx0 with state := 0, code := 0 }, mbx1 := { m.mbx1 with state := 0, code := 0 } }

/-- After a restart the meter goes on with the interval that the state banks hold, and nothing waits. -/
theorem State.mtrRestart_eq (s : State) : ∃ c n, s.mtrRestart =
    { s with toDev := { s.toDev with freeCtr := s.freeCtr + 1 }, meter := { n with challenge := c } } ∧ s.meter.restarted.Logged n :=
  ⟨_, _, rfl, .flushEvents _⟩

theorem runs_meterProcessorRestart {s : State} (up : s.mtrUp = true) : ∃ d m', RunsMeter .meterProcessorRestart s d m' ∧ m'.queue = [] ∧
    m'.closing = none ∧ m'.work.reg = s.meter.work.reg ∧ m'.work.authKeys = s.meter.work.authKeys ∧ d = { s.toDev with freeCtr := d.freeCtr } ∧
    m'.work.eIn = s.meter.banked.eIn := by
  obtain ⟨c, n, restarts, restarted⟩ := s.mtrRestart_eq
  obtain ⟨reg, -, -, -, keys⟩ := s.meter.banked_gist
  refine ⟨_, _, congrArg Host.Outcome.next ((if_pos up).trans restarts), ?_⟩
  rw [restarted]
  exact ⟨rfl, rfl, reg, keys, rfl, rfl⟩

theorem runs_sealBreak {s : State} (present : s.meter.present = true) (up : s.mtrUp = true) : ∃ m', RunsMeter (.sealBreak true) s s.toDev m' ∧
    m'.traceBroken = true ∧ m'.work.sealBroken = true ∧ m'.work.reg = s.meter.work.reg ∧ m'.work.authKeys = s.meter.work.authKeys := by
  have ready : s.meter.ready = true := by
    simp only [State.mtrUp, Bool.and_eq_true] at up
    exact up.1.2
  have broken := MeterSt.Logged.foundBroken { s.meter with traceBroken := true }
  refine ⟨({ s.meter with traceBroken := true } : MeterSt).foundBroken, ?_, ?_⟩
  · show execSealBreak true s = _
    simp only [execSealBreak, present, ready]
    rfl
  · rw [broken]
    exact ⟨rfl, rfl, rfl, rfl⟩

theorem runs_meterFwLoad {s : State} {image sig : List Byte} (up : s.mtrUp = true) (broken : s.meter.traceBroken = true)
    (signed : Config.mldsaVerify Config.metrologyKey (digestBytes (Config.sha3_256 image)) sig = true)
    (new : Config.sha3_256 image ≠ s.meter.fwDigest) : ∃ d m', RunsMeter (.meterFwLoad image sig) s d m' ∧
    m'.fwDigest = Config.sha3_256 image ∧ m'.work.reg = s.meter.work.reg ∧ m'.queue = [] ∧ m'.work.authKeys = s.meter.work.authKeys ∧
    d = { s.toDev with freeCtr := d.freeCtr } := by
  have loaded : ({ s.meter with fwDigest := Config.sha3_256 image } : MeterSt).Logged _ := .event _ 6 (digestBytes s.meter.fwDigest)
  obtain ⟨c, n, restarts, restarted⟩ := State.mtrRestart_eq { s with
    meter := ({ s.meter with fwDigest := Config.sha3_256 image } : MeterSt).event 6 (digestBytes s.meter.fwDigest) }
  obtain ⟨reg, -, -, -, keys⟩ :=
    MeterSt.banked_gist (({ s.meter with fwDigest := Config.sha3_256 image } : MeterSt).event 6 (digestBytes s.meter.fwDigest))
  refine ⟨_, _, congrArg Host.Outcome.next ((if_pos ⟨up, broken, signed, new⟩).trans restarts), ?_⟩
  rw [restarted]
  refine ⟨?_, reg.trans ?_, rfl, keys.trans ?_, rfl⟩
  · show (({ s.meter with fwDigest := Config.sha3_256 image } : MeterSt).event 6 (digestBytes s.meter.fwDigest)).fwDigest = _
    rw [loaded]
  · rw [loaded]
  · rw [loaded]

/-- Settles O60. -/
theorem meterPowerAndSeal : Obligations.MeterPowerAndSeal := by
  intro s
  refine ⟨fun trace b on unready governs none room => runs_meterPowerUp trace on unready governs none room, fun present => ⟨runs_sealBreak present, ?_, ?_⟩,
    fun image sig key up => ⟨fun whole => ⟨?_, ?_⟩, fun broken => ⟨?_, runs_meterFwLoad up broken⟩⟩, fun up => ?_⟩
  · show execSealBreak false s = _
    simp only [execSealBreak, present]
    rfl
  · exact ⟨_, if_pos present, rfl, rfl, rfl⟩
  · exact congrArg Host.Outcome.next (if_neg fun h => by rw [whole] at h; exact nomatch h.2.1)
  · exact congrArg Host.Outcome.next (if_neg fun h => by rw [whole] at h; exact nomatch h.2)
  · exact congrArg Host.Outcome.next (if_pos ⟨up, broken⟩)
  · obtain ⟨d, m', runs, queue, closing, reg, keys, dev, energy⟩ := runs_meterProcessorRestart up
    exact ⟨d, m', runs, queue, closing, reg, keys, dev, energy.trans (MeterSt.banked_eIn _)⟩

end Sys2Proof.Machine
end

section
/-!
PROOFS. The meter's commands: carried to a mailbox, served in order with the codes of R403, and the record of a CLOSE (R402 to R404, R419).
-/
namespace Sys2Proof.Machine

/-! ### Mailboxes and the queue -/

theorem MeterSt.mbx_setMbx (m : MeterSt) (i : Nat) (x : Mbx) : (m.setMbx i x).mbx i = x := by
  unfold mbx setMbx
  split
  · exact rfl
  · exact rfl

/-- Beside its mailboxes, the meter `n` is `m`. -/
def MeterSt.Posted (m n : MeterSt) : Prop := n = { m with mbx0 := n.mbx0, mbx1 := n.mbx1, vendor := n.vendor }

theorem MeterSt.Posted.setMbx (m : MeterSt) (i : Nat) (x : Mbx) : m.Posted (m.setMbx i x) := by
  unfold Posted MeterSt.setMbx
  split
  · rfl
  · rfl

/-- Serving a command ends with the mailbox `i` done: its code and response; beside mailboxes the meter is `m1`, and the module
has at most sent a vector and a reply and drawn a challenge. -/
def Serves (s : State) (i code : Nat) (resp : List Byte) (m1 : MeterSt) (t : State) : Prop :=
  ∃ d m', t = { s with toDev := d, meter := m' } ∧ (m'.mbx i).state = 3 ∧ (m'.mbx i).code = BitVec.ofNat 8 code ∧ (m'.mbx i).resp = resp ∧
    m1.Posted m' ∧ d = { s.toDev with hub := d.hub, out := d.out, freeCtr := d.freeCtr }

/-- A reply is carried back once, and only messages leave the module. -/
theorem State.vendorReply_eq (s : State) (i : Nat) : ∃ v out, s.vendorReply i =
    { s with toDev := { s.toDev with out := out }, meter := { s.meter with vendor := v } } := by
  unfold vendorReply
  split
  · split
    · exact ⟨none, _, rfl⟩
    · exact ⟨s.meter.vendor, s.out, rfl⟩
  · exact ⟨s.meter.vendor, s.out, rfl⟩

/-- A command that ends puts code and response into its mailbox (R419). -/
theorem State.mbxEnd_serves {s t : State} {n : Nat} {m1 : MeterSt}
    (effect : t = { s with toDev := { s.toDev with freeCtr := n }, meter := m1 }) (i code : Nat) (resp : List Byte) :
    Serves s i code resp m1 (t.mbxEnd i code resp) := by
  subst effect
  have vector := Dev.msix_frame { s.toDev with freeCtr := n } 0 3
  have done := m1.mbx_setMbx i { m1.mbx i with state := 3, code := BitVec.ofNat 8 code, resp := resp }
  have posted := MeterSt.Posted.setMbx m1 i { m1.mbx i with state := 3, code := BitVec.ofNat 8 code, resp := resp }
  obtain ⟨v, out, reply⟩ := State.vendorReply_eq { s with
    toDev := ({ s.toDev with freeCtr := n } : Dev).msix 0 3,
    meter := m1.setMbx i { m1.mbx i with state := 3, code := BitVec.ofNat 8 code, resp := resp } } i
  refine ⟨_, _, reply, congrArg Mbx.state done, congrArg Mbx.code done, congrArg Mbx.resp done, ?_, ?_⟩
  · unfold MeterSt.Posted at posted ⊢
    rw [posted]
  · rw [vector]

/-- Where a known command is at the front, none is dropped. -/
theorem State.dropUnknown_known (s : State) {q : List (Nat × List Byte)} (known : ∀ e ∈ q, mtrKnown (u16 e.2 0) = true) : s.dropUnknown q = s := by
  cases q with
  | nil => rfl
  | cons e q =>
    rw [dropUnknown, known e List.mem_cons_self, Bool.not_true, Bool.and_false]
    exact if_neg Bool.false_ne_true

/-! ### Commands carried to mailbox 1 (R419, R458) -/

/-- The bytes carried to a mailbox are the command that its GO submits. -/
theorem Mbx.command_carried (x : Mbx) (cmd : List Byte) :
    ({ x with window := tsetRange 0 [] 0 (cmd.take 4096) } : Mbx).command cmd.length = cmd.take 4096 :=
  tgetRange_tsetRange 0 [] 0 (by rw [List.length_take, Nat.min_comm])

/-- Where the binding works and the mailbox is free, METER is the mailbox's GO with the bytes carried. -/
theorem execMeter_eq {s : State} {b : Binding} {cmd : List Byte} (works : s.mctpUp b = true) (free1 : s.meter.mbx1.state ≠ 1)
    (free2 : s.meter.mbx1.state ≠ 2) : exec (.meter b cmd) s = .next (({ s with meter := { s.meter with
      vendor := some (bindNum b), mbx1 := { s.meter.mbx1 with window := tsetRange 0 [] 0 (cmd.take 4096) } } } : State).mbxGo 1 cmd.length) := by
  have free : (!s.mctpUp b || s.meter.mbx1.state == 1 || s.meter.mbx1.state == 2) = false := by
    rw [works, beq_false_of_ne free1, beq_false_of_ne free2]
    rfl
  show execMeter b cmd s = _
  unfold execMeter
  dsimp only
  rw [if_neg (by rw [free]; exact Bool.false_ne_true)]
  rfl

/-- A free mailbox's GO puts its command behind those that wait. -/
theorem State.mbxGo_waits {s : State} {len : Nat} (present : s.meter.present = true) (free1 : s.meter.mbx1.state ≠ 1)
    (free2 : s.meter.mbx1.state ≠ 2) (known : s.mtrUp = true → ∀ e ∈ s.meter.queue ++ [(1, s.meter.mbx1.command len)], mtrKnown (u16 e.2 0) = true) :
    s.mbxGo 1 len = { s with meter := { s.meter with
      mbx1 := { s.meter.mbx1 with state := 1 }, queue := s.meter.queue ++ [(1, s.meter.mbx1.command len)] } } := by
  have free : ¬((s.meter.mbx 1).state = 1 ∨ (s.meter.mbx 1).state = 2) := not_or.2 ⟨free1, free2⟩
  unfold mbxGo
  dsimp only
  rw [if_neg (by rw [present]; exact Bool.false_ne_true), if_neg free]
  split
  · next up => exact State.dropUnknown_known _ (known up)
  · rfl

theorem runs_meter_waits {s : State} {b : Binding} {cmd : List Byte} (works : s.mctpUp b = true) (free1 : s.meter.mbx1.state ≠ 1)
    (free2 : s.meter.mbx1.state ≠ 2) (present : s.meter.present = true)
    (known : s.mtrUp = true → ∀ e ∈ s.meter.queue ++ [(1, cmd.take 4096)], mtrKnown (u16 e.2 0) = true) :
    ∃ m', RunsMeter (.meter b cmd) s s.toDev m' ∧ m'.queue = s.meter.queue ++ [(1, cmd.take 4096)] ∧ m'.mbx1.state = 1 ∧ m'.work = s.meter.work := by
  have carried := Mbx.command_carried s.meter.mbx1 cmd
  have goes := State.mbxGo_waits (s := { s with meter := { s.meter with
      vendor := some (bindNum b), mbx1 := { s.meter.mbx1 with window := tsetRange 0 [] 0 (cmd.take 4096) } } })
    (len := cmd.length) present free1 free2 (carried.symm ▸ known)
  exact ⟨_, (execMeter_eq works free1 free2).trans (congrArg Host.Outcome.next goes), congrArg (fun c => s.meter.queue ++ [(1, c)]) carried, rfl, rfl⟩

theorem runs_meter_absent {s : State} {b : Binding} {cmd : List Byte} (works : s.mctpUp b = true) (free1 : s.meter.mbx1.state ≠ 1)
    (free2 : s.meter.mbx1.state ≠ 2) (absent : s.meter.present = false) :
    ∃ d m', RunsMeter (.meter b cmd) s d m' ∧ m'.mbx1.state = 3 ∧ m'.mbx1.code = 0x0F ∧ m'.queue = s.meter.queue := by
  obtain ⟨d, m', ends, done, code, -, posted, -⟩ := State.mbxEnd_serves (s := { s with meter := { s.meter with
    vendor := some (bindNum b), mbx1 := { s.meter.mbx1 with window := tsetRange 0 [] 0 (cmd.take 4096) } } }) rfl 1 0x0F []
  refine ⟨d, m', (execMeter_eq works free1 free2).trans (congrArg Host.Outcome.next (Eq.trans (if_pos ?_) ends)), done, code, ?_⟩
  · exact Bool.not_eq_true' _ ▸ absent
  · rw [posted]

/-! ### The command at the front (R402, R403) -/

theorem MeterSt.Posted.queue {m n : MeterSt} (h : m.Posted n) : n.queue = m.queue := by
  rw [h]

/-- Behind a command that ends none is dropped where those that wait are known. -/
theorem Serves.dropUnknown {s t : State} {i code : Nat} {resp : List Byte} {m1 : MeterSt} (h : Serves s i code resp m1 t)
    (known : ∀ e ∈ m1.queue, mtrKnown (u16 e.2 0) = true) : Serves s i code resp m1 (t.dropUnknown t.meter.queue) := by
  obtain ⟨d, m', rfl, done, rest, resp, posted, dev⟩ := h
  rw [State.dropUnknown_known _ fun e he => known e (posted.queue ▸ he)]
  exact ⟨d, m', rfl, done, rest, resp, posted, dev⟩

section Front
variable {s : State} {i type : Nat} {c : List Byte} {rest : List (Nat × List Byte)}

/-- The meter with the front command taken from its queue. -/
def State.taken (s : State) (rest : List (Nat × List Byte)) : State := { s with meter := { s.meter with queue := rest } }

/-- A known command at the front is not dropped. -/
theorem State.dropUnknown_front (front : s.meter.queue = (i, c) :: rest) (known : mtrKnown (u16 c 0) = true) : s.dropUnknown s.meter.queue = s := by
  rw [front, dropUnknown, known, Bool.not_true, Bool.and_false]
  exact if_neg Bool.false_ne_true

/-- A serving meter that no CLOSE holds up takes the command at the front, checks it, and ends it. -/
theorem State.mtrServe_eq (up : s.mtrUp = true) (idle : s.meter.closing = none) (front : s.meter.queue = (i, c) :: rest) (is : u16 c 0 = type)
    (known : mtrKnown type = true) (k : State → List Byte → State × List Byte) :
    s.mtrServe type k = .next
      (let t := if s.meter.code c = 0 then (k (s.taken rest) c).1.mbxEnd i 0 (k (s.taken rest) c).2 else (s.taken rest).mbxEnd i (s.meter.code c) []
       t.dropUnknown t.meter.queue) := by
  have kept := State.dropUnknown_front front (is ▸ known)
  unfold mtrServe
  rw [up, idle, kept]
  dsimp only
  rw [front]
  dsimp only
  rw [if_neg (by decide), if_neg (not_not.2 is)]
  rfl

/-- A command that R403 refuses ends with its code, and leaves the meter as it is. -/
theorem State.mtrServe_refused (up : s.mtrUp = true) (idle : s.meter.closing = none) (front : s.meter.queue = (i, c) :: rest) (is : u16 c 0 = type)
    (known : mtrKnown type = true) (others : ∀ e ∈ rest, mtrKnown (u16 e.2 0) = true) (code : s.meter.code c ≠ 0)
    (k : State → List Byte → State × List Byte) :
    ∃ t, s.mtrServe type k = .next t ∧ Serves s i (s.meter.code c) [] { s.meter with queue := rest } t := by
  rw [mtrServe_eq up idle front is known, if_neg code]
  have ends : Serves s i (s.meter.code c) [] { s.meter with queue := rest } ((s.taken rest).mbxEnd i (s.meter.code c) []) :=
    mbxEnd_serves (n := s.freeCtr) rfl ..
  exact ⟨_, rfl, ends.dropUnknown others⟩

/-- An accepted command does what its type does, and ends with code 0. -/
theorem State.mtrServe_accepted (up : s.mtrUp = true) (idle : s.meter.closing = none) (front : s.meter.queue = (i, c) :: rest) (is : u16 c 0 = type)
    (known : mtrKnown type = true) (others : ∀ e ∈ rest, mtrKnown (u16 e.2 0) = true) (code : s.meter.code c = 0)
    {k : State → List Byte → State × List Byte} {n : Nat} {m1 : MeterSt}
    (effect : (k (s.taken rest) c).1 = { s with toDev := { s.toDev with freeCtr := n }, meter := m1 }) (queue : m1.queue = rest) :
    ∃ t, s.mtrServe type k = .next t ∧ Serves s i 0 (k (s.taken rest) c).2 m1 t := by
  rw [mtrServe_eq up idle front is known, if_pos code]
  exact ⟨_, rfl, (mbxEnd_serves effect ..).dropUnknown (queue.symm ▸ others)⟩

/-- A CLOSE that R403 refuses ends as any other command. -/
theorem execClose_refused (up : s.mtrUp = true) (idle : s.meter.closing = none) (front : s.meter.queue = (i, c) :: rest) (is : u16 c 0 = 0x101)
    (code : s.meter.code c ≠ 0) : execClose s = s.mtrServe 0x101 fun t _ => (t, []) := by
  have known : mtrKnown (u16 c 0) = true := is ▸ by decide
  have kept := State.dropUnknown_front front known
  rw [State.mtrServe_eq up idle front is (is ▸ known), if_neg code]
  unfold execClose
  rw [up, idle, kept]
  dsimp only
  rw [front]
  dsimp only
  rw [if_neg (by decide), if_neg (not_not.2 is), if_neg code]
  rfl

/-- An accepted CLOSE is taken up (R404). -/
theorem execClose_accepted (up : s.mtrUp = true) (idle : s.meter.closing = none) (front : s.meter.queue = (i, c) :: rest) (is : u16 c 0 = 0x101)
    (code : s.meter.code c = 0) : execClose s = .next { s with meter := ({ s.meter with queue := rest } : MeterSt).takeClose i c } := by
  have known : mtrKnown (u16 c 0) = true := is ▸ by decide
  have kept := State.dropUnknown_front front known
  unfold execClose
  rw [up, idle, kept]
  dsimp only
  rw [front]
  dsimp only
  rw [if_neg (by decide), if_neg (not_not.2 is), if_pos code]
  rfl

end Front

end Sys2Proof.Machine
end

section
/-!
PROOFS. What the accepted commands of the meter do, and METER_RECORD_COMMIT (R402, R404, R414, R416).
-/
namespace Sys2Proof.Machine

/-! ### The effects of accepted commands -/

/-- An event that the statement speaks of: the next record, which names itself and its code (R408). -/
def MeterSt.NextEvent (m n : MeterSt) (code : Nat) : Prop :=
  n.work.seq = m.work.seq + 1 ∧ ∃ r, n.record (m.work.seq + 1) = some r ∧ u32 r 200 = code ∧ u16 r 6 = 2

/-- An event with places free, outside the inhibit and a CLOSE, is the next record. -/
theorem MeterSt.nextEvent_event {m : MeterSt} (free : m.inhibit = false) (idle : m.closing = none) (room : 0 < m.work.freePlaces) {code : Nat}
    (small : code < 2 ^ 32) (data : List Byte) : m.NextEvent (m.event code data) code := by
  obtain ⟨kind, named⟩ := m.eventRecord_kind code data
  obtain ⟨_, _, written⟩ := (m.putRecord (m.work.seq + 1) (m.eventRecord code data)).writeState_eq false true
  unfold NextEvent
  rw [event_eq free idle room, record_writeState]
  exact ⟨congrArg (fun n : MeterSt => n.work.seq) written, _, record_putRecord .., named.trans (Nat.mod_eq_of_lt small), kind⟩

/-- The command's event is written: R403 accepts none while the inhibit holds or fewer than eight places are free. -/
theorem nextEvent_accepted {s : State} {c : List Byte} {rest : List (Nat × List Byte)} (idle : s.meter.closing = none)
    (code : s.meter.code c = 0) (is : u16 c 0 ∈ [0x101, 0x103, 0x104, 0x105]) {w : MtrWork} (seq : w.seq = s.meter.work.seq)
    (acked : w.acked = s.meter.work.acked)    {event : Nat} (small : event < 2 ^ 32) (data : List Byte) :
    s.meter.NextEvent (({ s.meter with queue := rest, work := w } : MeterSt).event event data) event := by
  obtain ⟨places, -⟩ := MeterSt.accepted code
  obtain ⟨room, free⟩ := places is
  have next := MeterSt.nextEvent_event (m := { s.meter with queue := rest, work := w }) free idle (code := event)
    (by rw [MtrWork.freePlaces] at room ⊢; dsimp only; omega) small data
  unfold MeterSt.NextEvent at next ⊢
  rw [← seq]
  exact next

/-- What the statement says of a command that ends: mailbox `i` is done, with its code; queue and CLOSE are as they should be, the interval as
before, and the module has at most sent messages and drawn a challenge. -/
def Ends (s : State) (i : Nat) (rest : List (Nat × List Byte)) (cmd : Instr) (code : Nat) (p : MeterSt → Prop) : Prop :=
  ∃ d m', RunsMeter cmd s d m' ∧ (m'.mbx i).state = 3 ∧ (m'.mbx i).code = BitVec.ofNat 8 code ∧ m'.queue = rest ∧ m'.closing = none ∧
    m'.work.reg = s.meter.work.reg ∧ m'.work.eIn = s.meter.work.eIn ∧ m'.work.acct = s.meter.work.acct ∧
    d = { s.toDev with hub := d.hub, out := d.out, freeCtr := d.freeCtr } ∧ p m'

theorem ends_of_serves {s t : State} {i code : Nat} {rest : List (Nat × List Byte)} {cmd : Instr} {resp : List Byte} {m1 : MeterSt} {p : MeterSt → Prop}
    (runs : exec cmd s = .next t) (serves : Serves s i code resp m1 t) (waits : m1.queue = rest ∧ m1.closing = none)
    (interval : m1.work.reg = s.meter.work.reg ∧ m1.work.eIn = s.meter.work.eIn ∧ m1.work.acct = s.meter.work.acct)
    (also : ∀ m', m1.Posted m' → (m'.mbx i).resp = resp → p m') : Ends s i rest cmd code p := by
  obtain ⟨d, m', rfl, done, codes, answer, posted, dev⟩ := serves
  refine ⟨d, m', runs, done, codes, ?_, ?_, ?_, ?_, ?_, dev, also m' posted answer⟩
  · rw [posted]; exact waits.1
  · rw [posted]; exact waits.2
  · rw [posted]; exact interval.1
  · rw [posted]; exact interval.2.1
  · rw [posted]; exact interval.2.2

/-- A command with an event, where `w` are the working values that the event is written over. -/
theorem ends_of_event {s t : State} {i code : Nat} {rest : List (Nat × List Byte)} {cmd : Instr} {w : MtrWork} {data ch : List Byte} {p : MeterSt → Prop}
    (runs : exec cmd s = .next t)
    (serves : Serves s i 0 [] { ({ s.meter with queue := rest, work := w } : MeterSt).event code data with challenge := ch } t)
    (idle : s.meter.closing = none) (interval : w.reg = s.meter.work.reg ∧ w.eIn = s.meter.work.eIn ∧ w.acct = s.meter.work.acct)
    (next : s.meter.NextEvent (({ s.meter with queue := rest, work := w } : MeterSt).event code data) code)
    (also : ∀ m' : MeterSt, m'.work.authKeys = w.authKeys → m'.work.sealBroken = w.sealBroken → p m') :
    Ends s i rest cmd 0 fun m' => s.meter.NextEvent m' code ∧ p m' := by
  have logged := MeterSt.Logged.event { s.meter with queue := rest, work := w } code data
  refine ends_of_serves runs serves ⟨?_, ?_⟩ ⟨?_, ?_, ?_⟩ fun m' posted _ => ⟨?_, also m' ?_ ?_⟩
  · rw [logged]
  · rw [logged]; exact idle
  · rw [logged]; exact interval.1
  · rw [logged]; exact interval.2.1
  · rw [logged]; exact interval.2.2
  · rw [posted]; exact next
  · rw [posted, logged]
  · rw [posted, logged]

/-- A key in the first empty slot, or the second (R402). -/
def MtrWork.enrolled (w : MtrWork) (key : List Byte) : MtrWork :=
  { w with authKeys := lmod w.authKeys (if (w.authKeys.getD 0 none).isNone then 0 else 1) (fun _ => some key) }

/-- A key slot holds the key of an ID. -/
def keyNamed (id : Nat) : Option (List Byte) → Bool
  | some k => (keyIdOf k).toNat == id
  | none => false

/-- The key slots without the key of an ID. -/
def MtrWork.revoked (w : MtrWork) (id : Nat) : MtrWork := { w with authKeys := w.authKeys.map fun k => if keyNamed id k then none else k }

theorem MtrWork.revoked_authKeys (w : MtrWork) (key : List Byte) : some key ∉ (w.revoked (keyIdOf key).toNat).authKeys := by
  intro found
  obtain ⟨k, -, kept⟩ := List.mem_map.1 found
  split at kept
  · exact nomatch kept
  · next other =>
    subst kept
    exact other (beq_self_eq_true _)

section Front
variable {s : State} {i : Nat} {c : List Byte} {rest : List (Nat × List Byte)} (up : s.mtrUp = true) (idle : s.meter.closing = none)
  (front : s.meter.queue = (i, c) :: rest) (others : ∀ e ∈ rest, mtrKnown (u16 e.2 0) = true)
include up idle front others

/-- Whatever the type, a command that R403 refuses ends with its code, and leaves the meter as it is. -/
theorem serves_refused (code : s.meter.code c ≠ 0) {cmd : Instr} (named : (u16 c 0 = 0x101 ∧ cmd = .close) ∨ (u16 c 0 = 0x102 ∧ cmd = .ack) ∨
    (u16 c 0 = 0x103 ∧ cmd = .enroll) ∨ (u16 c 0 = 0x104 ∧ cmd = .revoke) ∨ (u16 c 0 = 0x105 ∧ cmd = .verified) ∨ (u16 c 0 = 0x201 ∧ cmd = .read) ∨
    (u16 c 0 = 0x202 ∧ cmd = .getCert)) : ∃ t, exec cmd s = .next t ∧ Serves s i (s.meter.code c) [] { s.meter with queue := rest } t := by
  have refused (type : Nat) (is : u16 c 0 = type) (known : mtrKnown type = true) := State.mtrServe_refused up idle front is known others code
  obtain ⟨is, rfl⟩ | ⟨is, rfl⟩ | ⟨is, rfl⟩ | ⟨is, rfl⟩ | ⟨is, rfl⟩ | ⟨is, rfl⟩ | ⟨is, rfl⟩ := named
  · dsimp only [exec]
    rw [execClose_refused up idle front is code]
    exact refused _ is (by decide) _
  all_goals
    dsimp only [exec, execAck, execEnroll, execRevoke, execVerified, execRead, execGetCert]
    exact refused _ is (by decide) _

variable (code : s.meter.code c = 0)
include code

theorem serves_ack (is : u16 c 0 = 0x102) : ∃ t ch, exec .ack s = .next t ∧
    Serves s i 0 [] { s.meter with queue := rest, work := { s.meter.work with acked := u64 c 8 }, challenge := ch } t := by
  obtain ⟨t, runs, serves⟩ := State.mtrServe_accepted (k := fun t c => ((t.modWork fun w => { w with acked := u64 c 8 }).newChallenge, []))
    (n := s.freeCtr + 1) up idle front is (by decide) others code rfl rfl
  exact ⟨t, _, runs, serves⟩

theorem ends_ack (is : u16 c 0 = 0x102) :
    Ends s i rest .ack 0 fun m' => m'.work = { s.meter.work with acked := u64 c 8 } ∧ m'.records = s.meter.records := by
  obtain ⟨t, ch, runs, serves⟩ := serves_ack up idle front others code is
  refine ends_of_serves runs serves ⟨rfl, idle⟩ ⟨rfl, rfl, rfl⟩ fun m' posted _ => ?_
  rw [posted]
  exact ⟨rfl, rfl⟩

/-- An accepted command serves as its type's effect says. -/
theorem serves_accepted {cmd : Instr} {type : Nat} {k : State → List Byte → State × List Byte} (row : exec cmd s = s.mtrServe type k)
    (is : u16 c 0 = type) (known : mtrKnown type = true) {n : Nat} {m1 : MeterSt}
    (effect : (k (s.taken rest) c).1 = { s with toDev := { s.toDev with freeCtr := n }, meter := m1 }) (queue : m1.queue = rest) :
    ∃ t, exec cmd s = .next t ∧ Serves s i 0 (k (s.taken rest) c).2 m1 t := by
  rw [row]
  exact State.mtrServe_accepted up idle front is known others code effect queue

/-- An accepted command whose type's effect is an event, written over the working values `w`, and a challenge, new or the same. -/
theorem ends_event {cmd : Instr} {type : Nat} {k : State → List Byte → State × List Byte} (row : exec cmd s = s.mtrServe type k)
    (is : u16 c 0 = type) (known : mtrKnown type = true) (places : type ∈ [0x101, 0x103, 0x104, 0x105]) {w : MtrWork} {event n : Nat}
    {data ch : List Byte} (small : event < 2 ^ 32) (effect : k (s.taken rest) c = ({ s with
      toDev := { s.toDev with freeCtr := n }, meter := { ({ s.meter with queue := rest, work := w } : MeterSt).event event data with challenge := ch } }, []))
    (same : w.seq = s.meter.work.seq ∧ w.acked = s.meter.work.acked)
    (interval : w.reg = s.meter.work.reg ∧ w.eIn = s.meter.work.eIn ∧ w.acct = s.meter.work.acct) {p : MeterSt → Prop}
    (also : ∀ m' : MeterSt, m'.work.authKeys = w.authKeys → m'.work.sealBroken = w.sealBroken → p m') :
    Ends s i rest cmd 0 fun m' => s.meter.NextEvent m' event ∧ p m' := by
  have logged := MeterSt.Logged.event { s.meter with queue := rest, work := w } event data
  obtain ⟨t, runs, serves⟩ := serves_accepted up idle front others code row is known (congrArg Prod.fst effect) (by rw [logged])
  rw [effect] at serves
  exact ends_of_event runs serves idle interval (nextEvent_accepted idle code (is ▸ places) same.1 same.2 small data) also

theorem ends_enroll (is : u16 c 0 = 0x103) : Ends s i rest .enroll 0 fun m' => s.meter.NextEvent m' 3 ∧ m'.work.authKeys =
    lmod s.meter.work.authKeys (if (s.meter.work.authKeys.getD 0 none).isNone then 0 else 1) (fun _ => some (slice c 48 1312)) := by
  have row := Eq.refl (exec .enroll s)
  conv at row => rhs; dsimp only [exec, execEnroll]
  by_cases unsigned : u16 c 2 = 1360
  · exact ends_event up idle front others code row is (by decide) (by decide) (w := s.meter.work.enrolled (slice c 48 1312)) (by decide)
      (n := s.freeCtr) (congrArg (·, []) (if_pos unsigned)) ⟨rfl, rfl⟩ ⟨rfl, rfl, rfl⟩ fun m' keys _ => keys
  · exact ends_event up idle front others code row is (by decide) (by decide) (w := s.meter.work.enrolled (slice c 48 1312)) (by decide)
      (n := s.freeCtr + 1) (congrArg (·, []) (if_neg unsigned)) ⟨rfl, rfl⟩ ⟨rfl, rfl, rfl⟩ fun m' keys _ => keys

theorem ends_revoke (is : u16 c 0 = 0x104) {key : List Byte} (held : some key ∈ s.meter.work.authKeys) (named : (keyIdOf key).toNat = u64 c 8) :
    Ends s i rest .revoke 0 fun m' => s.meter.NextEvent m' 4 ∧ some key ∉ m'.work.authKeys := by
  have row := Eq.refl (exec .revoke s)
  conv at row => rhs; dsimp only [exec, execRevoke]
  have any : s.meter.work.authKeys.any (keyNamed (u64 c 8)) = true := List.any_eq_true.2 ⟨_, held, beq_iff_eq.2 named⟩
  exact ends_event up idle front others code row is (by decide) (by decide) (w := s.meter.work.revoked (u64 c 8)) (by decide)
    (n := s.freeCtr + 1) (congrArg (fun t : State => (t.newChallenge, [])) (if_pos any)) ⟨rfl, rfl⟩ ⟨rfl, rfl, rfl⟩
    fun m' keys _ => keys ▸ named ▸ s.meter.work.revoked_authKeys key

theorem ends_verified (is : u16 c 0 = 0x105) : Ends s i rest .verified 0 fun m' => s.meter.NextEvent m' 7 ∧ m'.work.sealBroken = false ∧
    m'.work.authKeys = s.meter.work.authKeys := by
  have row := Eq.refl (exec .verified s)
  conv at row => rhs; dsimp only [exec, execVerified]
  exact ends_event up idle front others code row is (by decide) (by decide) (w := { s.meter.work with sealBroken := false }) (by decide)
    (n := s.freeCtr + 1) rfl ⟨rfl, rfl⟩ ⟨rfl, rfl, rfl⟩ fun m' keys broken => ⟨broken, keys⟩

theorem ends_read (is : u16 c 0 = 0x201) {r : List Byte} (held : s.meter.record (u64 c 8) = some r) :
    Ends s i rest .read 0 fun m' => (m'.mbx i).resp = r ∧ m'.work = s.meter.work := by
  have row := Eq.refl (exec .read s)
  conv at row => rhs; dsimp only [exec, execRead]
  obtain ⟨t, runs, serves⟩ := serves_accepted up idle front others code row is (by decide) (n := s.freeCtr) rfl rfl
  have answer : ((s.taken rest).meter.record (u64 c 8)).getD [] = r := congrArg (Option.getD · []) held
  refine ends_of_serves runs serves ⟨rfl, idle⟩ ⟨rfl, rfl, rfl⟩ fun m' posted resp => ⟨resp.trans answer, ?_⟩
  rw [posted]

theorem ends_getCert (is : u16 c 0 = 0x202) : Ends s i rest .getCert 0 fun m' =>
    slice (m'.mbx i).resp 8 8184 = slice certObject (u32 c 8) 8184 ∧ m'.work = s.meter.work := by
  have row := Eq.refl (exec .getCert s)
  conv at row => rhs; dsimp only [exec, execGetCert]
  obtain ⟨t, runs, serves⟩ := serves_accepted up idle front others code row is (by decide) (n := s.freeCtr) rfl rfl
  have answer : slice (natLe 4 certObject.length ++ (natLe 4 (u32 c 8) ++ slice certObject (u32 c 8) 8184)) 8 8184 =
      slice certObject (u32 c 8) 8184 := by
    have head : (natLe 4 certObject.length ++ (natLe 4 (u32 c 8) ++ slice certObject (u32 c 8) 8184)).drop 8 = slice certObject (u32 c 8) 8184 := rfl
    rw [slice, head, slice, List.take_take, Nat.min_self]
  refine ends_of_serves runs serves ⟨rfl, idle⟩ ⟨rfl, rfl, rfl⟩ fun m' posted resp => ⟨resp ▸ answer, ?_⟩
  rw [posted]

end Front

/-! ### CLOSE (R404) -/

/-- An accepted CLOSE waits for the boundary of a poll cycle in progress, and with none cuts at once. -/
theorem MeterSt.takeClose_waits (m : MeterSt) (i : Nat) (c : List Byte) : ∃ j, (m.takeClose i c).closing = some j ∧ j.cmd = c ∧ j.mbx = i ∧
    j.cut.isSome = !m.polling ∧ ((m.takeClose i c).mbx i).state = 2 ∧ (m.takeClose i c).queue = m.queue ∧ (m.takeClose i c).records = m.records ∧
    (m.takeClose i c).work.seq = m.work.seq ∧ (m.takeClose i c).work.reg = m.work.reg := by
  have taken := congrArg Mbx.state (m.mbx_setMbx i { m.mbx i with state := 2 })
  have posted := MeterSt.Posted.setMbx m i { m.mbx i with state := 2 }
  unfold takeClose
  dsimp only
  split
  · next polling =>
    refine ⟨_, rfl, rfl, rfl, by rw [polling]; rfl, taken, ?_, ?_, ?_, ?_⟩
    all_goals rw [posted]
  · next idle =>
    refine ⟨_, rfl, rfl, rfl, by rw [Bool.eq_false_iff.2 idle]; rfl, taken, ?_, ?_, ?_, ?_⟩
    all_goals
      rw [posted]
      rfl

theorem runs_close {s : State} {i : Nat} {c : List Byte} {rest : List (Nat × List Byte)} (up : s.mtrUp = true) (idle : s.meter.closing = none)
    (front : s.meter.queue = (i, c) :: rest) (code : s.meter.code c = 0) (is : u16 c 0 = 0x101) :
    ∃ m' j, RunsMeter .close s s.toDev m' ∧ (m'.mbx i).state = 2 ∧ m'.closing = some j ∧ j.cmd = c ∧ j.mbx = i ∧ m'.queue = rest ∧
      j.cut.isSome = !s.meter.polling ∧ m'.records = s.meter.records ∧ m'.work.seq = s.meter.work.seq ∧ m'.work.reg = s.meter.work.reg := by
  obtain ⟨j, closing, cmd, mbx, cut, state, queue, records, seq, reg⟩ := MeterSt.takeClose_waits { s.meter with queue := rest } i c
  exact ⟨_, j, execClose_accepted up idle front is code, state, closing, cmd, mbx, queue, cut, records, seq, reg⟩

theorem MeterSt.flushEvents_none {m : MeterSt} (h : m.evHeld = []) : m.flushEvents = m := by
  have emptied : ({ m with evHeld := [] } : MeterSt) = m := congrArg (fun held => ({ m with evHeld := held } : MeterSt)) h.symm
  unfold flushEvents
  split
  · rfl
  · rw [h]
    exact emptied

/-- What the record of a CLOSE leaves (R404): its number taken, its time, RECON, and a bank that governs with the new working values. -/
theorem MeterSt.commitClose_eq (m : MeterSt) (j : CloseJob) (cut : MtrWork) :
    ((m.commitClose j cut).closing = none ∧ (m.commitClose j cut).queue = m.queue ∧ (m.commitClose j cut).evHeld = m.evHeld) ∧
    (m.commitClose j cut).recon = cut.reconBad ∧
    (m.commitClose j cut).work = { m.work with seq := m.work.seq + 1, lastClose := some (slice j.cmd 8 16) } ∧
    (m.commitClose j cut).record (m.work.seq + 1) = some j.record ∧
    ∃ b, (m.commitClose j cut).governs = some b ∧ b.work = (m.commitClose j cut).work := by
  unfold commitClose
  generalize named : MeterSt.putRecord _ _ _ = n
  obtain ⟨b, governs, content⟩ := n.governs_writeState false
  obtain ⟨_, _, written⟩ := n.writeState_eq false true
  rw [record_writeState, governs, written]
  subst named
  exact ⟨⟨rfl, rfl, rfl⟩, rfl, rfl, record_putRecord .., b, rfl, content⟩

/-- The commit of a CLOSE with no event held ends its command with code 0. -/
theorem execMeterRecordCommit_serves {s : State} {j : CloseJob} {cut : MtrWork} (up : s.mtrUp = true) (free : s.meter.inhibit = false)
    (closing : s.meter.closing = some j) (is_cut : j.cut = some cut) (none_held : s.meter.evHeld = [])
    (known : ∀ e ∈ s.meter.queue, mtrKnown (u16 e.2 0) = true) : ∃ t ch, execMeterRecordCommit s = .next t ∧
    Serves s j.mbx 0 [] { s.meter.commitClose j cut with challenge := ch } t := by
  obtain ⟨⟨-, queue, held⟩, -⟩ := s.meter.commitClose_eq j cut
  obtain ⟨ch, drawn⟩ := State.newChallenge_eq { s with meter := s.meter.commitClose j cut }
  have flushed : ({ s.meter.commitClose j cut with challenge := ch } : MeterSt).flushEvents = { s.meter.commitClose j cut with challenge := ch } :=
    MeterSt.flushEvents_none (held.trans none_held)
  have effect : ({ s with meter := s.meter.commitClose j cut } : State).newChallenge.modMeter MeterSt.flushEvents =
      { s with toDev := { s.toDev with freeCtr := s.freeCtr + 1 }, meter := { s.meter.commitClose j cut with challenge := ch } } := by
    rw [drawn, State.modMeter]
    exact congrArg (fun m => ({ s with toDev := { s.toDev with freeCtr := s.freeCtr + 1 }, meter := m } : State)) flushed
  have ends := (State.mbxEnd_serves effect j.mbx 0 []).dropUnknown (queue ▸ known)
  refine ⟨_, ch, ?_, ends⟩
  unfold execMeterRecordCommit
  rw [up, free, closing]
  dsimp only
  rw [is_cut]
  rfl

/-- What the statement says of METER_RECORD_COMMIT. -/
theorem runs_meterRecordCommit {s : State} {j : CloseJob} {cut : MtrWork} (up : s.mtrUp = true) (free : s.meter.inhibit = false)
    (closing : s.meter.closing = some j) (is_cut : j.cut = some cut) (none_held : s.meter.evHeld = [])
    (known : ∀ e ∈ s.meter.queue, mtrKnown (u16 e.2 0) = true) : ∃ d m', RunsMeter .meterRecordCommit s d m' ∧ m'.closing = none ∧
    m'.work = { s.meter.work with seq := s.meter.work.seq + 1, lastClose := some (slice j.cmd 8 16) } ∧
    m'.record (s.meter.work.seq + 1) = some j.record ∧ (m'.mbx j.mbx).state = 3 ∧ (m'.mbx j.mbx).code = 0 ∧ m'.recon = cut.reconBad ∧
    (∃ b, m'.governs = some b ∧ b.work = m'.work) := by
  obtain ⟨⟨ended, -⟩, recon, work, record, b, governs, content⟩ := s.meter.commitClose_eq j cut
  obtain ⟨t, ch, runs, d, m', rfl, done, code, -, posted, -⟩ := execMeterRecordCommit_serves up free closing is_cut none_held known
  refine ⟨d, m', runs, ?_, ?_, ?_, done, code, ?_, b, ?_, ?_⟩
  · rw [posted]; exact ended
  · rw [posted]; exact work
  · rw [posted]; exact record
  · rw [posted]; exact recon
  · rw [posted]; exact governs
  · rw [posted]; exact content

/-- Settles O59. -/
theorem meterCommands : Obligations.MeterCommands := by
  intro s
  refine ⟨fun b cmd works free1 free2 => ⟨fun present down => ?_, fun present waiting this => ?_, runs_meter_absent works free1 free2⟩,
    fun i c rest up idle front others => ⟨fun code cmd named => ?_, fun code _ => ⟨?_, ?_, ?_, ?_, ?_, ?_, ?_⟩⟩,
    fun j cut up free closing is_cut none_held _ known => runs_meterRecordCommit up free closing is_cut none_held known⟩
  · obtain ⟨m', runs, queue, state, work⟩ := runs_meter_waits (cmd := cmd) works free1 free2 present fun up => nomatch down.symm.trans up
    exact ⟨m', runs, ⟨_, queue, rfl⟩, state, work⟩
  · refine runs_meter_waits works free1 free2 present fun _ e he => ?_
    obtain old | new := List.mem_append.1 he
    · exact waiting e old
    · exact List.mem_singleton.1 new ▸ this
  · obtain ⟨t, runs, serves⟩ := serves_refused up idle front others code named
    refine ends_of_serves (p := fun m' => m'.work = s.meter.work ∧ m'.records = s.meter.records ∧ m'.challenge = s.meter.challenge) runs serves
      ⟨rfl, idle⟩ ⟨rfl, rfl, rfl⟩ fun m' posted _ => ?_
    rw [posted]
    exact ⟨rfl, rfl, rfl⟩
  · exact fun is => ends_ack up idle front others code is
  · exact fun is _ => ends_enroll up idle front others code is
  · exact fun is key held named => ends_revoke up idle front others code is held named
  · exact fun is => ends_verified up idle front others code is
  · exact fun is r held => ends_read up idle front others code is held
  · exact fun is => ends_getCert up idle front others code is
  · exact fun is => runs_close up idle front code is

end Sys2Proof.Machine
end

section
/-!
PROOFS. The measured energy divided among the accounts, and its place in the interval record (R399, R406).
-/
namespace Sys2Proof.Machine

/-! ### Ranks by discarded fraction (R399) -/

/-- A list's sum over the first numbers, as a sum over a set. -/
theorem sum_map_range (f : Nat → Nat) (n : Nat) : ((List.range n).map f).sum = ∑ i ∈ Finset.range n, f i := rfl

/-- How many of a range a test takes, as the size of a set. -/
theorem length_filter_range (p : Nat → Bool) (n : Nat) : ((List.range n).filter p).length = ((Finset.range n).filter (p · = true)).card := by
  rw [← List.countP_eq_length_filter]
  induction n with
  | zero => rfl
  | succ n ih =>
    rw [List.range_succ, List.countP_append, ih, Finset.range_add_one, Finset.filter_insert]
    split
    · next taken => rw [Finset.card_insert_of_notMem (by simp), List.countP_singleton, taken]; rfl
    · next skipped => rw [List.countP_singleton, Bool.eq_false_iff.2 skipped]; rfl

/-- Account `j` comes before `i`: a larger fraction discarded, or the same and a lower number. -/
def Before (frac : Nat → Nat) (j i : Nat) : Prop := frac i < frac j ∨ (frac i = frac j ∧ j < i)

/-- The place of an account in the order of the discarded fractions. -/
def rankOf (frac : Nat → Nat) (n i : Nat) : Nat :=
  ((List.range n).filter fun j => decide (frac i < frac j) || (frac j == frac i && decide (j < i))).length

theorem rankOf_eq (frac : Nat → Nat) (n i : Nat) [DecidablePred (Before frac · i)] :
    rankOf frac n i = ((Finset.range n).filter (Before frac · i)).card := by
  rw [rankOf, length_filter_range]
  congr 1
  refine Finset.filter_congr fun j _ => ?_
  simp only [Before, Bool.or_eq_true, Bool.and_eq_true, decide_eq_true_eq, beq_iff_eq, eq_comm (a := frac j)]

section Rank
variable {frac : Nat → Nat} {n i j : Nat}

/-- An account before another has a lower place. -/
theorem rankOf_lt (inside : j < n) (before : Before frac j i) : rankOf frac n j < rankOf frac n i := by
  classical
  rw [rankOf_eq, rankOf_eq]
  refine Finset.card_lt_card ((Finset.ssubset_iff_of_subset fun k hk => ?_).2 ⟨j, ?_, ?_⟩)
  · obtain ⟨below, earlier⟩ := Finset.mem_filter.1 hk
    refine Finset.mem_filter.2 ⟨below, ?_⟩
    unfold Before at *
    omega
  · exact Finset.mem_filter.2 ⟨Finset.mem_range.2 inside, before⟩
  · intro self
    have := (Finset.mem_filter.1 self).2
    unfold Before at this
    omega

/-- Every account has a place among the accounts. -/
theorem rankOf_lt_length (inside : i < n) : rankOf frac n i < n := by
  classical
  rw [rankOf_eq]
  have others : (Finset.range n).filter (Before frac · i) ⊆ (Finset.range n).erase i := fun k hk => by
    obtain ⟨below, earlier⟩ := Finset.mem_filter.1 hk
    refine Finset.mem_erase.2 ⟨?_, below⟩
    rintro rfl
    unfold Before at earlier
    omega
  have few := Finset.card_le_card others
  rw [Finset.card_erase_of_mem (Finset.mem_range.2 inside), Finset.card_range] at few
  omega

/-- Of two accounts the one with the lower place is before the other. -/
theorem before_of_rankOf_lt (inside : i < n) (lower : rankOf frac n j < rankOf frac n i) : Before frac j i := by
  by_contra other
  obtain rfl | before : i = j ∨ Before frac i j := by
    unfold Before at *
    omega
  · exact absurd lower (Nat.lt_irrefl _)
  · exact absurd (rankOf_lt inside before) (Nat.lt_asymm lower)

/-- So as many accounts as there are places below `r` have such a place. -/
theorem card_rankOf_lt {r : Nat} (le : r ≤ n) : ((Finset.range n).filter (rankOf frac n · < r)).card = r := by
  have distinct : Set.InjOn (rankOf frac n) (Finset.range n) := by
    intro i hi j hj same
    by_contra other
    obtain before | before : Before frac i j ∨ Before frac j i := by
      unfold Before
      omega
    · exact absurd same (Nat.ne_of_lt (rankOf_lt (Finset.mem_range.1 hi) before))
    · exact absurd same (Nat.ne_of_gt (rankOf_lt (Finset.mem_range.1 hj) before))
  have all : (Finset.range n).image (rankOf frac n) = Finset.range n := by
    refine Finset.eq_of_subset_of_card_le (fun k hk => ?_) (by rw [Finset.card_image_of_injOn distinct])
    obtain ⟨i, hi, rfl⟩ := Finset.mem_image.1 hk
    exact Finset.mem_range.2 (rankOf_lt_length (Finset.mem_range.1 hi))
  have places : ((Finset.range n).filter (rankOf frac n · < r)).image (rankOf frac n) = Finset.range r := by
    rw [← Finset.filter_image (p := (· < r)), all]
    ext k
    simp only [Finset.mem_filter, Finset.mem_range]
    omega
  rw [← Finset.card_image_of_injOn (distinct.mono (Finset.filter_subset ..)), places, Finset.card_range]

end Rank

/-! ### The shares -/

/-- The shares where something was attributed. -/
theorem apportion_eq {e : Nat} {a : Nat → Nat} {tot : Nat} (is : ((List.range 97).map a).sum = tot) (some : 0 < tot) :
    apportion e a = (List.range 97).map fun i => e * a i / tot +
      b2n (decide (rankOf (fun i => e * a i % tot) 97 i < e - ((List.range 97).map fun i => e * a i / tot).sum)) := by
  unfold apportion
  rw [is]
  exact if_neg some.ne'

/-- What remains after the truncated shares is below the number of accounts. -/
theorem remainder_lt {e : Nat} {a : Nat → Nat} {tot n : Nat} (is : ∑ i ∈ Finset.range n, a i = tot) (some : 0 < tot) :
    ∑ i ∈ Finset.range n, e * a i / tot ≤ e ∧ e - ∑ i ∈ Finset.range n, e * a i / tot ≤ n := by
  have whole : tot * ∑ i ∈ Finset.range n, e * a i / tot + ∑ i ∈ Finset.range n, e * a i % tot = tot * e := by
    rw [Finset.mul_sum, ← Finset.sum_add_distrib, Finset.sum_congr rfl fun i _ => Nat.div_add_mod (e * a i) tot, ← Finset.mul_sum, is, Nat.mul_comm]
  have fractions : ∑ i ∈ Finset.range n, e * a i % tot ≤ tot * n := by
    refine (Finset.sum_le_card_nsmul _ _ tot fun i _ => (Nat.mod_lt _ some).le).trans ?_
    rw [Finset.card_range, smul_eq_mul, Nat.mul_comm]
  have le : ∑ i ∈ Finset.range n, e * a i / tot ≤ e := by
    refine Nat.le_of_mul_le_mul_left ?_ some
    omega
  refine ⟨le, Nat.le_of_mul_le_mul_left ?_ some⟩
  rw [Nat.mul_sub]
  omega

theorem b2n_decide_eq_one (p : Prop) [Decidable p] : b2n (decide p) = 1 ↔ p := by
  by_cases h : p
  · simp only [b2n, h, decide_true, if_true]
  · simp only [b2n, h, decide_false, if_false, Bool.false_eq_true, Nat.zero_ne_one]

theorem b2n_decide_eq_zero (p : Prop) [Decidable p] : b2n (decide p) = 0 ↔ ¬p := by
  by_cases h : p
  · simp only [b2n, h, decide_true, if_true, Nat.one_ne_zero, not_true_eq_false]
  · simp only [b2n, h, decide_false, if_false, Bool.false_eq_true, not_false_eq_true]

theorem sum_b2n_decide (p : Nat → Prop) [DecidablePred p] (n : Nat) :
    ∑ i ∈ Finset.range n, b2n (decide (p i)) = ((Finset.range n).filter p).card := by
  rw [Finset.card_filter]
  refine Finset.sum_congr rfl fun i _ => ?_
  by_cases h : p i
  · rw [decide_eq_true h, if_pos h]; rfl
  · rw [decide_eq_false h, if_neg h]; rfl

theorem apportion_sum (e : Nat) (a : Nat → Nat) : (apportion e a).sum = e := by
  cases is : ((List.range 97).map a).sum with
  | zero =>
    unfold apportion
    rw [is]
    exact (List.sum_append ..).trans (by rw [List.sum_replicate, smul_zero, zero_add, List.sum_singleton])
  | succ tot =>
    obtain ⟨le, few⟩ := remainder_lt (e := e) (n := 97) is tot.succ_pos
    rw [apportion_eq is tot.succ_pos, sum_map_range fun i => e * a i / (tot + 1)]
    rw [sum_map_range, Finset.sum_add_distrib, sum_b2n_decide, card_rankOf_lt few]
    omega

theorem apportion_length (e : Nat) (a : Nat → Nat) : (apportion e a).length = 97 := by
  unfold apportion
  dsimp only
  split
  · rfl
  · rw [List.length_map, List.length_range]

/-- An account's share where something was attributed: truncated, and one more at a place below the remainder. -/
theorem apportion_getD {e : Nat} {a : Nat → Nat} {tot i : Nat} (is : ((List.range 97).map a).sum = tot) (some : 0 < tot) (inside : i < 97) :
    (apportion e a).getD i 0 = e * a i / tot +
      b2n (decide (rankOf (fun i => e * a i % tot) 97 i < e - ((List.range 97).map fun i => e * a i / tot).sum)) := by
  rw [apportion_eq is some, List.getD_eq_getElem?_getD, List.getElem?_map, List.getElem?_range inside]
  rfl

/-- The accounts that get one more are before the others. -/
theorem apportion_order {e : Nat} {a : Nat → Nat} {tot i : Nat} (is : ((List.range 97).map a).sum = tot) (some : 0 < tot) (inside : i < 97) :
    ((apportion e a).getD i 0 = e * a i / tot ∨ (apportion e a).getD i 0 = e * a i / tot + 1) ∧
    ∀ j < 97, (apportion e a).getD i 0 = e * a i / tot + 1 → (apportion e a).getD j 0 = e * a j / tot →
      Before (fun i => e * a i % tot) i j := by
  rw [apportion_getD is some inside]
  refine ⟨?_, fun j inside' more same => ?_⟩
  · cases decide (rankOf (fun i => e * a i % tot) 97 i < e - ((List.range 97).map fun i => e * a i / tot).sum)
    · exact .inl rfl
    · exact .inr rfl
  · rw [apportion_getD is some inside'] at same
    refine before_of_rankOf_lt inside' ?_
    have low := (b2n_decide_eq_one _).1 (Nat.add_left_cancel more)
    have high := (b2n_decide_eq_zero _).1 (Nat.add_left_cancel same)
    omega

/-- With nothing attributed the operator receives all. -/
theorem apportion_none {e : Nat} {a : Nat → Nat} (none : ((List.range 97).map a).sum = 0) :
    (apportion e a).getD 96 0 = e ∧ ∀ i < 96, (apportion e a).getD i 0 = 0 := by
  rw [apportion, if_pos none]
  refine ⟨rfl, fun i below => ?_⟩
  rw [List.getD_eq_getElem?_getD, List.getElem?_append_left (by rw [List.length_replicate]; exact below), List.getElem?_replicate, if_pos below]
  rfl

/-! ### The account entries of an interval record (R406) -/

/-- An eight-byte field. -/
theorem u64_field (a z : List Byte) (v : Nat) : u64 (a ++ (natLe 8 v ++ z)) a.length = v % 2 ^ 64 := by
  have low : u32 (a ++ (natLe 8 v ++ z)) a.length = v % 2 ^ 32 := u32_at a (natLe 4 (v / 256 / 256 / 256 / 256) ++ z) v
  have high := u32_at (a ++ natLe 4 v) z (v / 256 / 256 / 256 / 256)
  rw [List.length_append, length_natLe, List.append_assoc] at high
  have same : u32 (a ++ (natLe 8 v ++ z)) (a.length + 4) = v / 256 / 256 / 256 / 256 % 2 ^ 32 := high
  rw [u64, low, same]
  omega

/-- The entry of one account: its energy, its number, 255 for the operator's, and reserved bytes. -/
def accountEntry (acc : List Nat) (i : Nat) : List Byte := natLe 8 (acc.getD i 0) ++ (natLe 1 (if i = 96 then 255 else i) ++ List.replicate 7 0)

/-- The entry's account, 255 for the operator's. -/
theorem accountEntry_code (acc : List Nat) (i : Nat) (z : List Byte) : u8 (accountEntry acc i ++ z) 8 = if i = 96 then 255 else i % 256 := by
  have code : u8 (accountEntry acc i ++ z) 8 = (if i = 96 then 255 else i) % 256 := rfl
  rw [code]
  split
  · rfl
  · rfl

theorem accountEntries_length (acc accounts : List Nat) : (accounts.flatMap (accountEntry acc)).length = 16 * accounts.length := by
  induction accounts with
  | nil => rfl
  | cons i accounts ih =>
    have entry : (accountEntry acc i).length = 16 := rfl
    rw [List.flatMap_cons, List.length_append, ih, entry, List.length_cons]
    omega

/-- The entry at a place of the list of accounts. -/
theorem accountEntries_split (acc : List Nat) {accounts : List Nat} {i : Nat} (inside : i < accounts.length) (z : List Byte) :
    ∃ pre post, pre.length = 16 * i ∧ accounts.flatMap (accountEntry acc) ++ z = pre ++ (accountEntry acc (accounts.getD i 96) ++ post) := by
  refine ⟨(accounts.take i).flatMap (accountEntry acc), (accounts.drop (i + 1)).flatMap (accountEntry acc) ++ z, ?_, ?_⟩
  · rw [accountEntries_length, List.length_take_of_le inside.le]
  · have split : accounts = accounts.take i ++ accounts.getD i 96 :: accounts.drop (i + 1) := by
      rw [List.getD_eq_getElem _ _ inside, List.cons_getElem_drop_succ, List.take_append_drop]
    conv => lhs; rw [split]
    rw [List.flatMap_append, List.flatMap_cons, List.append_assoc, List.append_assoc]

theorem flatMap_natLe8_length (l : List Nat) (f : Nat → Nat) : (l.flatMap fun d => natLe 8 (f d)).length = 8 * l.length := by
  induction l with
  | nil => rfl
  | cons d l ih =>
    rw [List.flatMap_cons, List.length_append, ih, length_natLe, List.length_cons]
    omega

theorem slice_length (b : List Byte) {i n : Nat} (whole : i + n ≤ b.length) : (slice b i n).length = n := by
  rw [slice, List.length_take, List.length_drop]
  omega

/-- The 1,288 bytes of an interval record before its account entries (R406). -/
def MeterSt.intervalHead (m : MeterSt) (w : MtrWork) (seq : Nat) (digest : BitVec 256) (cmd : List Byte) : List Byte :=
  [natLe 4 0x4D5A4C45, natLe 2 1, natLe 2 1, natLe 8 seq, slice cmd 8 16, slice (w.tsOpen ++ List.replicate 16 0) 0 16,
    natLe 8 (uj w.eIn), natLe 8 (uj w.reg), natLe 8 (uj w.eOut), natLe 8 w.eDom, natLe 8 (BitVec.ofInt 64 w.resid).toNat,
    natLe 4 w.flagsNow, natLe 2 (w.stalls.length + 1), natLe 2 w.nmap, digestBytes digest, digestBytes m.fwDigest,
    natLe 8 meterKeyId.toNat, slice cmd 40 8, slice cmd 24 16, natLe 8 w.nsamp, List.replicate 56 0,
    (List.range 129).flatMap (fun d => natLe 8 (tget 0 w.dom d / 1000))].flatten

theorem MeterSt.intervalHead_length (m : MeterSt) (w : MtrWork) (seq : Nat) (digest : BitVec 256) {cmd : List Byte} (whole : 48 ≤ cmd.length) :
    (m.intervalHead w seq digest cmd).length = 1288 := by
  have opened : (slice (w.tsOpen ++ List.replicate 16 0) 0 16).length = 16 :=
    slice_length _ (by rw [List.length_append, List.length_replicate]; omega)
  have time : (slice cmd 8 16).length = 16 := slice_length _ (by omega)
  have key : (slice cmd 40 8).length = 8 := slice_length _ (by omega)
  have challenge : (slice cmd 24 16).length = 16 := slice_length _ (by omega)
  simp only [intervalHead, digestBytes, List.flatten_cons, List.flatten_nil, List.length_append, length_natLe, List.length_replicate, List.length_nil,
    flatMap_natLe8_length, List.length_range, opened, time, key, challenge]

/-- The account entries follow, and whole, where there are no more than 97. -/
theorem MeterSt.intervalRecord_eq (m : MeterSt) (w : MtrWork) (seq : Nat) (digest : BitVec 256) (cmd : List Byte) (few : w.stalls.length ≤ 96) :
    ∃ z, m.intervalRecord w seq digest cmd = m.intervalHead w seq digest cmd ++
      ((w.stalls ++ [96]).flatMap (accountEntry (apportion (uj w.eIn) fun i => tget 0 w.acct i)) ++ z) := by
  have fits : ((w.stalls ++ [96]).flatMap (accountEntry (apportion (uj w.eIn) fun i => tget 0 w.acct i))).length ≤ 1552 := by
    rw [accountEntries_length, List.length_append, List.length_singleton]
    omega
  have rows : slice ((w.stalls ++ [96]).flatMap (accountEntry (apportion (uj w.eIn) fun i => tget 0 w.acct i)) ++ List.replicate 1552 0) 0 1552 =
      (w.stalls ++ [96]).flatMap (accountEntry (apportion (uj w.eIn) fun i => tget 0 w.acct i)) ++ List.replicate
        (1552 - ((w.stalls ++ [96]).flatMap (accountEntry (apportion (uj w.eIn) fun i => tget 0 w.acct i))).length) 0 := by
    rw [slice, List.drop_zero, List.take_append, List.take_of_length_le fits, List.take_replicate, Nat.min_eq_left (Nat.sub_le ..)]
  unfold accountEntry at rows ⊢
  unfold intervalRecord sealRecord intervalHead
  dsimp only
  rw [rows]
  simp only [List.flatten_cons, List.flatten_nil, List.append_assoc]
  exact ⟨_, rfl⟩

/-- Settles O57: what remains after truncation goes to the places below it in the order of the discarded fractions, and each account has one
place. -/
theorem energyApportionment : Obligations.EnergyApportionment := by
  refine ⟨fun e a => ⟨apportion_length e a, apportion_sum e a, apportion_none, fun some i inside => apportion_order (e := e) rfl some inside⟩,
    fun m w seq dg cmd i whole _ few inside => ?_⟩
  have listed : i < (w.stalls ++ [96]).length := by
    rw [List.length_append, List.length_singleton]
    omega
  have head := m.intervalHead_length w seq dg whole
  obtain ⟨z, record⟩ := m.intervalRecord_eq w seq dg cmd few
  obtain ⟨pre, post, place, entry⟩ := accountEntries_split (apportion (uj w.eIn) fun j => tget 0 w.acct j) listed z
  have start : (m.intervalHead w seq dg cmd ++ pre).length = 1288 + 16 * i := by rw [List.length_append, head, place]
  dsimp only
  rw [record, entry, ← List.append_assoc, ← start]
  refine ⟨u64_field _ _ _, ?_⟩
  rw [u8_append]
  exact accountEntry_code ..

end Sys2Proof.Machine
end

section
/-!
PROOFS. What the meter measures, how a poll cycle's energy is attributed, and its state writes (R388 to R398, R409 to R413).
-/
namespace Sys2Proof.Machine

/-! ### Amounts added up by key -/

theorem tget_tmod (t : Tab Nat) (i j : Nat) (f : Nat → Nat) : tget 0 (tmod 0 t i f) j = if j = i then f (tget 0 t i) else tget 0 t j :=
  tget_tset ..

/-- Amounts added under other keys leave a key. -/
theorem tget_foldl_tmod_other (l : List Nat) (key x : Nat → Nat) (t : Tab Nat) {d : Nat} (other : ∀ j ∈ l, key j ≠ d) :
    tget 0 (l.foldl (fun t j => tmod 0 t (key j) (· + x j)) t) d = tget 0 t d := by
  induction l generalizing t with
  | nil => rfl
  | cons a l ih =>
    rw [List.foldl_cons, ih _ fun j hj => other j (List.mem_cons_of_mem _ hj), tget_tmod, if_neg (Ne.symm (other a List.mem_cons_self))]

/-- Amounts added under distinct keys: each key gets its own. -/
theorem tget_foldl_tmod {l : List Nat} {key : Nat → Nat} (x : Nat → Nat) (t : Tab Nat) (distinct : (l.map key).Nodup) {j : Nat} (listed : j ∈ l) :
    tget 0 (l.foldl (fun t j => tmod 0 t (key j) (· + x j)) t) (key j) = tget 0 t (key j) + x j := by
  induction l generalizing t with
  | nil => exact nomatch listed
  | cons a l ih =>
    obtain ⟨fresh, distinct⟩ := List.nodup_cons.1 distinct
    rw [List.foldl_cons]
    obtain rfl | listed := List.mem_cons.1 listed
    · rw [tget_foldl_tmod_other l key x _ fun i hi same => fresh (List.mem_map.2 ⟨i, hi, same⟩), tget_tmod, if_pos rfl]
    · rw [ih _ distinct listed, tget_tmod, if_neg fun same => fresh (List.mem_map.2 ⟨j, listed, same⟩)]

/-- What the accounts hold in all. -/
def accountsTotal (t : Tab Nat) : Nat := ((List.range 97).map fun k => tget 0 t k).sum

/-- An amount under any key adds no more than itself. -/
theorem accountsTotal_tmod_le (t : Tab Nat) (i x : Nat) : accountsTotal (tmod 0 t i (· + x)) ≤ accountsTotal t + x := by
  unfold accountsTotal
  rw [sum_map_range, sum_map_range]
  have each (k : Nat) : tget 0 (tmod 0 t i (· + x)) k = tget 0 t k + if k = i then x else 0 := by
    rw [tget_tmod]
    split
    · next same => rw [same]
    · rfl
  rw [Finset.sum_congr rfl fun k _ => each k, Finset.sum_add_distrib, Finset.sum_ite_eq']
  split
  · exact Nat.le_refl _
  · exact Nat.add_le_add_left (Nat.zero_le _) _

theorem accountsTotal_foldl_le (l : List Nat) (key x : Nat → Nat) (t : Tab Nat) :
    accountsTotal (l.foldl (fun t j => tmod 0 t (key j) (· + x j)) t) ≤ accountsTotal t + (l.map x).sum := by
  induction l generalizing t with
  | nil => exact Nat.le_add_right ..
  | cons a l ih =>
    rw [List.foldl_cons, List.map_cons, List.sum_cons]
    have := accountsTotal_tmod_le t (key a) (x a)
    have := ih (tmod 0 t (key a) (· + x a))
    omega

/-- Truncated shares of a pool come to no more than the pool. -/
theorem sum_shares_le (pool n : Nat) (unit : Nat → Nat) {tot : Nat} (whole : ∑ k ∈ Finset.range n, unit k ≤ tot) (some : 0 < tot) :
    ∑ k ∈ Finset.range n, pool * unit k / tot ≤ pool := by
  refine Nat.le_of_mul_le_mul_left ?_ some
  calc tot * ∑ k ∈ Finset.range n, pool * unit k / tot
      = ∑ k ∈ Finset.range n, tot * (pool * unit k / tot) := Finset.mul_sum ..
    _ ≤ ∑ k ∈ Finset.range n, pool * unit k := Finset.sum_le_sum fun k _ => Nat.mul_div_le ..
    _ = pool * ∑ k ∈ Finset.range n, unit k := (Finset.mul_sum ..).symm
    _ ≤ tot * pool := by rw [Nat.mul_comm tot]; exact Nat.mul_le_mul_left _ whole

theorem shareOut_le (pool : Nat) (unit : Nat → Nat) (acct : Tab Nat) : accountsTotal (shareOut pool unit acct) ≤ accountsTotal acct + pool := by
  unfold shareOut
  dsimp only
  split
  · exact Nat.le_add_right ..
  · next some =>
    refine (accountsTotal_foldl_le ..).trans (Nat.add_le_add_left ?_ _)
    exact sum_shares_le pool 96 unit (Nat.le_refl _) (Nat.pos_of_ne_zero some)

/-- Every cluster counts for one account at most. -/
theorem sum_held_le (account : Nat → Nat) (n m : Nat) :
    ∑ k ∈ Finset.range n, ((List.range m).filter fun c => account c == k).length ≤ m := by
  have each (k : Nat) : ((List.range m).filter fun c => account c == k).length = ((Finset.range m).filter (account · = k)).card := by
    rw [length_filter_range]
    simp only [beq_iff_eq]
  rw [Finset.sum_congr rfl fun k _ => each k]
  rw [Finset.sum_card_fiberwise_eq_card_filter]
  exact (Finset.card_filter_le ..).trans (Finset.card_range m).le

/-! ### A poll cycle's end (R395, R398) -/

/-- A domain's energy of a cycle, in nJ. -/
def MeterSt.domainEnergy (m : MeterSt) (mv d : Nat) : Nat := tget 0 m.dq d * mv

/-- The domains in the four groups by which R398 attributes them. -/
theorem sum_domains (e : Nat → Nat) : ∑ d ∈ Finset.range 129, e d =
    ∑ c ∈ Finset.range 96, e c + ∑ i ∈ Finset.range 24, e (96 + i) + ∑ i ∈ Finset.range 8, e (120 + i) + e 128 := by
  have groups := Finset.sum_range_add e (96 + 24 + 8) 1
  rw [Finset.sum_range_add e (96 + 24) 8, Finset.sum_range_add e 96 24, Finset.sum_range_one] at groups
  exact groups

section Attribution
variable (m : MeterSt) (mv : Nat)

/-- The accounts after the energy of the clusters. -/
def MeterSt.clusterShares : Tab Nat := (List.range 96).foldl (fun t c => tmod 0 t (mapAccount m.map c) (· + m.domainEnergy mv c)) m.work.acct

/-- After the energy of the domains 96 to 119. -/
def MeterSt.bankShares : Tab Nat :=
  shareOut ((List.range 24).map fun i => m.domainEnergy mv (96 + i)).sum (fun k => tget 0 m.du (4 * k + 0)) (m.clusterShares mv)

/-- After the energy of the domains 120 to 127. -/
def MeterSt.ringShares : Tab Nat :=
  shareOut ((List.range 8).map fun i => m.domainEnergy mv (120 + i)).sum
    (fun k => tget 0 m.du (4 * k + 1) + tget 0 m.du (4 * k + 2) + 9 * tget 0 m.du (4 * k + 3)) (m.bankShares mv)

/-- An account's part of the energy of the domain 128, by the clusters that it holds. -/
def MeterSt.hubShare (k : Nat) : Nat :=
  m.domainEnergy mv 128 * ((List.range 96).filter fun c => mapAccount m.map c == k).length / 96

/-- After the energy of the domain 128. -/
def MeterSt.hubShares : Tab Nat := (List.range 97).foldl (fun t k => tmod 0 t k (· + m.hubShare mv k)) (m.ringShares mv)

/-- The domains' energies of the interval, with the cycle's. -/
def MeterSt.domainTotals : Tab Nat := (List.range 129).foldl (fun t d => tmod 0 t d (· + m.domainEnergy mv d)) m.work.dom

/-- The accounts receive no more than the domains drew. -/
theorem MeterSt.hubShares_le :
    accountsTotal (m.hubShares mv) ≤ accountsTotal m.work.acct + ∑ d ∈ Finset.range 129, m.domainEnergy mv d := by
  have clusters : accountsTotal (m.clusterShares mv) ≤ accountsTotal m.work.acct + ∑ c ∈ Finset.range 96, m.domainEnergy mv c :=
    accountsTotal_foldl_le ..
  have banks : accountsTotal (m.bankShares mv) ≤ accountsTotal (m.clusterShares mv) + ∑ i ∈ Finset.range 24, m.domainEnergy mv (96 + i) :=
    shareOut_le ..
  have rings : accountsTotal (m.ringShares mv) ≤ accountsTotal (m.bankShares mv) + ∑ i ∈ Finset.range 8, m.domainEnergy mv (120 + i) :=
    shareOut_le ..
  have hub : accountsTotal (m.hubShares mv) ≤ accountsTotal (m.ringShares mv) + ∑ k ∈ Finset.range 97, m.hubShare mv k :=
    accountsTotal_foldl_le (List.range 97) (fun k => k) ..
  have shares : ∑ k ∈ Finset.range 97, m.hubShare mv k ≤ m.domainEnergy mv 128 :=
    sum_shares_le _ 97 _ (sum_held_le (mapAccount m.map) 97 96) (by decide)
  rw [sum_domains]
  omega

/-- Each domain's energy joins the interval. -/
theorem MeterSt.tget_domainTotals {d : Nat} (inside : d < 129) : tget 0 (m.domainTotals mv) d = tget 0 m.work.dom d + tget 0 m.dq d * mv := by
  have distinct : ((List.range 129).map fun d => d).Nodup := by
    rw [List.map_id']
    exact List.nodup_range
  exact tget_foldl_tmod (m.domainEnergy mv) m.work.dom distinct (List.mem_range.2 inside)

/-- The meter at the end of a poll cycle: its energies joined to the interval, and the cycle counted. -/
def MeterSt.cycleEnded : MeterSt :=
  { m with
    work := { m.work with acct := m.hubShares mv, dom := m.domainTotals mv }, dq := [], du := [], heartbeat := m.heartbeat + 1, cycle := m.cycle + 1,
    regShown := BitVec.ofNat 64 (uj m.work.reg) }

end Attribution

theorem execMeterPoll_up {s : State} (up : s.mtrUp = true) (mv : Nat) : execMeterPoll mv s =
    .next { s with meter := (if s.meter.polling then s.meter.cycleEnded mv else s.meter).cutNow.beginCycle } := by
  unfold execMeterPoll
  rw [up]
  rfl

/-- With no CLOSE under way nothing is cut. -/
theorem MeterSt.cutNow_idle {m : MeterSt} (idle : m.closing = none) : m.cutNow = m := by
  rw [cutNow, idle]

/-- A cycle's begin (R396): beside the interval's map and its FLAGS, the meter is as it was. -/
theorem MeterSt.beginCycle_eq (m : MeterSt) : ∃ nmap stalls flags map next, m.beginCycle = { m with
    polling := true, poll := m.poll + 1, work := { m.work with nmap := nmap, stalls := stalls, flags := flags }, map := map, nextMap := next } ∧
    ∀ p, m.nextMap = some p → map = some p ∧ next = none ∧ nmap = m.work.nmap + 1 := by
  unfold beginCycle
  dsimp only
  split
  · next p arrived =>
    refine ⟨_, _, m.work.flags, _, _, rfl, fun q arrived' => ⟨?_, rfl, rfl⟩⟩
    exact arrived.symm.trans arrived'
  · next none_ =>
    split
    · exact ⟨m.work.nmap, m.work.stalls, _, m.map, m.nextMap, rfl, fun p arrived => nomatch none_.symm.trans arrived⟩
    · exact ⟨m.work.nmap, m.work.stalls, m.work.flags, m.map, m.nextMap, rfl, fun p arrived => nomatch none_.symm.trans arrived⟩

end Sys2Proof.Machine
end

section
/-!
PROOFS. Samples, replies of the sense buses, maps, state writes and the inhibit (R388 to R396, R409 to R413).
-/
namespace Sys2Proof.Machine

/-- The domains of a source's charges are distinct (R393). -/
theorem domainOf_distinct (src : Fin 9) : ((List.range (if src.val = 8 then 1 else 16)).map (domainOf src.val)).Nodup := by
  revert src
  decide

/-- A source's reply. -/
def State.reply (s : State) (k : Nat) (charges : List W32) : SenseLast :=
  { charge := charges.map BitVec.toNat, usage := if k = 8 then [] else s.usageOf k, at_ := s.meter.cycle }

/-- The meter after a good reply that follows an earlier one in time. -/
def MeterSt.sensed (m : MeterSt) (k : Nat) (now old : SenseLast) : MeterSt :=
  { m with
    last := tset none m.last k (some now),
    dq := (List.range (if k = 8 then 1 else 16)).foldl
      (fun t j => tmod 0 t (domainOf k j) (· + (now.charge.getD j 0 + 2 ^ 32 - old.charge.getD j 0) % 2 ^ 32)) m.dq,
    du := (List.range (if k = 8 then 0 else 384)).foldl
      (fun t j => tmod 0 t j (· + (now.usage.getD j 0 + 2 ^ 48 - old.usage.getD j 0) % 2 ^ 48)) m.du }

theorem execSenseReply_good {s : State} {src : Fin 9} {charges : List W32} {us : Nat} {old : SenseLast} (up : s.mtrUp = true) (soon : us ≤ 1000)
    (polling : s.meter.polling = true) (whole : charges.length = if src.val = 8 then 1 else 16) (known : tget none s.meter.last src.val = some old)
    (recent : s.meter.cycle - old.at_ ≤ 100) : execSenseReply src s.meter.poll true charges us s =
      .next { s with meter := s.meter.sensed src.val (s.reply src.val charges) old } := by
  have good : (!s.mtrUp || !s.meter.polling || s.meter.poll != s.meter.poll || !true || decide (1000 < us) ||
      charges.length != (if src.val = 8 then 1 else 16)) = false := by
    rw [up, polling, bne_self_eq_false, decide_eq_false (Nat.not_lt.2 soon), whole, bne_self_eq_false]
    rfl
  unfold execSenseReply
  dsimp only
  rw [good, known, if_neg Bool.false_ne_true]
  exact if_neg (Nat.not_lt.2 recent)

theorem MeterSt.sensed_dq (m : MeterSt) (src : Fin 9) (now old : SenseLast) {j : Nat} (inside : j < if src.val = 8 then 1 else 16) :
    tget 0 (m.sensed src.val now old).dq (domainOf src.val j) =
      tget 0 m.dq (domainOf src.val j) + (now.charge.getD j 0 + 2 ^ 32 - old.charge.getD j 0) % 2 ^ 32 :=
  tget_foldl_tmod (fun j => (now.charge.getD j 0 + 2 ^ 32 - old.charge.getD j 0) % 2 ^ 32) m.dq (domainOf_distinct src) (List.mem_range.2 inside)

theorem MeterSt.sensed_du (m : MeterSt) (k : Nat) (now old : SenseLast) {j : Nat} (inside : j < if k = 8 then 0 else 384) :
    tget 0 (m.sensed k now old).du j = tget 0 m.du j + (now.usage.getD j 0 + 2 ^ 48 - old.usage.getD j 0) % 2 ^ 48 := by
  have distinct : ((List.range (if k = 8 then 0 else 384)).map fun j => j).Nodup := by
    rw [List.map_id']
    exact List.nodup_range
  exact tget_foldl_tmod (fun j => (now.usage.getD j 0 + 2 ^ 48 - old.usage.getD j 0) % 2 ^ 48) m.du distinct (List.mem_range.2 inside)

theorem reply_charge (s : State) (k : Nat) (charges : List W32) (j : Nat) : (s.reply k charges).charge.getD j 0 = (charges.getD j 0).toNat := by
  simp only [State.reply, List.getD_eq_getElem?_getD, List.getElem?_map]
  cases charges[j]? <;> rfl

/-! ### State writes and the inhibit -/

/-- The model's bit is the library's. -/
theorem bit_eq_testBit (v i : Nat) : bit v i = v.testBit i := by
  rw [bit, Nat.shiftRight_eq_div_pow, Nat.testBit_eq_decide_div_mod_eq, Bool.eq_iff_iff, beq_iff_eq, decide_eq_true_eq]

/-- A bit set reads as set. -/
theorem bit_or_two_pow (v i : Nat) : bit (v ||| 2 ^ i) i = true := by
  rw [bit_eq_testBit, Nat.testBit_or, Nat.testBit_two_pow_self, Bool.or_true]

/-- A state write that does not end leaves the other bank to govern, where it is good. -/
theorem MeterSt.governs_writeState_cut (m : MeterSt) (clean : Bool)
    (good : (if m.bank0.wseq ≤ m.bank1.wseq then m.bank1.good else m.bank0.good) = true) :
    (m.writeState clean false).governs = some (if m.bank0.wseq ≤ m.bank1.wseq then m.bank1 else m.bank0) := by
  unfold writeState governs
  dsimp only
  split
  · next older =>
    rw [if_pos older] at good
    exact (if_neg Bool.false_ne_true).trans (if_pos good)
  · next newer =>
    rw [if_neg newer] at good
    exact if_pos (by rw [good]; rfl)

/-- The early warnings after a reading of input and standby supply (R410). -/
def MeterSt.warned (m : MeterSt) (mv sb : Nat) : MeterSt :=
  { m with
    inWarn := if mv < 42000 then true else if 43000 ≤ mv then false else m.inWarn,
    sbWarn := if sb < 3150 then true else if 3200 ≤ sb then false else m.sbWarn }

/-- An early warning first comes. -/
def MeterSt.warnsNow (m : MeterSt) (mv sb : Nat) : Bool := (decide (mv < 42000) && !m.inWarn) || (decide (sb < 3150) && !m.sbWarn)

section StateWrite
variable {s : State} {mv sb : Nat} (up : s.mtrUp = true)
include up

theorem execMeterStateWrite_due (free : s.meter.inhibit = false)
    (due : writeEvery ≤ s.meter.sinceWrite ∨ (mv < 42000 ∧ s.meter.inWarn = false) ∨ (sb < 3150 ∧ s.meter.sbWarn = false)) (ends : Bool) :
    execMeterStateWrite mv sb ends s = .next { s with meter := (s.meter.warned mv sb).writeState (s.meter.warnsNow mv sb) ends } := by
  have writes : (!s.meter.inhibit && (s.meter.warnsNow mv sb || decide (writeEvery ≤ s.meter.sinceWrite))) = true := by
    rw [free, Bool.not_false, Bool.true_and, MeterSt.warnsNow]
    obtain energy | ⟨low, first⟩ | ⟨low, first⟩ := due
    · rw [decide_eq_true energy, Bool.or_true]
    · rw [decide_eq_true low, first]; rfl
    · rw [decide_eq_true low, first, Bool.not_false, Bool.and_true, Bool.or_true, Bool.true_or]
  unfold execMeterStateWrite
  rw [up]
  exact congrArg (fun m => Host.Outcome.next { s with meter := m }) (if_pos writes)

theorem execMeterStateWrite_idle (few : s.meter.sinceWrite < writeEvery) (input : 42000 ≤ mv) (standby : 3150 ≤ sb) (ends : Bool) :
    execMeterStateWrite mv sb ends s = .next { s with meter := s.meter.warned mv sb } := by
  have waits : (!s.meter.inhibit && (s.meter.warnsNow mv sb || decide (writeEvery ≤ s.meter.sinceWrite))) = false := by
    rw [MeterSt.warnsNow, decide_eq_false (Nat.not_lt.2 input), decide_eq_false (Nat.not_lt.2 standby), decide_eq_false (Nat.not_le.2 few)]
    exact Bool.and_false _
  unfold execMeterStateWrite
  rw [up]
  exact congrArg (fun m => Host.Outcome.next { s with meter := m }) (if_neg (Bool.eq_false_iff.1 waits))

theorem execMeterInhibitStart_low (free : s.meter.inhibit = false) (idle : s.meter.closing = none) (low : mv < 40000 ∨ sb < 3050) :
    execMeterInhibitStart mv sb s =
      .next { s with meter := { s.meter with inhibit := true, work := { s.meter.work with flags := s.meter.work.flags ||| 256 } } } := by
  have starts : (!s.mtrUp || s.meter.inhibit || !(decide (mv < 40000) || decide (sb < 3050))) = false := by
    rw [up, free]
    obtain input | standby := low
    · rw [decide_eq_true input]; rfl
    · rw [decide_eq_true standby, Bool.or_true]; rfl
  unfold execMeterInhibitStart
  rw [starts, if_neg Bool.false_ne_true]
  dsimp only [State.modMeter]
  rw [idle]

theorem execMeterInhibitRelease_held {ms : Nat} (inhibit : s.meter.inhibit = true) (none_held : s.meter.evHeld = []) (input : 40500 ≤ mv)
    (standby : 3100 ≤ sb) (long : 100 ≤ ms) :
    execMeterInhibitRelease mv sb ms s = .next { s with meter := ({ s.meter with inhibit := false } : MeterSt).writeState true true } := by
  have flushed : ({ s.meter with inhibit := false } : MeterSt).flushEvents = { s.meter with inhibit := false } := MeterSt.flushEvents_none none_held
  unfold execMeterInhibitRelease
  rw [if_pos ⟨up, inhibit, input, standby, long⟩, State.modMeter, flushed]

end StateWrite

/-! ### The statement -/

/-- What the statement says of FRONT_END_SAMPLE. -/
theorem MeterSt.sampled_work (m : MeterSt) (ma mv : Nat) : (m.sampled ma mv).work = { m.work with
    reg := m.work.reg + ma * mv, eIn := m.work.eIn + ma * mv,
    eOut := if mv < 40000 ∨ 60000 < mv ∨ ma < 2000 ∨ 85000 < ma then m.work.eOut + ma * mv else m.work.eOut, nsamp := m.work.nsamp + 1 } := by
  have out : m.work.eOut + (if decide (mv < 40000) || decide (60000 < mv) || decide (ma < 2000) || decide (85000 < ma) then ma * mv else 0) =
      if mv < 40000 ∨ 60000 < mv ∨ ma < 2000 ∨ 85000 < ma then m.work.eOut + ma * mv else m.work.eOut := by
    simp only [Bool.or_eq_true, decide_eq_true_eq, or_assoc]
    split
    · rfl
    · rfl
  unfold sampled
  dsimp only
  rw [out]

/-- What the statement says of METER_POLL: the begun cycle, on what the ended one left. -/
theorem runs_meterPoll {s : State} (up : s.mtrUp = true) (mv : Nat) (idle : s.meter.closing = none) : ∃ m', RunsMeter (.meterPoll mv) s s.toDev m' ∧
    (m'.bank0 = s.meter.bank0 ∧ m'.bank1 = s.meter.bank1 ∧ m'.records = s.meter.records ∧ m'.work.seq = s.meter.work.seq ∧
      m'.work.acked = s.meter.work.acked) ∧ m'.polling = true ∧ m'.poll = s.meter.poll + 1 ∧ m'.work.eIn = s.meter.work.eIn ∧
    m'.work.reg = s.meter.work.reg ∧
    (∀ p, s.meter.nextMap = some p → m'.map = some p ∧ m'.nextMap = none ∧ m'.work.nmap = s.meter.work.nmap + 1) ∧
    (s.meter.polling = true → m'.heartbeat = s.meter.heartbeat + 1 ∧
      (∀ d < 129, tget 0 m'.work.dom d = tget 0 s.meter.work.dom d + tget 0 s.meter.dq d * mv) ∧
      accountsTotal m'.work.acct ≤ accountsTotal s.meter.work.acct + ∑ d ∈ Finset.range 129, s.meter.domainEnergy mv d) := by
  have runs := execMeterPoll_up up mv
  cases polling : s.meter.polling
  · obtain ⟨nmap, stalls, flags, map, next, begun, mapped⟩ := s.meter.beginCycle_eq
    rw [polling, if_neg Bool.false_ne_true, MeterSt.cutNow_idle idle, begun] at runs
    exact ⟨_, runs, ⟨rfl, rfl, rfl, rfl, rfl⟩, rfl, rfl, rfl, rfl, mapped, fun active => nomatch active⟩
  · obtain ⟨nmap, stalls, flags, map, next, begun, mapped⟩ := (s.meter.cycleEnded mv).beginCycle_eq
    rw [polling, if_pos rfl, MeterSt.cutNow_idle (m := s.meter.cycleEnded mv) idle, begun] at runs
    exact ⟨_, runs, ⟨rfl, rfl, rfl, rfl, rfl⟩, rfl, rfl, rfl, rfl, mapped, fun _ => ⟨rfl, fun d inside => s.meter.tget_domainTotals mv inside,
      s.meter.hubShares_le mv⟩⟩

/-- What the statement says of METER_MAP: the map is of 96 clusters, each with its stall. -/
theorem runs_meterMap {s : State} (up : s.mtrUp = true) (core : s.coreUp 0 = true) :
    ∃ p, RunsMeter .meterMap s s.toDev { s.meter with nextMap := some p } ∧ p.stalls.length = 96 ∧
      ∀ c < 96, p.stalls.getD c 255 = (s.clusterStall c).getD 255 := by
  have serves : (!s.mtrUp || !s.coreUp 0) = false := by rw [up, core]; rfl
  refine ⟨_, (if_neg (Bool.eq_false_iff.1 serves)).trans rfl, ?_, fun c inside => ?_⟩
  · dsimp only
    rw [List.length_map, List.length_range]
  · dsimp only
    rw [List.getD_eq_getElem?_getD, List.getElem?_map, List.getElem?_range inside]
    rfl

/-- A pulse goes out once its energy has come together. -/
theorem execTestPulse_due {s : State} (up : s.mtrUp = true) (due : pulseEvery ≤ s.meter.sincePulse) : execTestPulse s =
    .next { s with toDev := s.emit .pulse, meter := { s.meter with sincePulse := s.meter.sincePulse - pulseEvery } } := by
  unfold execTestPulse
  rw [if_pos ⟨up, due⟩, State.modMeter, State.modDev]

/-- Settles O58. -/
theorem meterMeasures : Obligations.MeterMeasures := by
  intro s up
  refine ⟨fun ma mv => ⟨_, execFrontEndSample_up up ma mv, ⟨rfl, rfl, rfl, rfl, rfl⟩, s.meter.sampled_work ma mv⟩, fun due => ?_,
    fun src charges us old soon polling whole known recent => ⟨_, execSenseReply_good up soon polling whole known recent, rfl, ⟨rfl, rfl, rfl, rfl, rfl⟩,
      fun j inside => ?_, fun j inside => ?_⟩,
    fun mv idle => runs_meterPoll up mv idle, runs_meterMap up, fun mv sb ends => ⟨fun free due => ?_, fun _ few input standby => ?_⟩,
    fun mv sb free idle low => ?_, fun mv sb ms inhibit idle none_held input standby long => ?_⟩
  · exact execTestPulse_due up due
  · rw [MeterSt.sensed_dq _ _ _ _ (whole ▸ inside), reply_charge]
  · rw [MeterSt.sensed_du _ _ _ _ inside]
    have usage : (s.reply src.val charges).usage = s.usageOf src.val := if_neg fun hub => by rw [if_pos hub] at inside; exact nomatch inside
    rw [usage]
  · obtain ⟨b0, b1, written⟩ := (s.meter.warned mv sb).writeState_eq (s.meter.warnsNow mv sb) ends
    refine ⟨_, execMeterStateWrite_due up free due ends, ?_, ?_, ?_, fun done => ?_, fun cut good => ?_⟩
    · rw [written]; rfl
    · rw [written]; rfl
    · rw [written]
    · subst done
      exact (s.meter.warned mv sb).governs_writeState _
    · subst cut
      exact (s.meter.warned mv sb).governs_writeState_cut _ good
  · exact ⟨_, execMeterStateWrite_idle up few input standby ends, rfl, rfl, rfl, rfl, rfl, rfl⟩
  · exact ⟨_, execMeterInhibitStart_low up free idle low, rfl, ⟨rfl, rfl, rfl, rfl, rfl⟩, rfl, bit_or_two_pow _ 8⟩
  · obtain ⟨b, governs, content⟩ := MeterSt.governs_writeState { s.meter with inhibit := false } true
    obtain ⟨b0, b1, written⟩ := MeterSt.writeState_eq { s.meter with inhibit := false } true true
    refine ⟨_, execMeterInhibitRelease_held up inhibit none_held input standby long, ?_, ?_, b, governs, content.trans ?_⟩
    · rw [written]
    · rw [written]
    · rw [MeterSt.banked, idle]

end Sys2Proof.Machine
end

section
/-!
PROOFS. Firmware processors: a crash, its restart or a first start, and the copy of its dump (R373, R374, R427, R435, R441).
-/
namespace Sys2Proof.Machine

/-! ### Lists of processors -/

theorem contains_sinsert (x y : Nat) (l : List Nat) : (sinsert x l).contains y = (y == x || l.contains y) := by
  rw [Bool.eq_iff_iff]
  simp only [List.contains_iff_mem, mem_sinsert, Bool.or_eq_true, beq_iff_eq]

theorem contains_filter_ne (x y : Nat) (l : List Nat) : (l.filter (· != x)).contains y = (y != x && l.contains y) := by
  rw [Bool.eq_iff_iff]
  simp only [List.contains_iff_mem, List.mem_filter, Bool.and_eq_true, bne_iff_ne, ne_eq, and_comm]

/-! ### What stops with a processor -/

/-- `d` is `s` but for stalls, looms, messages, hub, power, management and the Shelf's lines: what may change beside firmware when a processor
stops. -/
def AwayFrame (s d : Dev) : Prop :=
  ∃ st lo ou hu sh po mg, d = { s with stalls := st, looms := lo, out := ou, hub := hu, power := po, mgt := mg, mem := { s.mem with shelf := sh } }

namespace AwayFrame
variable {s d : Dev}

theorem refl (s : Dev) : AwayFrame s s := ⟨_, _, _, _, _, _, _, rfl⟩

theorem trans {e : Dev} : AwayFrame s d → AwayFrame d e → AwayFrame s e := by
  rintro ⟨_, _, _, _, _, _, _, rfl⟩ ⟨_, _, _, _, _, _, _, rfl⟩
  exact ⟨_, _, _, _, _, _, _, rfl⟩

theorem modHub (h : AwayFrame s d) (f : HubSt → HubSt) : AwayFrame s (d.modHub f) := h.trans ⟨_, _, _, _, _, _, _, rfl⟩

theorem modPower (h : AwayFrame s d) (f : PowerSt → PowerSt) : AwayFrame s (d.modPower f) := h.trans ⟨_, _, _, _, _, _, _, rfl⟩

theorem modMgt (h : AwayFrame s d) (f : MgtSt → MgtSt) : AwayFrame s (d.modMgt f) := h.trans ⟨_, _, _, _, _, _, _, rfl⟩

theorem modStall (h : AwayFrame s d) (k : Nat) (f : StallSt → StallSt) : AwayFrame s (d.modStall k f) := h.trans ⟨_, _, _, _, _, _, _, rfl⟩

theorem modBlk (h : AwayFrame s d) (t : PlanTarget) (f : PlanBlk → PlanBlk) : AwayFrame s (d.modBlk t f) := by
  cases t
  · exact h.trans ⟨_, _, _, _, _, _, _, rfl⟩
  · exact h.trans ⟨_, _, _, _, _, _, _, rfl⟩

theorem logEvent (h : AwayFrame s d) (src code st sev : Nat) (data : List Nat) : AwayFrame s (d.logEvent src code st sev data) := by
  rw [Dev.logEvent_frame]
  exact h.trans ⟨_, _, _, _, _, _, _, rfl⟩

theorem msix (h : AwayFrame s d) (i v : Nat) : AwayFrame s (d.msix i v) := by
  rw [Dev.msix_frame]
  exact h.trans ⟨_, _, _, _, _, _, _, rfl⟩

/-- A change to looms, one after another. -/
theorem modLooms (h : AwayFrame s d) (ls : List Nat) (at_ : Nat → Nat) (f : LoomSt → LoomSt) :
    AwayFrame s (ls.foldl (fun t i => t.modLoom (at_ i) f) d) := by
  induction ls generalizing d with
  | nil => exact h
  | cons a ls ih => exact ih (h.trans ⟨_, _, _, _, _, _, _, rfl⟩)

theorem fault (h : AwayFrame s d) {e : Dev} (f : FaultFrame d e) : AwayFrame s e := by
  obtain ⟨_, _, _, _, rfl⟩ := f
  exact h.trans ⟨_, _, _, _, _, _, _, rfl⟩

theorem moduleFault (h : AwayFrame s d) : AwayFrame s d.moduleFault := (h.modHub _).fault d.moduleFault_frame

theorem ite {c : Prop} [Decidable c] {e : Dev} (h : AwayFrame s d) (g : AwayFrame s e) : AwayFrame s (if c then d else e) := by
  split
  · exact h
  · exact g

/-- A plan load dropped with its scheduler core (R213). -/
theorem dropLoad (h : AwayFrame s d) (c : HeldCmd) : AwayFrame s (d.dropLoad c) := by
  have failed (t : PlanTarget) : AwayFrame s (if (d.blk t).state = .placing then
      d.modBlk t (fun b => { b with state := .failed, fail := ⟨0x7F, 0, 0, 0⟩ })
    else d.modBlk t (fun b => { b with state := b.prev, fail := ⟨0x7F, 0, 0, 0⟩ })) := .ite (h.modBlk ..) (h.modBlk ..)
  unfold Dev.dropLoad
  refine .ite h (.logEvent (.modHub ?_ _) ..)
  split
  · exact (failed _).modHub _
  · exact (failed _).modStall ..

/-- What stops while a processor is away (R373). -/
theorem procAway (h : AwayFrame s d) (p : Nat) : AwayFrame s (d.procAway p) := by
  have dropped (cs : List HeldCmd) : ∀ {e : Dev}, AwayFrame s e → AwayFrame s (cs.foldl (fun t c => t.dropLoad c) e) := by
    induction cs with
    | nil => exact fun g => g
    | cons c cs ih => exact fun g => ih (g.dropLoad c)
  exact .ite (h.modLooms ..) (.ite (dropped _ h) (.ite (h.modPower _) h))

theorem fw (h : AwayFrame s d) : d.fw = s.fw := by
  obtain ⟨_, _, _, _, _, _, _, rfl⟩ := h
  rfl

theorem store (h : AwayFrame s d) : d.mem.store = s.mem.store := by
  obtain ⟨_, _, _, _, _, _, _, rfl⟩ := h
  rfl

end AwayFrame

/-! ### Holding a processor and ending an activation -/

/-- A processor held (R374): firmware holds it and no longer restarts it, and its cluster or the module is taken out of work. -/
theorem Dev.holdProc_frame (s : Dev) (p : Nat) : AwayFrame (s.modFw fun f =>
    { f with held := sinsert p f.held, down := f.down.filter (· != p), handing := f.handing.filter (· != p) }) (s.holdProc p) := by
  have logged := (AwayFrame.refl (s.modFw fun f =>
    { f with held := sinsert p f.held, down := f.down.filter (· != p), handing := f.handing.filter (· != p) })).logEvent 0x0100 0x0040 255 2 [p, 2]
  unfold holdProc
  dsimp only
  split
  · have frozen := logged.modLooms (List.range 12) (fun i => 12 * (p - 16) + i) fun x => { x with frzCcc := true }
    split
    · exact frozen.fault (Dev.faultStall_frame ..)
    · exact frozen
  · exact .ite logged.moduleFault (.ite (logged.modPower _) logged)

/-- An activation's end (R438, R439): firmware has none under way, and its result. -/
theorem Dev.endActivation_frame (s : Dev) (image result : Nat) (pldm : Bool) :
    AwayFrame (s.modFw fun f => { f with act := none, actResult := BitVec.ofNat 8 result }) (s.endActivation image result pldm) := by
  have told := ((AwayFrame.refl (s.modFw fun f => { f with act := none, actResult := BitVec.ofNat 8 result })).logEvent 0 0x0041 255 0
    [image, result]).msix 0 7
  exact .ite (told.modMgt _) told

/-- `g` is `f` but for the activation, its result, its hand-overs and the boot record's write, with no new hand-over. -/
def FwSt.Reverted (f g : FwSt) : Prop :=
  g = { f with act := g.act, actResult := g.actResult, handing := g.handing, bootHeld := g.bootHeld, nv := g.nv } ∧ (f.handing = [] → g.handing = [])

theorem Dev.revertActivation_reverts (s : Dev) (result : Nat) :
    s.fw.Reverted (s.revertActivation result).fw ∧ (s.revertActivation result).mem.store = s.mem.store := by
  unfold revertActivation
  split
  · next a _ =>
    split
    · exact ⟨⟨rfl, id⟩, rfl⟩
    · have ended (g : FwSt → FwSt) := Dev.endActivation_frame (s.modFw g) a.image result a.pldm
      refine ⟨⟨?_, fun none => ?_⟩, (ended _).store⟩
      · rw [(ended _).fw]
        rfl
      · rw [(ended _).fw]
        exact congrArg (List.filter fun p => !(procsOf a.image).contains p) none
  · exact ⟨⟨rfl, id⟩, rfl⟩

/-! ### Crashes (R373, R374, R441) -/

/-- The crashes of a processor in the 600 s before a time. -/
def FwSt.recent (f : FwSt) (p us : Nat) : List Nat := (tget [] f.times p).filter fun t => decide (us ≤ t + 600000000)

/-- The dump of a crash, where the buffer has room. -/
def Dev.dumped (s : Dev) (p cause us : Nat) (c : CrashInfo) : Dev :=
  if s.fw.dumpBuf.length < 4 then
    s.modFw fun f => { f with
      dumpSeq := s.fw.dumpSeq + 1,
      dumpBuf := f.dumpBuf ++ [(s.fw.dumpSeq + 1, s.dumpBytes p cause us (s.fw.dumpSeq + 1) ((s.fw.recent p us).length + 1) c)] }
  else s.modFw fun f => { f with dumpsLost := satInc f.dumpsLost }

/-- The crash counted as a restart. -/
def Dev.crashCounted (s : Dev) (p cause us : Nat) (c : CrashInfo) : Dev :=
  (s.dumped p cause us c).modFw fun f => { f with restarts := tmod 0 f.restarts p satInc, times := tset [] f.times p (s.fw.recent p us ++ [us]) }

/-- A hand-over under way goes back (R439). -/
def Dev.handBack (s : Dev) (p : Nat) : Dev := if s.fw.handing.contains p || p = 0 then s.revertActivation 7 else s

theorem Dev.crash_eq (s : Dev) (p cause us : Nat) (c : CrashInfo) : s.crash p cause us c =
    let t := ((((s.crashCounted p cause us c).handBack p).modFw fun f => { f with down := sinsert p f.down }).procAway p)
    if 4 ≤ (s.fw.recent p us).length + 1 then t.holdProc p else
      t.logEvent 0x0100 0x0040 255 2 [p, 0, cause, (s.fw.recent p us).length + 1] := rfl

/-- Firmware's lists after a crash, from those that the going back leaves: down, or from the fourth crash in 600 s held. -/
def FwSt.stopped (g : FwSt) (p : Nat) (fourth : Prop) [Decidable fourth] : FwSt :=
  if fourth then { g with held := sinsert p g.held, down := (sinsert p g.down).filter (· != p), handing := g.handing.filter (· != p) }
  else { g with down := sinsert p g.down }

/-- What a crash leaves of firmware: dump and count, an activation gone back, and the processor stopped. -/
theorem Dev.crash_fw (s : Dev) (p cause us : Nat) (c : CrashInfo) : (s.crash p cause us c).mem.store = s.mem.store ∧
    ∃ g, (s.crashCounted p cause us c).fw.Reverted g ∧ (s.crash p cause us c).fw = g.stopped p (4 ≤ (s.fw.recent p us).length + 1) := by
  have counted : (s.crashCounted p cause us c).mem.store = s.mem.store := by
    unfold crashCounted dumped
    split
    · rfl
    · rfl
  have back : (s.crashCounted p cause us c).fw.Reverted ((s.crashCounted p cause us c).handBack p).fw ∧
      ((s.crashCounted p cause us c).handBack p).mem.store = (s.crashCounted p cause us c).mem.store := by
    unfold handBack
    split
    · exact Dev.revertActivation_reverts ..
    · exact ⟨⟨rfl, id⟩, rfl⟩
  have away := (AwayFrame.refl (((s.crashCounted p cause us c).handBack p).modFw fun f => { f with down := sinsert p f.down })).procAway p
  obtain ⟨reverted, store⟩ := back
  rw [crash_eq]
  dsimp only
  unfold FwSt.stopped
  split
  · have held := Dev.holdProc_frame ((((s.crashCounted p cause us c).handBack p).modFw fun f => { f with down := sinsert p f.down }).procAway p) p
    refine ⟨held.store.trans (away.store.trans (store.trans counted)), _, reverted, held.fw.trans ?_⟩
    rw [Dev.modFw, away.fw]
    rfl
  · have logged := away.logEvent 0x0100 0x0040 255 2 [p, 0, cause, (s.fw.recent p us).length + 1]
    exact ⟨logged.store.trans (store.trans counted), _, reverted, logged.fw⟩

/-- Dump and count move nothing of which processors run. -/
theorem Dev.crashCounted_fw (s : Dev) (p cause us : Nat) (c : CrashInfo) : ∃ f, (s.crashCounted p cause us c).fw = f ∧
    (f.released = s.fw.released ∧ f.down = s.fw.down ∧ f.held = s.fw.held ∧ f.handing = s.fw.handing) ∧
    tget 0 f.restarts p = satInc (tget 0 s.fw.restarts p) ∧
    (s.fw.dumpBuf.length < 4 → f.dumpSeq = s.fw.dumpSeq + 1 ∧ ∃ b, f.dumpBuf = s.fw.dumpBuf ++ [(s.fw.dumpSeq + 1, b)]) ∧
    (4 ≤ s.fw.dumpBuf.length → f.dumpBuf = s.fw.dumpBuf ∧ f.dumpsLost = satInc s.fw.dumpsLost) := by
  refine ⟨_, rfl, ?_⟩
  unfold crashCounted dumped
  split
  · next room => exact ⟨⟨rfl, rfl, rfl, rfl⟩, tget_tset_same .., fun _ => ⟨rfl, _, rfl⟩, fun full => absurd room (Nat.not_lt.2 full)⟩
  · next full => exact ⟨⟨rfl, rfl, rfl, rfl⟩, tget_tset_same .., fun room => absurd room full, fun _ => ⟨rfl, rfl⟩⟩

section Stopped
variable (g : FwSt) (p : Nat) (fourth : Prop) [Decidable fourth]

theorem FwSt.stopped_eq : ∃ down held handing, g.stopped p fourth = { g with down := down, held := held, handing := handing } := by
  unfold stopped
  split
  · exact ⟨_, _, _, rfl⟩
  · exact ⟨_, g.held, g.handing, rfl⟩

theorem FwSt.stopped_before (early : ¬fourth) : p ∈ (g.stopped p fourth).down ∧ (g.stopped p fourth).held = g.held := by
  rw [stopped, if_neg early]
  exact ⟨(mem_sinsert ..).2 (.inl rfl), rfl⟩

theorem FwSt.stopped_fourth (late : fourth) : p ∈ (g.stopped p fourth).held ∧ p ∉ (g.stopped p fourth).down := by
  rw [stopped, if_pos late]
  exact ⟨(mem_sinsert ..).2 (.inl rfl), fun down => bne_iff_ne.1 (List.mem_filter.1 down).2 rfl⟩

/-- Of other processors it moves nothing. -/
theorem FwSt.stopped_other {q : Nat} (other : q ≠ p) : (g.stopped p fourth).down.contains q = g.down.contains q ∧
    (g.stopped p fourth).held.contains q = g.held.contains q ∧ (g.stopped p fourth).handing.contains q = g.handing.contains q := by
  unfold stopped
  split
  · simp only [contains_sinsert, contains_filter_ne, beq_false_of_ne other, bne_iff_ne.2 other, Bool.false_or, Bool.true_and, and_self]
  · simp only [contains_sinsert, beq_false_of_ne other, Bool.false_or, and_self]

end Stopped

/-- A processor that firmware has down or holds does not run. -/
theorem Dev.coreUp_of_stopped {s : Dev} {p : Nat} (h : p ∈ s.fw.down ∨ p ∈ s.fw.held) : s.coreUp p = false := by
  unfold coreUp
  obtain down | held := h
  · rw [List.contains_iff_mem.2 down, Bool.not_true, Bool.and_false]; rfl
  · rw [List.contains_iff_mem.2 held, Bool.not_true, Bool.and_false, Bool.false_and]

/-- What the statement says of a crash. -/
theorem crash_stops (s : Dev) (p cause us : Nat) (c : CrashInfo) :
    let d := s.crash p cause us c
    tget 0 d.fw.restarts p = satInc (tget 0 s.fw.restarts p) ∧ d.coreUp p = false ∧
    ((s.fw.recent p us).length < 3 → p ∈ d.fw.down ∧ d.fw.held = s.fw.held) ∧ (3 ≤ (s.fw.recent p us).length → p ∈ d.fw.held ∧ p ∉ d.fw.down) ∧
    (s.fw.dumpBuf.length < 4 → d.fw.dumpSeq = s.fw.dumpSeq + 1 ∧ ∃ b, d.fw.dumpBuf = s.fw.dumpBuf ++ [(s.fw.dumpSeq + 1, b)]) ∧
    (4 ≤ s.fw.dumpBuf.length → d.fw.dumpBuf = s.fw.dumpBuf ∧ d.fw.dumpsLost = satInc s.fw.dumpsLost) ∧ d.mem.store = s.mem.store ∧
    (∀ q, q ≠ p → s.fw.handing = [] → d.coreUp q = s.coreUp q) := by
  obtain ⟨store, g, ⟨reverted, none⟩, is⟩ := s.crash_fw p cause us c
  obtain ⟨f, counted, ⟨released, down, held, handing⟩, restarts, room, full⟩ := s.crashCounted_fw p cause us c
  rw [counted] at reverted none
  obtain ⟨_, _, _, lists⟩ := g.stopped_eq p (4 ≤ (s.fw.recent p us).length + 1)
  have before (few : (s.fw.recent p us).length < 3) := g.stopped_before p (4 ≤ (s.fw.recent p us).length + 1) (by omega)
  have fourth (many : 3 ≤ (s.fw.recent p us).length) := g.stopped_fourth p (4 ≤ (s.fw.recent p us).length + 1) (by omega)
  have stops : (s.crash p cause us c).coreUp p = false := by
    refine Dev.coreUp_of_stopped ?_
    rw [is]
    obtain few | many := Nat.lt_or_ge (s.fw.recent p us).length 3
    · exact .inl (before few).1
    · exact .inr (fourth many).1
  refine ⟨?_, stops, fun few => ?_, fun many => is ▸ fourth many, ?_, ?_, store, fun q other quiet => ?_⟩
  · rw [is, lists, reverted]; exact restarts
  · rw [is]
    exact ⟨(before few).1, (before few).2.trans ((congrArg FwSt.held reverted).trans held)⟩
  · rw [is, lists, reverted]; exact room
  · rw [is, lists, reverted]; exact full
  · obtain ⟨sameDown, sameHeld, sameHanding⟩ := g.stopped_other p (4 ≤ (s.fw.recent p us).length + 1) other
    have idle := none (handing.trans quiet)
    unfold Dev.coreUp
    rw [is, sameDown, sameHeld, sameHanding, idle, quiet, lists, reverted]
    dsimp only
    rw [released, down, held]

end Sys2Proof.Machine
end

section
/-!
PROOFS. A processor's start from its slot, and the copy of a crash dump (R373, R427, R435, R441).
-/
namespace Sys2Proof.Machine

/-! ### Starting a processor (R373, R435) -/

/-- Firmware with a processor that has started from a slot. -/
def FwSt.started (f : FwSt) (p key : Nat) : FwSt :=
  { f with
    released := sinsert p f.released, down := f.down.filter (· != p), handing := f.handing.filter (· != p),
    slotB := if key % 2 = 1 then sinsert p f.slotB else f.slotB.filter (· != p) }

/-- A start changes firmware, its cluster's looms, the power core's loops or the entries that were held for the log. -/
theorem Dev.startProc_frame (s : Dev) (p key : Nat) :
    ∃ lo po hu, s.startProc p key = { s with fw := s.fw.started p key, looms := lo, power := po, hub := hu } := by
  unfold startProc
  dsimp only
  split
  · refine List.foldlRecOn (motive := fun d : Dev => ∃ lo po hu, d = { s with fw := s.fw.started p key, looms := lo, power := po, hub := hu }) _ _
      ⟨s.looms, s.power, s.hub, rfl⟩ ?_
    rintro _ ⟨lo, po, hu, rfl⟩ i _
    exact ⟨_, _, _, rfl⟩
  split
  · exact ⟨s.looms, _, s.hub, rfl⟩
  split
  · exact ⟨s.looms, s.power, _, rfl⟩
  · exact ⟨s.looms, s.power, s.hub, rfl⟩

/-- A started processor that is not held runs. -/
theorem Dev.startProc_coreUp {s : Dev} {p : Nat} (key : Nat) (free : p ∉ s.fw.held) : (s.startProc p key).coreUp p = true := by
  obtain ⟨_, _, _, started⟩ := s.startProc_frame p key
  have held : s.fw.held.contains p = false := Bool.eq_false_iff.2 fun h => free (List.contains_iff_mem.1 h)
  unfold coreUp
  rw [started]
  simp only [FwSt.started, contains_sinsert, contains_filter_ne, beq_self_eq_true, bne_self_eq_false, Bool.true_or, Bool.false_and, Bool.not_false,
    Bool.and_true, held]

/-- A processor's boot from its active slot, where that verifies. -/
theorem Dev.bootProc_active {s : Dev} {p : Nat} (sound : s.slotOk (imageOf p) (s.fw.activeKey (imageOf p)) = true) :
    s.bootProc p = s.startProc p (s.fw.activeKey (imageOf p)) := if_pos sound

/-- The security core's own start draws its challenge. -/
def Dev.verified (s : Dev) (p : Nat) : Dev := if p = 0 ∧ s.coreUp 0 then s.secureStart else s

theorem Dev.verified_frame (s : Dev) (p : Nat) : ∃ ctr sec, s.verified p = { s with freeCtr := ctr, sec := sec } := by
  unfold verified
  split
  · exact ⟨_, _, rfl⟩
  · exact ⟨s.freeCtr, s.sec, rfl⟩

section Starts
variable {s : State} {p : Proc} (can : s.canBoot (procNum p) = true)
  (sound : s.slotOk (imageOf (procNum p)) (s.fw.activeKey (imageOf (procNum p))) = true) (free : procNum p ∉ s.fw.held)
include can sound free

theorem runs_fwRestartComplete (waits : s.sec.waiting = none) (down : procNum p ∈ s.fw.down) :
    ∃ d, Runs (.fwRestartComplete p) s d ∧ d.coreUp (procNum p) = true ∧ d.mem = s.mem ∧ d.stalls = s.stalls := by
  have boots : (s.modFw fun f => { f with down := f.down.filter (· != procNum p) }).bootProc (procNum p) =
      (s.modFw fun f => { f with down := f.down.filter (· != procNum p) }).startProc (procNum p) (s.fw.activeKey (imageOf (procNum p))) :=
    Dev.bootProc_active sound
  have up := Dev.startProc_coreUp (s := s.modFw fun f => { f with down := f.down.filter (· != procNum p) }) (p := procNum p)
    (s.fw.activeKey (imageOf (procNum p))) free
  obtain ⟨_, _, _, started⟩ := (s.modFw fun f => { f with down := f.down.filter (· != procNum p) }).startProc_frame (procNum p)
    (s.fw.activeKey (imageOf (procNum p)))
  have none_waits : ((s.modFw fun f => { f with down := f.down.filter (· != procNum p) }).startProc (procNum p)
      (s.fw.activeKey (imageOf (procNum p)))).sec.waiting = none := by
    rw [started]
    exact waits
  refine ⟨_, ?_, up, ?_, ?_⟩
  · show execFwRestartComplete p s = _
    refine State.onDev_next s _ _ ?_
    dsimp only
    rw [can, List.contains_iff_mem.2 down, boots, Bool.and_self, if_pos rfl, none_waits]
  · rw [started]; rfl
  · rw [started]; rfl

theorem runs_bootVerify (new : procNum p ∉ s.fw.released) :
    ∃ d, Runs (.bootVerify p) s d ∧ d.coreUp (procNum p) = true ∧ d.mem = s.mem ∧ d.stalls = s.stalls := by
  have unreleased : s.fw.released.contains (procNum p) = false := Bool.eq_false_iff.2 fun h => new (List.contains_iff_mem.1 h)
  have held : s.fw.held.contains (procNum p) = false := Bool.eq_false_iff.2 fun h => free (List.contains_iff_mem.1 h)
  have up := Dev.startProc_coreUp (s.fw.activeKey (imageOf (procNum p))) free
  obtain ⟨_, _, _, started⟩ := s.startProc_frame (procNum p) (s.fw.activeKey (imageOf (procNum p)))
  have runs : Runs (.bootVerify p) s ((s.startProc (procNum p) (s.fw.activeKey (imageOf (procNum p)))).verified (procNum p)) := by
    show execBootVerify p s = _
    refine State.onDev_next s _ _ ?_
    dsimp only
    rw [can, unreleased, held, Dev.bootProc_active sound]
    rfl
  obtain ⟨ctr, sec, verified⟩ := (s.startProc (procNum p) (s.fw.activeKey (imageOf (procNum p)))).verified_frame (procNum p)
  refine ⟨_, runs, ?_⟩
  rw [verified]
  refine ⟨up, ?_, ?_⟩
  · rw [started]
  · rw [started]

end Starts

/-! ### The crash store (R441) -/

/-- What a table holds after entries are dropped. -/
theorem tget_tdrop {α : Type} (d : α) (p : Nat → Bool) (t : Tab α) (i : Nat) : tget d (tdrop p t) i = if p i then d else tget d t i := by
  induction t with
  | nil => split <;> rfl
  | cons e t ih =>
    obtain ⟨k, v⟩ := e
    unfold tdrop at ih ⊢
    rw [List.filter_cons]
    cases dropped : p k
    · rw [if_pos (by decide), tget, tget, ih]
      by_cases same : i = k
      · rw [if_pos same, if_pos same, same, dropped, if_neg Bool.false_ne_true]
      · rw [if_neg same, if_neg same]
    · rw [if_neg (by decide), tget, ih]
      by_cases same : i = k
      · rw [if_pos same, same, dropped, if_pos rfl, if_pos rfl]
      · rw [if_neg same]

theorem runs_crashDumpCopy {s : State} {n : Nat} {b : List Byte} {rest : List (Nat × List Byte)} (waits : s.fw.dumpBuf = (n, b) :: rest)
    (core : s.coreUp 3 = true) (free : s.power.nvInh = false) (calm : s.power.nvWarn = false) :
    ∃ d, Runs .crashDumpCopy s d ∧ d.fw.dumpBuf = rest ∧ tget none d.fw.crashes n = some b ∧
      (∀ i, i + 32 ≤ n → tget none d.fw.crashes i = none) ∧ d = { s.toDev with fw := d.fw } := by
  refine ⟨(s.modFw fun f => { f with
    dumpBuf := rest, crashes := tdrop (fun i => decide (i + 32 ≤ n)) (tset none f.crashes n (some b)) }).beginNv (.dump n), ?_, rfl, ?_, fun i old => ?_, rfl⟩
  · show execCrashDumpCopy s = _
    refine State.onDev_next s _ _ ?_
    rw [waits]
    dsimp only
    rw [core, free, calm]
    rfl
  · have newest : ¬(decide (n + 32 ≤ n) = true) := by
      rw [decide_eq_true_eq]
      omega
    exact (tget_tdrop none (fun i => decide (i + 32 ≤ n)) _ n).trans ((if_neg newest).trans (tget_tset_same ..))
  · exact (tget_tdrop none (fun i => decide (i + 32 ≤ n)) _ i).trans (if_pos (decide_eq_true old))

/-- Settles O47. -/
theorem firmwareCrashesAndRestarts : Obligations.FirmwareCrashesAndRestarts := by
  refine ⟨fun p us c s i which alive => ?_, fun p s can sound free _ waits => ⟨runs_fwRestartComplete can sound free waits,
    runs_bootVerify can sound free⟩, fun s n b rest waits core free calm => runs_crashDumpCopy waits core free calm⟩
  obtain rfl | rfl := which
  · refine ⟨_, ?_, crash_stops s.toDev (procNum p) 1 us c⟩
    show execFwWatchdogExpire p us c s = _
    exact State.onDev_next s _ _ (congrArg Host.Outcome.next (if_pos alive))
  · refine ⟨_, ?_, crash_stops s.toDev (procNum p) 2 us c⟩
    show execFwTrap p us c s = _
    exact State.onDev_next s _ _ (congrArg Host.Outcome.next (if_pos alive))

end Sys2Proof.Machine
end

section
/-!
PROOFS. The control loops, lost regulation and emergencies (R424, R430 to R432, R436, R439).
-/
namespace Sys2Proof.Machine

/-! ### The loops' targets (R430) -/

/-- A fold that writes some of the keys of a list: each of those holds what was written. -/
theorem tget_foldl_tset_unless {α : Type} [DecidableEq α] (d : α) (skips : Nat → Bool) (v : Nat → α) (ks : List Nat) (t : Tab α) {c : Nat}
    (listed : c ∈ ks) (written : skips c = false) :
    tget d (ks.foldl (fun t c => if skips c then t else tset d t c (v c)) t) c = v c := by
  have held (ks : List Nat) : ∀ t, tget d t c = v c → tget d (ks.foldl (fun t c => if skips c then t else tset d t c (v c)) t) c = v c := by
    induction ks with
    | nil => exact fun _ h => h
    | cons a ks ih =>
      refine fun t h => ih _ ?_
      dsimp only
      split
      · exact h
      · rw [tget_tset]
        split
        · next same => rw [same]
        · exact h
  induction ks generalizing t with
  | nil => exact nomatch listed
  | cons a ks ih =>
    rw [List.foldl_cons]
    obtain rfl | listed := List.mem_cons.1 listed
    · rw [written]
      exact held ks _ (tget_tset_same ..)
    · exact ih _ listed

/-- The voltage that the loops give an active cluster is within the range of its regulator. -/
theorem Dev.clusterTarget_range (s : Dev) (c : Nat) : 550 ≤ s.clusterTarget c ∧ s.clusterTarget c ≤ 900 := by
  unfold clusterTarget
  dsimp only
  omega

/-- The target of a regulating cluster, as 10 bits. -/
theorem target_range (s : Dev) (c : Nat) : 550 ≤ (BitVec.ofNat 10 (if s.active c then s.clusterTarget c else 550)).toNat ∧
    (BitVec.ofNat 10 (if s.active c then s.clusterTarget c else 550)).toNat ≤ 900 ∧
    (s.active c = false → (BitVec.ofNat 10 (if s.active c then s.clusterTarget c else 550)).toNat = 550) := by
  obtain ⟨low, high⟩ := s.clusterTarget_range c
  rw [BitVec.toNat_ofNat]
  cases s.active c
  · rw [if_neg Bool.false_ne_true]
    exact ⟨by decide, by decide, fun _ => rfl⟩
  · rw [if_pos rfl, Nat.mod_eq_of_lt (by omega)]
    exact ⟨low, high, fun idle => nomatch idle⟩

/-- The loops' new voltages, and each regulating cluster's target from them. -/
def Dev.looped (s : Dev) (vpw : Nat) (vth rail : Tab Nat) : Dev :=
  let s1 := s.modPower fun w => { w with vpw := vpw, vth := vth, rail := rail }
  s1.modPower fun w => { w with target := (List.range 96).foldl (fun t c =>
    if s.power.lost.contains c || s.power.dark.contains c then t
    else tset 550 t c (BitVec.ofNat 10 (if s1.active c then s1.clusterTarget c else 550))) w.target }

/-- The power loop's voltage after a period (R430), for an input of `mw` mW at `mv` mV. -/
def PowerSt.nextVpw (w : PowerSt) (mw mv : Nat) : Nat :=
  let cap10 := min (10000 * min 3800 w.pcap.toNat) (882 * mv)
  let vset := min 900 (max 550 w.vset.toNat)
  if cap10 < 10 * mw then w.vpw - 5 else if 10 * mw + 1000000 < cap10 then max w.vpw (min vset (w.vpw + 5)) else w.vpw

theorem execPowerLoopPeriod_runs {s : State} (run : s.power.state = .run) (core : s.coreUp 1 = true) (mw mv : Nat) (clus dies : List Int) :
    ∃ vth rail, Runs (.powerLoopPeriod mw mv clus dies) s (s.looped (s.power.nextVpw mw mv) vth rail) := by
  have works : ¬(s.power.state ≠ .run ∨ !s.coreUp 1) := by
    rw [run, core]
    decide
  exact ⟨_, _, show execPowerLoopPeriod mw mv clus dies s = _ from State.onDev_next s _ _ (if_neg works)⟩

theorem runs_powerLoopPeriod {s : State} (run : s.power.state = .run) (core : s.coreUp 1 = true) (mw mv : Nat) (clus dies : List Int) :
    ∃ d, Runs (.powerLoopPeriod mw mv clus dies) s d ∧
      (∀ c : ClusterId, c.val ∉ s.power.lost → c.val ∉ s.power.dark →
        let v := (tget 550 d.power.target c.val).toNat
        550 ≤ v ∧ v ≤ 900 ∧ (s.active c.val = false → v = 550)) ∧
      (min (10000 * min 3800 s.power.pcap.toNat) (882 * mv) < 10 * mw → d.power.vpw = s.power.vpw - 5) ∧
      d = { s.toDev with power := { s.power with vpw := d.power.vpw, vth := d.power.vth, rail := d.power.rail, target := d.power.target } } := by
  obtain ⟨vth, rail, runs⟩ := execPowerLoopPeriod_runs run core mw mv clus dies
  refine ⟨_, runs, fun c lost dark => ?_, fun above => if_pos above, rfl⟩
  have skips : (s.power.lost.contains c.val || s.power.dark.contains c.val) = false := by
    rw [Bool.or_eq_false_iff]
    exact ⟨Bool.eq_false_iff.2 fun h => lost (List.contains_iff_mem.1 h), Bool.eq_false_iff.2 fun h => dark (List.contains_iff_mem.1 h)⟩
  have target : tget 550 (s.looped (s.power.nextVpw mw mv) vth rail).power.target c.val = _ :=
    tget_foldl_tset_unless 550 (fun c => s.power.lost.contains c || s.power.dark.contains c) _ _ _ (List.mem_range.2 c.isLt) skips
  dsimp only
  rw [target]
  exact target_range _ c.val

/-! ### Lost regulation (R424) -/

/-- A domain that loses regulation: its mark, and a cluster's target. -/
def PowerSt.unregulated (w : PowerSt) (r : Nat) : PowerSt :=
  { w with lost := sinsert r w.lost, target := if r < 96 then tset 550 w.target r 650 else w.target }

theorem runs_regulationLoss {s : State} {r : DomainId} (on : s.mainOn = true) (kept : r.val ∉ s.power.lost) (lit : r.val ∉ s.power.dark) :
    ∃ d, Runs (.regulationLoss r) s d ∧ r.val ∈ d.power.lost ∧ d.mem.store = s.mem.store ∧
      (r.val < 96 → tget 550 d.power.target r.val = 650 ∧ ∀ k, s.clusterStall r.val = some k → (d.stall k).faulted = true) ∧
      (96 ≤ r.val → d.hub.moduleFault = true) := by
  have new : (!s.mainOn || s.power.lost.contains r.val || s.power.dark.contains r.val) = false := by
    rw [on, Bool.eq_false_iff.2 fun h => kept (List.contains_iff_mem.1 h), Bool.eq_false_iff.2 fun h => lit (List.contains_iff_mem.1 h)]
    rfl
  have runs : exec (.regulationLoss r) s = s.onDev fun s => if r.val < 96 then
      match s.clusterStall r.val with
      | some k => .next ((s.modPower (·.unregulated r.val)).faultStall k 2 0)
      | none => .next (s.modPower (·.unregulated r.val))
    else .next (s.modPower (·.unregulated r.val)).moduleFault := by
    show execRegulationLoss r s = _
    unfold execRegulationLoss State.onDev
    dsimp only
    rw [new]
    rfl
  have lost : r.val ∈ (s.power.unregulated r.val).lost := (mem_sinsert ..).2 (.inl rfl)
  by_cases cluster : r.val < 96
  · have target : tget 550 (s.power.unregulated r.val).target r.val = 650 := by
      rw [PowerSt.unregulated, if_pos cluster, tget_tset_same]
    cases held : s.clusterStall r.val with
    | some k =>
      obtain ⟨_, _, _, _, fault⟩ := (s.modPower (·.unregulated r.val)).faultStall_frame k 2 0
      have faulted := (s.modPower (·.unregulated r.val)).faultStall_faulted k 2 0
      refine ⟨_, runs.trans (State.onDev_next s _ ((s.modPower (·.unregulated r.val)).faultStall k 2 0) ?_), ?_, ?_, fun _ => ⟨?_, fun k' same => ?_⟩,
        fun other => absurd cluster (Nat.not_lt.2 other)⟩
      · rw [if_pos cluster, held]
      · rw [fault]; exact lost
      · rw [fault]; rfl
      · rw [fault]; exact target
      · exact Option.some.inj same ▸ faulted
    | none =>
      refine ⟨_, runs.trans (State.onDev_next s _ (s.modPower (·.unregulated r.val)) ?_), lost, rfl, fun _ => ⟨target, fun k same => nomatch same⟩,
        fun other => absurd cluster (Nat.not_lt.2 other)⟩
      rw [if_pos cluster, held]
  · obtain ⟨_, _, _, _, fault⟩ := (s.modPower (·.unregulated r.val)).moduleFault_frame
    refine ⟨_, runs.trans (State.onDev_next s _ (s.modPower (·.unregulated r.val)).moduleFault (if_neg cluster)), ?_, ?_,
      fun within => absurd within cluster, fun _ => Dev.moduleFault_marks _⟩
    · rw [fault]; exact lost
    · rw [fault]; rfl

/-- Looms set one after another. -/
theorem Dev.foldl_setLoom (ls : List Nat) (x : Nat → LoomSt) (s : Dev) : ∃ lo, ls.foldl (fun t l => t.setLoom l (x l)) s = { s with looms := lo } ∧
    ∀ l, tget {} lo l = if l ∈ ls then x l else s.loom l := by
  induction ls generalizing s with
  | nil => exact ⟨s.looms, rfl, fun l => (if_neg List.not_mem_nil).symm⟩
  | cons a ls ih =>
    obtain ⟨lo, set, reads⟩ := ih (s.setLoom a (x a))
    refine ⟨lo, set, fun l => ?_⟩
    rw [reads, Dev.setLoom_loom]
    by_cases later : l ∈ ls
    · rw [if_pos later, if_pos (List.mem_cons_of_mem _ later)]
    · by_cases this : l = a
      · rw [if_neg later, if_pos this, if_pos (this ▸ List.mem_cons_self), this]
      · rw [if_neg later, if_neg this, if_neg fun h => (List.mem_cons.1 h).elim this later]

/-- A domain switched off. -/
def Dev.switchedOff (s : Dev) (r : Nat) : Dev := s.modPower fun w => { w with lost := w.lost.filter (· != r), dark := sinsert r w.dark }

/-- The stall that holds a cluster, if any, counts the responses that are discarded. -/
def Dev.discards (s : Dev) (c late : Nat) : Dev := match s.clusterStall c with
  | some k => s.modStall k fun x => { x with discard := x.discard + BitVec.ofNat 64 late }
  | none => s

theorem Dev.discards_frame (s : Dev) (c late : Nat) : ∃ st, s.discards c late = { s with stalls := st } ∧
    (∀ k, s.clusterStall c ≠ some k → tget {} st k = s.stall k) ∧ ∀ k, ({ tget {} st k with discard := 0 } : StallSt) = { s.stall k with discard := 0 } := by
  unfold discards
  split
  · next k held =>
    refine ⟨_, rfl, fun i other => tget_tset_other _ _ _ _ _ fun same => other (same ▸ held), fun i => ?_⟩
    rw [tget_tset]
    split
    · next same => rw [same]
    · rfl
  · exact ⟨s.stalls, rfl, fun _ _ => rfl, fun _ => rfl⟩

/-- The responses that a cluster's pickers await. -/
def Dev.awaited (s : Dev) (c : Nat) : Nat := (((List.range 12).map fun i => 12 * c + i).map fun l => match (s.loom l).pick with
  | some j => j.pend.length
  | none => 0).sum

/-- A cluster's domain switched off: the stall that held it counts what is discarded, and its looms hold nothing. -/
theorem runs_regulationTimeout {s : State} {r : DomainId} {us : Nat} (lost : r.val ∈ s.power.lost) (long : 1000 ≤ us) :
    ∃ d, Runs (.regulationTimeout r us) s d ∧ r.val ∈ d.power.dark ∧ r.val ∉ d.power.lost ∧ d.mem = s.mem ∧
      (∀ k, s.clusterStall r.val ≠ some k → d.stall k = s.stall k) ∧
      (∀ k, ({ d.stall k with discard := 0 } : StallSt) = { s.stall k with discard := 0 }) ∧
      (r.val < 96 → ∀ i < 12, d.loom (12 * r.val + i) = { frzFault := (s.loom (12 * r.val + i)).frzFault }) := by
  have due : (!s.power.lost.contains r.val || decide (us < 1000)) = false := by
    rw [List.contains_iff_mem.2 lost, decide_eq_false (Nat.not_lt.2 long)]
    rfl
  have dark : r.val ∈ sinsert r.val s.power.dark := (mem_sinsert ..).2 (.inl rfl)
  have gone : r.val ∉ s.power.lost.filter (· != r.val) := fun h => bne_iff_ne.1 (List.mem_filter.1 h).2 rfl
  by_cases cluster : r.val < 96
  · obtain ⟨st, discarded, others, same⟩ := (s.switchedOff r.val).discards_frame r.val (s.awaited r.val)
    obtain ⟨lo, emptied, looms⟩ := Dev.foldl_setLoom ((List.range 12).map fun i => 12 * r.val + i) (fun l => { frzFault := (s.loom l).frzFault })
      ((s.switchedOff r.val).discards r.val (s.awaited r.val))
    have runs : Runs (.regulationTimeout r us) s ((((List.range 12).map fun i => 12 * r.val + i).foldl
        (fun t l => t.setLoom l { frzFault := (s.loom l).frzFault }) ((s.switchedOff r.val).discards r.val (s.awaited r.val)))) := by
      show execRegulationTimeout r us s = _
      refine State.onDev_next s _ _ ?_
      rw [due, if_neg Bool.false_ne_true]
      exact if_pos cluster
    refine ⟨_, runs, ?_⟩
    rw [emptied, discarded]
    refine ⟨dark, gone, rfl, others, same, fun _ i inside => (looms _).trans (if_pos ?_)⟩
    exact List.mem_map.2 ⟨i, List.mem_range.2 inside, rfl⟩
  · refine ⟨s.switchedOff r.val, ?_, dark, gone, rfl, fun _ _ => rfl, fun _ => rfl, fun within => absurd within cluster⟩
    show execRegulationTimeout r us s = _
    refine State.onDev_next s _ _ ?_
    rw [due, if_neg Bool.false_ne_true]
    exact if_neg cluster

end Sys2Proof.Machine
end

section
/-!
PROOFS. Emergencies (R436, R439), and what an activation's end or refusal leaves alone.
-/
namespace Sys2Proof.Machine

/-- `d` is `s` but for firmware, hub, messages and management: what activations and their reports change. -/
def OfficeFrame (s d : Dev) : Prop := ∃ fw hu ou mg, d = { s with fw := fw, hub := hu, out := ou, mgt := mg }

namespace OfficeFrame
variable {s d : Dev}

theorem refl (s : Dev) : OfficeFrame s s := ⟨_, _, _, _, rfl⟩

theorem trans {e : Dev} : OfficeFrame s d → OfficeFrame d e → OfficeFrame s e := by
  rintro ⟨_, _, _, _, rfl⟩ ⟨_, _, _, _, rfl⟩
  exact ⟨_, _, _, _, rfl⟩

theorem modFw (h : OfficeFrame s d) (f : FwSt → FwSt) : OfficeFrame s (d.modFw f) := h.trans ⟨_, _, _, _, rfl⟩

theorem modMgt (h : OfficeFrame s d) (f : MgtSt → MgtSt) : OfficeFrame s (d.modMgt f) := h.trans ⟨_, _, _, _, rfl⟩

theorem logEvent (h : OfficeFrame s d) (src code st sev : Nat) (data : List Nat) : OfficeFrame s (d.logEvent src code st sev data) := by
  rw [Dev.logEvent_frame]
  exact h.trans ⟨_, _, _, _, rfl⟩

theorem msix (h : OfficeFrame s d) (i v : Nat) : OfficeFrame s (d.msix i v) := by
  rw [Dev.msix_frame]
  exact h.trans ⟨_, _, _, _, rfl⟩

theorem ite {c : Prop} [Decidable c] {e : Dev} (h : OfficeFrame s d) (g : OfficeFrame s e) : OfficeFrame s (if c then d else e) := by
  split
  · exact h
  · exact g

theorem endActivation (h : OfficeFrame s d) (image result : Nat) (pldm : Bool) : OfficeFrame s (d.endActivation image result pldm) := by
  have told := (h.modFw fun f => { f with act := none, actResult := BitVec.ofNat 8 result }).logEvent 0 0x0041 255 0 [image, result] |>.msix 0 7
  exact .ite (told.modMgt _) told

theorem revertActivation (h : OfficeFrame s d) (result : Nat) : OfficeFrame s (d.revertActivation result) := by
  unfold Dev.revertActivation
  split
  · exact .ite h (.endActivation (h.modFw _) ..)
  · exact h

theorem activate (h : OfficeFrame s d) (image : Nat) (pldm : Bool) : OfficeFrame s (d.activate image pldm) := by
  have told (code : Nat) := (h.modFw fun f => { f with actResult := BitVec.ofNat 8 code }).logEvent 0 0x0041 255 0 [image, code]
  exact .ite (.ite ((told _).modMgt _) (told _)) (h.modFw _)

theorem pldmNext (h : OfficeFrame s d) : OfficeFrame s d.pldmNext := by
  unfold Dev.pldmNext
  split
  · split
    · exact (h.modMgt _).activate ..
    · exact h.modMgt _
  · exact h

end OfficeFrame

theorem runs_emergencySet {s : State} {e : EmergCond} (on : s.power.state ≠ .off) (holds : s.emergHolds e = true)
    (new : s.power.emerg.getLsbD (emergBit e) = false) : ∃ d, Runs (.emergencySet e) s d ∧
    d.power.emerg = setBit s.power.emerg (emergBit e) ∧ d.mem = s.mem ∧ d.looms = s.looms := by
  have sets : ¬(s.power.state = .off ∨ (!s.emergHolds e) = true ∨ s.power.emerg.getLsbD (emergBit e) = true) := by
    rw [holds, new]
    simpa using on
  have frame := ((((OfficeFrame.refl (s.modPower fun w => { w with emerg := setBit w.emerg (emergBit e) })).msix 0 8).logEvent 0x0100 0x0050 255 2
    [emergBit e, 1]).revertActivation 6).pldmNext
  refine ⟨_, show execEmergencySet e s = _ from State.onDev_next s _ _ (if_neg sets), ?_⟩
  obtain ⟨_, _, _, _, is⟩ := frame
  rw [is]
  exact ⟨rfl, rfl, rfl⟩

theorem runs_emergencyClear {s : State} {e : EmergCond} {ms : Nat} (gone : s.emergHolds e = false)
    (set : s.power.emerg.getLsbD (emergBit e) = true) (long : 1000 ≤ ms) : ∃ d, Runs (.emergencyClear e ms) s d ∧
    d.power.emerg = clrBit s.power.emerg (emergBit e) ∧ d.mem = s.mem ∧ d.looms = s.looms := by
  have clears : ¬((s.emergHolds e = true) ∨ (!s.power.emerg.getLsbD (emergBit e)) = true ∨ ms < 1000) := by
    rw [gone, set]
    simpa using long
  have frame := ((OfficeFrame.refl (s.modPower fun w => { w with emerg := clrBit w.emerg (emergBit e) })).msix 0 8).logEvent 0x0100 0x0050 255 2
    [emergBit e, 0]
  refine ⟨_, show execEmergencyClear e ms s = _ from State.onDev_next s _ _ (if_neg clears), ?_⟩
  obtain ⟨_, _, _, _, is⟩ := frame
  rw [is]
  exact ⟨rfl, rfl, rfl⟩

/-- Settles O51. -/
theorem powerLoopsAndEmergencies : Obligations.PowerLoopsAndEmergencies := by
  intro s
  refine ⟨fun mw mv clus dies run core => runs_powerLoopPeriod run core mw mv clus dies, fun c ms long core run => ?_,
    fun r on kept lit => runs_regulationLoss on kept lit, fun r us lost long => runs_regulationTimeout lost long,
    fun e on => ⟨runs_emergencySet on, fun ms => runs_emergencyClear⟩⟩
  show execThermalModelPopulated c ms s = _
  exact State.onDev_next s _ _ (congrArg Host.Outcome.next (if_pos ⟨long, core, run⟩))

end Sys2Proof.Machine
end

section
/-!
PROOFS. The event log's writing, activations, flash writes and the supply inhibit (R428, R429, R437 to R440, R457 to R460).
-/
namespace Sys2Proof.Machine

/-! ### The event log (R460) -/

/-- A raised vector takes no message back. -/
theorem Dev.msix_out_sub {s : Dev} {o : Out} (h : o ∈ s.out) (fn v : Nat) : o ∈ (s.msix fn v).out := by
  obtain same | ⟨a, b, sent⟩ | pends := s.msix_cases fn v
  · rw [same]; exact h
  · rw [sent]; exact List.mem_append_left _ h
  · rw [pends]; exact h

/-- The oldest waiting entry as it is written. -/
def Dev.loggedEntry (s : Dev) (us : W64) (e : LogEntry) : LogEntry :=
  { e with seq := s.hub.logSeq + 1, since := if s.hub.hostTimeSet then us else 0xFFFFFFFFFFFFFFFF }

/-- The oldest waiting entry written under the next SEQ, and its write begun. -/
def Dev.logWritten (s : Dev) (us : W64) (e : LogEntry) (rest : List LogEntry) : Dev :=
  ((s.modHub fun h => { h with
    logQueue := rest, logSeq := s.hub.logSeq + 1,
    log := tdrop (fun i => decide (i + 131072 ≤ (s.hub.logSeq + 1).toNat)) (tset none h.log (s.hub.logSeq + 1).toNat (some (s.loggedEntry us e))) }).modFw
      fun f => { f with logOf := tset 0 f.logOf e.source.toNat (s.hub.logSeq + 1) }).beginNv (.log (s.hub.logSeq + 1).toNat)

/-- A PlatformEventMessage from WARNING up. -/
def Dev.platformEvent (s : Dev) (n : Nat) (e : LogEntry) : Dev :=
  if 1 ≤ e.severity.toNat then s.emit (.mctp 2 0 [n, e.code.toNat, e.severity.toNat]) else s

/-- Vector 6 of the physical function from ERROR up. -/
def Dev.errorVector (s : Dev) (e : LogEntry) : Dev := if 2 ≤ e.severity.toNat then s.msix 0 6 else s

theorem Dev.platformEvent_frame (s : Dev) (n : Nat) (e : LogEntry) : ∃ ou, s.platformEvent n e = { s with out := ou } ∧
    (1 ≤ e.severity.toNat → Out.mctp 2 0 [n, e.code.toNat, e.severity.toNat] ∈ ou) := by
  unfold platformEvent
  split
  · exact ⟨_, rfl, fun _ => List.mem_append_right _ List.mem_cons_self⟩
  · next calm => exact ⟨s.out, rfl, fun warning => absurd warning calm⟩

theorem Dev.errorVector_frame (s : Dev) (e : LogEntry) : ∃ ou fns, s.errorVector e = { s with out := ou, hub := { s.hub with fns := fns } } ∧
    ∀ o ∈ s.out, o ∈ ou := by
  unfold errorVector
  split
  · exact ⟨_, _, s.msix_frame 0 6, fun o h => Dev.msix_out_sub h 0 6⟩
  · exact ⟨s.out, s.hub.fns, rfl, fun o h => h⟩

/-- Settles O30. -/
theorem eventLogEntriesAreWritten : Obligations.EventLogEntriesAreWritten := by
  intro us s e rest waits core free
  obtain ⟨ou, told, event⟩ := (s.logWritten us e rest).platformEvent_frame (s.hub.logSeq + 1).toNat e
  obtain ⟨ou', fns, raised, kept⟩ := ((s.logWritten us e rest).platformEvent (s.hub.logSeq + 1).toNat e).errorVector_frame e
  have runs : Runs (.eventLogWrite us) s (((s.logWritten us e rest).platformEvent (s.hub.logSeq + 1).toNat e).errorVector e) := by
    show execEventLogWrite us s = _
    refine State.onDev_next s _ _ ?_
    rw [waits]
    dsimp only
    rw [core, free]
    rfl
  refine ⟨_, runs, ?_⟩
  rw [raised, told]
  rw [told] at kept
  refine ⟨rfl, rfl, fun many => ?_, fun some => ?_, fun warning => kept _ (event warning), rfl, rfl, rfl, rfl⟩
  · refine (tget_tdrop none (fun i => decide (i + 131072 ≤ (s.hub.logSeq + 1).toNat)) _ _).trans (if_pos (decide_eq_true ?_))
    exact (Nat.sub_add_cancel (Nat.le_of_lt many)).le
  · have newest : ¬(decide ((s.hub.logSeq + 1).toNat + 131072 ≤ (s.hub.logSeq + 1).toNat) = true) := by
      rw [decide_eq_true_eq]
      omega
    exact (tget_tdrop none (fun i => decide (i + 131072 ≤ (s.hub.logSeq + 1).toNat)) _ _).trans ((if_neg newest).trans (tget_tset_same ..))

/-! ### Activations (R437 to R440) -/

/-- Numbers inserted one after another. -/
theorem mem_foldl_sinsert (ps l : List Nat) (p : Nat) : p ∈ ps.foldl (fun l p => sinsert p l) l ↔ p ∈ ps ∨ p ∈ l := by
  induction ps generalizing l with
  | nil => exact ⟨.inr, fun h => h.resolve_left List.not_mem_nil⟩
  | cons a ps ih => rw [List.foldl_cons, ih, mem_sinsert, List.mem_cons, or_left_comm, or_assoc]

theorem runs_fwActivate {s : State} {image : BitVec 3} (up : s.hub.linkUp = true) :
    Runs (.fwActivate 0 image) s ((s.modFw fun f => { f with actImage := image }).activate image.toNat false) := by
  show execFwActivate 0 image s = _
  exact State.onDev_hostEffect up rfl

/-- Beginning the boot record's write changes its bank and the writes in progress. -/
theorem Dev.beginBoot_frame (s : Dev) (slotB : List Nat) : ∃ b0 b1 nv, s.beginBoot slotB =
    { s with fw := { s.fw with bank0 := b0, bank1 := b1, bootHeld := none, nv := nv } } := by
  unfold beginBoot
  dsimp only
  split
  · exact ⟨s.fw.bank0, _, _, rfl⟩
  · exact ⟨_, s.fw.bank1, _, rfl⟩

/-- Firmware with a hand-over record adopted, and the processor no longer waited for. -/
def Dev.adopted (s : Dev) (n : Nat) (a : ActJob) (body : List Byte) : Dev :=
  (s.modFw fun f => { f with handover := tset [] f.handover n (handoverRecord a.image
    (imageVersion (s.fw.image (2 * a.image + b2n (s.fw.slotB.contains n)))) (imageVersion (s.fw.image (s.fw.otherKey a.image))) body) }).modFw
      fun f => { f with act := some { a with wait := a.wait.filter (· != n), writing := (a.wait.filter (· != n)).isEmpty && !s.power.nvInh } }

theorem runs_fwHandoverReady {s : State} {p : Proc} {us : Nat} {body : List Byte} {a : ActJob} (act : s.fw.act = some a)
    (waits : procNum p ∈ a.wait) (short : body.length ≤ 65472) : ∃ d, Runs (.fwHandoverReady p us body none) s d ∧
    tget [] d.fw.handover (procNum p) = handoverRecord a.image (imageVersion (s.fw.image (2 * a.image + b2n (s.fw.slotB.contains (procNum p)))))
      (imageVersion (s.fw.image (s.fw.otherKey a.image))) body ∧
    d.fw.act = some { a with
      wait := a.wait.filter (· != procNum p), writing := (a.wait.filter (· != procNum p)).isEmpty && !s.power.nvInh } ∧
    d = { s.toDev with fw := d.fw } := by
  have ready : (!a.wait.contains (procNum p) || decide (65472 < body.length)) = false := by
    rw [List.contains_iff_mem.2 waits, decide_eq_false (Nat.not_lt.2 short)]
    rfl
  obtain ⟨b0, b1, nv, begun⟩ := (s.adopted (procNum p) a body).beginBoot_frame
    (if s.fw.activeB.contains a.image then s.fw.activeB.filter (· != a.image) else sinsert a.image s.fw.activeB)
  have runs : Runs (.fwHandoverReady p us body none) s (if (a.wait.filter (· != procNum p)).isEmpty && !s.power.nvInh then
      (s.adopted (procNum p) a body).beginBoot (if s.fw.activeB.contains a.image then s.fw.activeB.filter (· != a.image) else sinsert a.image s.fw.activeB)
    else s.adopted (procNum p) a body) := by
    show execFwHandoverReady p us body none s = _
    refine State.onDev_next s _ _ ?_
    rw [act]
    dsimp only
    rw [ready]
    rfl
  have record := tget_tset_same [] s.fw.handover (procNum p) (handoverRecord a.image
    (imageVersion (s.fw.image (2 * a.image + b2n (s.fw.slotB.contains (procNum p))))) (imageVersion (s.fw.image (s.fw.otherKey a.image))) body)
  refine ⟨_, runs, ?_⟩
  split
  · rw [begun]
    exact ⟨record, rfl, rfl⟩
  · exact ⟨record, rfl, rfl⟩

/-- The writes in progress end well. -/
def FwSt.committed (f : FwSt) : FwSt := f.nv.foldl (fun f w => match w with
  | .boot b => f.bootDone b
  | _ => f) f

/-- The processors of an image resume their duties from a slot. -/
def Dev.resumed (s : Dev) (ps : List Nat) (key : Nat) : Dev := ps.foldl (fun t p => t.modFw fun f => { f with
  handing := f.handing.filter (· != p), slotB := if key % 2 = 1 then sinsert p f.slotB else f.slotB.filter (· != p) }) s

theorem Dev.resumed_frame (ps : List Nat) (key : Nat) (s : Dev) : ∃ f, s.resumed ps key = { s with fw := f } ∧
    ∀ p, p ∈ f.handing → p ∈ s.fw.handing ∧ p ∉ ps := by
  induction ps generalizing s with
  | nil => exact ⟨s.fw, rfl, fun p h => ⟨h, List.not_mem_nil⟩⟩
  | cons a ps ih =>
    obtain ⟨f, is, handing⟩ := ih (s.modFw fun f => { f with
      handing := f.handing.filter (· != a), slotB := if key % 2 = 1 then sinsert a f.slotB else f.slotB.filter (· != a) })
    refine ⟨f, is, fun p h => ?_⟩
    obtain ⟨before, other⟩ := handing p h
    obtain ⟨before, ne⟩ := List.mem_filter.1 before
    exact ⟨before, fun listed => (List.mem_cons.1 listed).elim (bne_iff_ne.1 ne) other⟩

/-- An activation that ends for itself leaves management alone. -/
theorem Dev.endActivation_fw (s : Dev) (image result : Nat) : ∃ hu ou, s.endActivation image result false =
    { s with fw := { s.fw with act := none, actResult := BitVec.ofNat 8 result }, hub := hu, out := ou } := by
  unfold endActivation
  rw [if_neg Bool.false_ne_true, Dev.msix_frame, Dev.logEvent_frame]
  exact ⟨_, _, rfl⟩

theorem runs_fwCommit {s : State} {a : ActJob} (act : s.fw.act = some a) (adopted : a.wait = []) (writing : a.writing = true)
    (own : a.pldm = false) (quiet : s.mgt.activating = false) : ∃ d, Runs .fwCommit s d ∧ d.fw.act = none ∧ d.fw.actResult = 0 ∧
    (∀ p ∈ procsOf a.image, p ∉ d.fw.handing) ∧ d.mem = s.mem ∧ d.looms = s.looms := by
  obtain ⟨f, resumed, handing⟩ := Dev.resumed_frame (procsOf a.image) (if a.written then s.fw.activeKey a.image else s.fw.otherKey a.image)
    (s.modFw FwSt.committed)
  obtain ⟨_, _, ended⟩ := Dev.endActivation_fw ((s.modFw FwSt.committed).resumed (procsOf a.image)
    (if a.written then s.fw.activeKey a.image else s.fw.otherKey a.image)) a.image 0
  have runs : Runs .fwCommit s (((s.modFw FwSt.committed).resumed (procsOf a.image)
      (if a.written then s.fw.activeKey a.image else s.fw.otherKey a.image)).endActivation a.image 0 false).pldmNext := by
    show execFwCommit s = _
    refine State.onDev_next s _ _ ?_
    rw [act]
    dsimp only
    rw [adopted, writing, own]
    rfl
  have last : (((s.modFw FwSt.committed).resumed (procsOf a.image)
      (if a.written then s.fw.activeKey a.image else s.fw.otherKey a.image)).endActivation a.image 0 false).mgt.activating = false := by
    rw [ended, resumed]
    exact quiet
  rw [Dev.pldmNext, last, Bool.false_and, if_neg Bool.false_ne_true] at runs
  refine ⟨_, runs, ?_⟩
  rw [ended, resumed]
  exact ⟨rfl, rfl, fun p listed hands => (handing p hands).2 listed, rfl, rfl⟩

/-! ### Flash writes and the supply inhibit (R428, R429) -/

theorem runs_nvWriteComplete {s : State} {sb : Nat} {w : NvWrite} {rest : List NvWrite} (writes : s.fw.nv = w :: rest) (up : 2900 < sb)
    (plain : ∀ b, w ≠ .boot b) : Runs (.nvWriteComplete sb) s (s.modFw fun f => { f with nv := rest }) := by
  show execNvWriteComplete sb s = _
  refine State.onDev_next s _ _ ?_
  rw [writes]
  dsimp only
  rw [if_neg (Nat.not_le.2 up)]
  cases w with
  | boot b => exact absurd rfl (plain b)
  | log | dump | operatorFuse | floorFuse | slot => rfl

theorem runs_nvInhibitRelease {s : State} {mv sb ms : Nat} (input : 40500 ≤ mv) (standby : 3100 ≤ sb) (long : 100 ≤ ms)
    (inhibit : s.power.nvInh = true) (noLoss : s.hub.logLost = 0) (noBoot : s.fw.bootHeld = none) (noAct : s.fw.act = none) :
    Runs (.nvInhibitRelease mv sb ms) s (s.modPower fun w => { w with nvInh := false }) := by
  show execNvInhibitRelease mv sb ms s = _
  refine State.onDev_next s _ _ ?_
  rw [if_pos ⟨input, standby, long, inhibit⟩]
  dsimp only
  rw [if_pos (show (s.modPower fun w => { w with nvInh := false }).hub.logLost = 0 from noLoss)]
  have noBoot' : (s.modPower fun w => { w with nvInh := false }).fw.bootHeld = none := noBoot
  split
  case h_1 a held =>
    split at held
    case h_1 l waits => exact absurd (noBoot'.symm.trans waits) (Option.some_ne_none l).symm
    case h_2 => exact absurd (noAct.symm.trans held) (Option.some_ne_none a).symm
  case h_2 =>
    split
    case h_1 l waits => exact absurd (noBoot'.symm.trans waits) (Option.some_ne_none l).symm
    case h_2 => rfl

/-- Settles O48. -/
theorem activationAndFlash : Obligations.ActivationAndFlash := by
  intro s
  refine ⟨fun image up => ⟨fun none => ?_, fun refused => ?_⟩, fun p us body a act waits short => runs_fwHandoverReady act waits short,
    fun a act adopted writing own quiet => runs_fwCommit act adopted writing own quiet,
    fun sb w rest writes up plain => runs_nvWriteComplete writes up plain, fun mv sb ms => ⟨fun on low => ?_, fun input standby long inhibit noLoss noBoot
      noAct => runs_nvInhibitRelease input standby long inhibit noLoss noBoot noAct, fun on low => ?_, fun on input standby => ?_⟩⟩
  · have runs := runs_fwActivate (image := image) up
    unfold Dev.activate at runs
    rw [none, if_neg (not_not.2 rfl)] at runs
    exact ⟨_, runs, rfl, rfl, fun p listed => (mem_foldl_sinsert ..).2 (.inl listed), rfl⟩
  · have runs := runs_fwActivate (image := image) up
    unfold Dev.activate at runs
    rw [if_pos refused, if_neg Bool.false_ne_true] at runs
    exact runs
  · show execNvInhibitStart mv sb s = _
    exact State.onDev_next s _ _ (congrArg Host.Outcome.next (if_pos ⟨low, on⟩))
  · show execNvEarlyWarning mv sb s = _
    exact State.onDev_next s _ _ ((if_neg on).trans (if_pos low))
  · have high : ¬(mv < 42000 ∨ sb < 3150) := by omega
    show execNvEarlyWarning mv sb s = _
    exact State.onDev_next s _ _ ((if_neg on).trans ((if_neg high).trans (if_pos ⟨input, standby⟩)))

end Sys2Proof.Machine
end

section
/-!
PROOFS. Limits, trips, supply loss and cold reset (R423, R425, R426, R482).
-/
namespace Sys2Proof.Machine

/-! ### No abort of a flash write numbers an event (R429, R460) -/

namespace Dev

theorem logEvent_logSeq (s : Dev) (src code st sev : Nat) (data : List Nat) : (s.logEvent src code st sev data).hub.logSeq = s.hub.logSeq := by
  rw [logEvent_frame]

theorem endActivation_logSeq (s : Dev) (image result : Nat) (pldm : Bool) : (s.endActivation image result pldm).hub.logSeq = s.hub.logSeq := by
  have told := logEvent_logSeq (s.modFw fun f => { f with act := none, actResult := BitVec.ofNat 8 result }) 0 0x0041 255 0 [image, result]
  unfold endActivation
  split <;> exact (congrArg (·.hub.logSeq) (msix_frame ..)).trans told

theorem revertActivation_logSeq (s : Dev) (result : Nat) : (s.revertActivation result).hub.logSeq = s.hub.logSeq := by
  unfold revertActivation
  split
  · split
    · rfl
    · exact endActivation_logSeq ..
  · rfl

theorem activate_logSeq (s : Dev) (image : Nat) (pldm : Bool) : (s.activate image pldm).hub.logSeq = s.hub.logSeq := by
  have told (code : Nat) := logEvent_logSeq (s.modFw fun f => { f with actResult := BitVec.ofNat 8 code }) 0 0x0041 255 0 [image, code]
  unfold activate
  dsimp only
  split
  · split <;> exact told _
  · rfl

theorem pldmNext_logSeq (s : Dev) : s.pldmNext.hub.logSeq = s.hub.logSeq := by
  unfold pldmNext
  split
  · split
    · exact activate_logSeq (s.modMgt _) ..
    · rfl
  · rfl

theorem abortNv_logSeq (s : Dev) (w : NvWrite) : (s.abortNv w).hub.logSeq = s.hub.logSeq := by
  cases w with
  | boot b => exact (pldmNext_logSeq _).trans (revertActivation_logSeq s 6)
  | log | dump | operatorFuse | floorFuse | slot => rfl

theorem powerOff_logSeq (s : Dev) : s.powerOff.hub.logSeq = s.hub.logSeq :=
  List.foldlRecOn s.fw.nv _ (motive := fun t => t.hub.logSeq = s.hub.logSeq) rfl fun t same w _ => (abortNv_logSeq t w).trans same

end Dev

/-! ### What the loss of the main supply leaves (R425) -/

/-- The log, the image slots and the fuses stand; looms, stalls, tiers, tally, host link and device plan are as after reset. -/
def Dev.MainLost (s d : Dev) : Prop := d.hub.log = s.hub.log ∧ d.hub.logSeq = s.hub.logSeq ∧ d.fw.slots = s.fw.slots ∧ d.sec.opFuses = s.sec.opFuses ∧
  d.sec.floors = s.sec.floors ∧ d.looms = [] ∧ d.stalls = [] ∧ d.mem = {} ∧ d.tally = {} ∧ d.hub.linkUp = false ∧ d.hub.devPlan = none

theorem Dev.unpower_mainLost (s : Dev) (next : PwrState) : s.MainLost (s.unpower next) :=
  ⟨rfl, rfl, rfl, rfl, rfl, rfl, rfl, rfl, rfl, rfl, rfl⟩

theorem Dev.coldReset_mainLost (s : Dev) : s.MainLost s.coldReset := ⟨rfl, rfl, rfl, rfl, rfl, rfl, rfl, rfl, rfl, rfl, rfl⟩

/-- A trip is latched with its cause. -/
theorem Dev.trip_latches (s : Dev) (cause : Nat) : (s.trip cause).power.state = .tripped ∧
    (s.trip cause).power.trip = BitVec.ofNat 2 cause ∧ s.MainLost (s.trip cause) := by
  unfold trip
  rw [logEvent_frame]
  exact ⟨rfl, rfl, s.unpower_mainLost .tripped⟩

theorem runs_junctionTrip {s : State} {t : Int} (on : s.mainOn = true) (hot : 1050 ≤ t) : Runs (.junctionTrip t) s (s.trip 1) := by
  show execJunctionTrip t s = _
  exact State.onDev_next s _ _ (congrArg Host.Outcome.next (if_pos ⟨hot, on⟩))

theorem runs_inputUndervoltage {s : State} {mv us : Nat} (on : s.mainOn = true) (low : mv < 38000) (long : 100 ≤ us) :
    Runs (.inputUndervoltage mv us) s (s.unpower .standby) := by
  show execInputUndervoltage mv us s = _
  exact State.onDev_next s _ _ (congrArg Host.Outcome.next (if_pos ⟨low, long, on⟩))

theorem runs_inputOvervoltage {s : State} {mv us : Nat} (on : s.mainOn = true) (high : 62000 < mv) (long : 10 ≤ us) :
    Runs (.inputOvervoltage mv us) s (s.unpower .standby) := by
  show execInputOvervoltage mv us s = _
  exact State.onDev_next s _ _ (congrArg Host.Outcome.next (if_pos ⟨high, long, on⟩))

theorem runs_inputOvercurrent {s : State} {ma us : Nat} (on : s.mainOn = true) (high : 90000 ≤ ma) (long : 50 ≤ us) :
    Runs (.inputOvercurrent ma us) s (s.modPower fun w => { w with limiter := true }) := by
  show execInputOvercurrent ma us s = _
  exact State.onDev_next s _ _ (congrArg Host.Outcome.next (if_pos ⟨high, long, on⟩))

theorem runs_inputShort {s : State} {ma us : Nat} (on : s.power.state ≠ .off) (high : 120000 ≤ ma) (long : 2 ≤ us) :
    Runs (.inputShort ma us) s (s.trip 2) := by
  show execInputShort ma us s = _
  exact State.onDev_next s _ _ (congrArg Host.Outcome.next (if_pos ⟨high, long, on⟩))

theorem runs_limiterRelease {s : State} {ma ms : Nat} (low : ma < 85000) (long : 10 ≤ ms) :
    Runs (.limiterRelease ma ms) s (s.modPower fun w => { w with limiter := false }) := by
  show execLimiterRelease ma ms s = _
  exact State.onDev_next s _ _ (congrArg Host.Outcome.next (if_pos ⟨low, long⟩))

/-- The input's loss and the entry's broken contact power the module off. -/
theorem runsMeter_powerOff {s : State} {c : Instr} {mv : Nat} (lost : c = .inputLoss mv ∧ mv < 30000 ∨ c = .vinPrsntBreak) :
    RunsMeter c s s.toDev.powerOff { s.meter with ready := false } := by
  obtain ⟨rfl, low⟩ | rfl := lost
  · show execInputLoss mv s = _
    exact congrArg Host.Outcome.next (if_pos low)
  · rfl

theorem runs_coldReset {s : State} (up : s.hub.linkUp = true) (on : s.power.state = .run ∨ s.power.state = .standby ∨ s.power.state = .tripped) :
    Runs (.coldReset 0) s (s.coldReset.modPower fun w => { w with stay := s.power.stay }) := by
  show execColdReset 0 s = _
  exact State.onDev_hostEffect up (congrArg s.toDev.host (if_pos ⟨rfl, on⟩))

/-- Settles O49. -/
theorem supplyLimits : Obligations.SupplyLimits := by
  intro s
  refine ⟨fun on => ⟨fun t hot => ⟨_, runs_junctionTrip on hot, s.trip_latches 1⟩,
      fun mv us low long => ⟨_, runs_inputUndervoltage on low long, rfl, s.unpower_mainLost .standby⟩,
      fun mv us high long => ⟨_, runs_inputOvervoltage on high long, rfl, s.unpower_mainLost .standby⟩,
      fun ma us high long => runs_inputOvercurrent on high long⟩,
    fun ma us high long on => ⟨_, runs_inputShort on high long, s.trip_latches 2⟩,
    fun ma ms low long => runs_limiterRelease low long,
    fun c mv lost => ⟨_, runsMeter_powerOff lost, rfl, rfl, rfl, s.powerOff_logSeq, rfl, rfl⟩,
    fun up on => ⟨_, runs_coldReset up on, s.coldReset_mainLost, rfl, rfl, rfl, rfl, rfl, rfl, rfl, rfl⟩⟩

end Sys2Proof.Machine
end

section
/-!
PROOFS. Function resets, and the host link's loss and return (R446, R451, R484).
-/
namespace Sys2Proof.Machine

/-- Functions of a list without repetition are updated each by itself; nothing else changes. -/
theorem Dev.foldl_modFn {fs : List Nat} (once : fs.Nodup) (g : Nat → FnSt → FnSt) (s : Dev) :
    ∃ t, fs.foldl (fun t f => t.modFn f (g f)) s = { s with hub := { s.hub with fns := t } } ∧
      ∀ i, tget {} t i = if i ∈ fs then g i (s.fn i) else s.fn i := by
  induction fs generalizing s with
  | nil => exact ⟨s.hub.fns, rfl, fun i => rfl⟩
  | cons f fs ih =>
    obtain ⟨new, once⟩ := List.nodup_cons.1 once
    obtain ⟨t, is, holds⟩ := ih once (s.modFn f (g f))
    refine ⟨t, is, fun i => ?_⟩
    rw [holds i, modFn_fn]
    by_cases at_f : i = f
    · subst at_f
      rw [if_neg new, if_pos rfl, if_pos List.mem_cons_self]
    · rw [if_neg at_f]
      simp only [List.mem_cons, at_f, false_or]

/-! ### Resets (R446) -/

theorem runs_functionLevelReset {s : State} (up : s.hub.linkUp = true) (fn : FnId) : ∃ d, Runs (.functionLevelReset fn) s d ∧
    d.fn fn.val = { wbuf := (s.fn fn.val).wbuf } ∧ (∀ f, f ≠ fn.val → d.fn f = s.fn f) ∧
    d.hub.vfEnable = (if fn = 0 then false else s.hub.vfEnable) ∧
    d = { s.toDev with hub := { s.hub with fns := d.hub.fns, vfEnable := d.hub.vfEnable } } := by
  have own : (s.resetFn fn.val).fn fn.val = { wbuf := (s.fn fn.val).wbuf } := Dev.modFn_fn_same ..
  have other (f : Nat) (h : f ≠ fn.val) : (s.resetFn fn.val).fn f = s.fn f := (Dev.modFn_fn ..).trans (if_neg h)
  by_cases physical : fn = 0
  · subst physical
    exact ⟨(s.resetFn 0).modHub fun h => { h with vfEnable := false }, show execFunctionLevelReset 0 s = _ from State.onDev_hostEffect up rfl,
      own, other, rfl, rfl⟩
  · have reset : (if fn.val = 0 then (s.resetFn 0).modHub fun h => { h with vfEnable := false } else s.resetFn fn.val) = s.resetFn fn.val :=
      if_neg fun h => physical (Fin.ext h)
    rw [if_neg physical]
    exact ⟨_, show execFunctionLevelReset fn s = _ from State.onDev_hostEffect up (congrArg s.toDev.host reset), own, other, rfl, rfl⟩

theorem runs_hotReset {s : State} (up : s.hub.linkUp = true) : ∃ d, Runs .hotReset s d ∧ d.hub.vfEnable = false ∧
    (∀ fn : FnId, d.fn fn.val = { wbuf := (s.fn fn.val).wbuf }) ∧
    d = { s.toDev with hub := { s.hub with fns := d.hub.fns, vfEnable := false } } := by
  obtain ⟨t, resets, fns⟩ := Dev.foldl_modFn List.nodup_range (fun _ f => { wbuf := f.wbuf }) s.toDev
  have effect : (((List.range 97).foldl (fun t f => t.resetFn f) s.toDev).modHub fun h => { h with vfEnable := false }) =
      { s.toDev with hub := { s.hub with fns := t, vfEnable := false } } := congrArg (·.modHub fun h => { h with vfEnable := false }) resets
  exact ⟨_, show execHotReset s = _ from State.onDev_hostEffect up (congrArg s.toDev.host effect), rfl,
    fun fn => (fns fn.val).trans (if_pos (List.mem_range.2 fn.isLt)), rfl⟩

/-! ### The host link (R484) -/

theorem runs_hostLinkReturn {s : State} (vf : Bool) (msix : List FnId) (run : s.power.state = .run) :
    ∃ d, Runs (.hostLinkReturn vf msix) s d ∧ d.hub.linkUp = true ∧ d.hub.vfEnable = vf ∧
      (∀ fn : FnId, d.fn fn.val = { s.fn fn.val with msixEnable := decide (fn ∈ msix) }) ∧
      d = { s.toDev with hub := { s.hub with fns := d.hub.fns, vfEnable := vf, linkUp := true } } := by
  obtain ⟨t, enables, fns⟩ := Dev.foldl_modFn List.nodup_range (fun f x => { x with msixEnable := msix.any fun m => m.val == f })
    (s.modHub fun h => { h with linkUp := true, vfEnable := vf })
  have named (fn : FnId) : (msix.any fun m => m.val == fn.val) = decide (fn ∈ msix) := by
    rw [Bool.eq_iff_iff, List.any_eq_true, decide_eq_true_iff]
    exact ⟨fun ⟨m, listed, same⟩ => Fin.ext (beq_iff_eq.1 same) ▸ listed, fun listed => ⟨fn, listed, beq_self_eq_true _⟩⟩
  refine ⟨_, show execHostLinkReturn vf msix s = _ from State.onDev_next s _ _ ((if_pos run).trans (congrArg Host.Outcome.next enables)), rfl, rfl,
    fun fn => ?_, rfl⟩
  exact ((fns fn.val).trans (if_pos (List.mem_range.2 fn.isLt))).trans (congrArg (fun e => { s.fn fn.val with msixEnable := e }) (named fn))

/-- Settles O26. -/
theorem functionsAreReset : Obligations.FunctionsAreReset := by
  intro s
  exact ⟨fun up => ⟨runs_functionLevelReset up, runs_hotReset up⟩, rfl, runs_hostLinkReturn⟩

end Sys2Proof.Machine
end

section
/-!
PROOFS. What Ozsol does on its management bindings (R458 to R461).
-/
namespace Sys2Proof.Machine

theorem Dev.coreUp_of_mctpUp {s : Dev} {b : Binding} (up : s.mctpUp b = true) : s.coreUp 3 = true := (Bool.and_eq_true_iff.1 up).1

theorem component_of_ne_zero {image : Fin 6} (h : image ≠ 0) : component image.val = true := by
  revert image
  decide

/-! ### Sensors (R459) -/

/-- A fold that writes the keys of a list: each of those holds what was written. -/
theorem tget_foldl_tset (v : Nat → Int) (ks : List Nat) (t : Tab Int) {i : Nat} (listed : i ∈ ks) :
    tget 0 (ks.foldl (fun t i => tset 0 t i (v i)) t) i = v i :=
  tget_foldl_tset_unless 0 (fun _ => false) v ks t listed rfl

/-- The sensors with their present values. -/
def Dev.sensed (s : Dev) (m : MeterSt) (v : List (Nat × Int)) : Dev :=
  s.modMgt fun g => { g with sensors := sensorIds.foldl (fun t i => tset 0 t i (s.sensorNow m v i)) g.sensors }

/-- A refreshed sensor reads its present value. -/
theorem Dev.tget_sensed (s : Dev) (m : MeterSt) (v : List (Nat × Int)) {i : Nat} (sensor : i ∈ sensorIds) :
    tget 0 (s.sensed m v).mgt.sensors i = s.sensorNow m v i := by
  unfold sensed modMgt
  dsimp only
  exact tget_foldl_tset _ _ _ sensor

theorem cluster_sensor (c : ClusterId) : 137 + c.val ∈ sensorIds := by
  unfold sensorIds
  rw [List.mem_append, List.mem_map]
  exact .inl ⟨136 + c.val, List.mem_range.2 (by omega), by omega⟩

theorem state_sensor {i : Nat} (listed : i ∈ [240, 241, 242]) : i ∈ sensorIds := by
  unfold sensorIds
  rw [List.mem_append]
  exact .inr listed

theorem Dev.sensorNow_cluster (s : Dev) (m : MeterSt) (v : List (Nat × Int)) (c : ClusterId) :
    s.sensorNow m v (137 + c.val) = ((s.targetNow c.val).toNat : Int) := by
  unfold sensorNow
  rw [if_pos (by omega), Nat.add_sub_cancel_left]

theorem Dev.sensorNow_power (s : Dev) (m : MeterSt) (v : List (Nat × Int)) : s.sensorNow m v 240 = (powerCode s.power.state : Int) := by
  unfold sensorNow
  rw [if_neg (by decide), if_pos rfl]

theorem Dev.sensorNow_emergency (s : Dev) (m : MeterSt) (v : List (Nat × Int)) : s.sensorNow m v 241 = (s.power.emerg.toNat : Int) := by
  unfold sensorNow
  rw [if_neg (by decide), if_neg (by decide), if_pos rfl]

theorem runs_sensorRefresh {s : State} {ms : Nat} (core : s.coreUp 3 = true) (long : 100 ≤ ms) (v : List (Nat × Int)) :
    Runs (.sensorRefresh ms v) s (s.sensed s.meter v) := by
  show execSensorRefresh ms v s = _
  exact State.onDev_next s _ _ (congrArg Host.Outcome.next (if_pos ⟨long, core⟩))

/-- An image is in its component's inactive slot, and the transfer is answered. -/
def Dev.transferred (s : Dev) (b : Binding) (i : Nat) (data : List Byte) : Dev :=
  (((s.modFw fun f => { f with slots := tset none f.slots (s.fw.otherKey i) (some (data.take 4194304)) }).beginNv
    (.slot (s.fw.otherKey i))).modMgt fun g => { g with updated := sinsert i g.updated }).respond b 6 [i, 0]

theorem Dev.transferred_image (s : Dev) (b : Binding) (i : Nat) {data : List Byte} (fits : data.length ≤ 4194304) :
    (s.transferred b i data).fw.image (s.fw.otherKey i) = data := by
  show (tget none (tset none s.fw.slots (s.fw.otherKey i) (some (data.take 4194304))) (s.fw.otherKey i)).getD _ = data
  rw [tget_tset_same, Option.getD_some, List.take_of_length_le fits]

theorem Dev.transferred_image_other (s : Dev) (b : Binding) (i : Nat) (data : List Byte) {k : Nat} (other : k ≠ s.fw.otherKey i) :
    (s.transferred b i data).fw.image k = s.fw.image k := by
  show (tget none (tset none s.fw.slots (s.fw.otherKey i) (some (data.take 4194304))) k).getD _ = _
  rw [tget_tset_other _ _ _ _ _ other]
  rfl

theorem Dev.transferred_frame (s : Dev) (b : Binding) (i : Nat) (data : List Byte) : s.transferred b i data =
    { s with fw := (s.transferred b i data).fw, mgt := (s.transferred b i data).mgt, out := (s.transferred b i data).out } := by
  generalize takes : s.transferred b i data = d
  unfold transferred at takes
  subst takes
  generalize List.take 4194304 data = body
  rfl

/-! ### Messages (R458, R459) -/

section
variable {b : Binding} {s : State} (up : s.mctpUp b = true)
include up

theorem runs_mctpControl_setEid (e : Byte) : ∃ d, Runs (.mctpControl b (.setEid e)) s d ∧ (b = .i3c → d.mgt.eidI3c = e) ∧
    (b = .vdm → d.mgt.eidPcie = e) ∧ d.out = s.out ++ [.mctp (bindNum b) 1 [e.toNat]] ∧ d = { s.toDev with mgt := d.mgt, out := d.out } := by
  have taken : ¬(!s.mctpUp b) = true := by
    rw [up]
    exact Bool.false_ne_true
  cases b with
  | i3c => exact ⟨_, show execMctpControl .i3c (.setEid e) s = _ from State.onDev_next s _ _ (if_neg taken), fun _ => rfl, nofun, rfl, rfl⟩
  | vdm => exact ⟨_, show execMctpControl .vdm (.setEid e) s = _ from State.onDev_next s _ _ (if_neg taken), nofun, fun _ => rfl, rfl, rfl⟩

theorem runs_setNumericEffecter (v : BitVec 12) : Runs (.setNumericEffecter b v) s (s.modPower fun w => { w with pcap := v }) := by
  show execSetNumericEffecter b v s = _
  exact State.onDev_next s _ _ (congrArg Host.Outcome.next (if_pos up))

theorem runs_logRead (seq : W64) : Runs (.logRead b seq) s (s.respond b 4 ((s.hub.logBytes seq).map BitVec.toNat)) := by
  show execLogRead b seq s = _
  exact State.onDev_next s _ _ (congrArg Host.Outcome.next (if_pos up))

theorem runs_mctpColdReset (on : s.power.state = .run ∨ s.power.state = .standby ∨ s.power.state = .tripped) :
    Runs (.mctpColdReset b) s s.toDev.coldReset := by
  show execMctpColdReset b s = _
  exact State.onDev_next s _ _ (congrArg Host.Outcome.next (if_pos ⟨up, on⟩))

theorem runs_getStatus : Runs (.getStatus b) s
    (s.respond b 8 [b2n s.mgt.activating, (s.mgt.refused.getD (0, 0)).1, (s.mgt.refused.getD (0, 0)).2]) := by
  show execGetStatus b s = _
  exact State.onDev_next s _ _ (congrArg Host.Outcome.next (if_pos up))

/-! ### Firmware update (R461) -/

theorem runs_updateComponent {image : Fin 6} (data : List Byte) (comp : image ≠ 0) (noAct : s.fw.act = none) (noInh : s.power.nvInh = false)
    (noWarn : s.power.nvWarn = false) : Runs (.updateComponent b image data) s (s.transferred b image.val data) := by
  have taken : (!s.mctpUp b || !component image.val) = false := by
    rw [up, component_of_ne_zero comp]
    rfl
  have begins : (s.power.nvInh || s.power.nvWarn) = false := by
    rw [noInh, noWarn]
    rfl
  show execUpdateComponent b image data s = _
  refine State.onDev_next s _ _ ?_
  dsimp only
  rw [taken, begins, noAct]
  rfl

theorem runs_verifyComplete {image : Fin 6} (comp : image ≠ 0) : Runs (.verifyComplete b image) s
    (s.respond b 7 [image.val, b2n (s.slotOk image.val (s.fw.otherKey image.val))]) := by
  have taken : (s.mctpUp b && component image.val) = true := by
    rw [up, component_of_ne_zero comp]
    rfl
  show execVerifyComplete b image s = _
  exact State.onDev_next s _ _ (congrArg Host.Outcome.next (if_pos taken))

theorem runs_activateFirmware {i : Nat} {rest : List Nat} (idle : s.mgt.activating = false)
    (updated : [5, 3, 2, 4, 1].filter (fun i => s.mgt.updated.contains i) = i :: rest) :
    Runs (.activateFirmware b) s ((s.modMgt fun g => { g with queue := rest, activating := true, refused := none }).activate i true) := by
  have taken : (!s.mctpUp b || s.mgt.activating) = false := by
    rw [up, idle]
    rfl
  show execActivateFirmware b s = _
  refine State.onDev_next s _ _ ?_
  rw [taken, updated]
  rfl

end

/-- Whether PLDM may begin an image rests on nothing of management (R437, R461). -/
theorem Dev.activationCode_modMgt (s : Dev) (f : MgtSt → MgtSt) (image : Nat) :
    (s.modMgt f).activationCode image true = s.activationCode image true := by
  simp only [activationCode, Bool.not_true, Bool.and_false]
  rfl

/-- Settles O52. -/
theorem managementMessages : Obligations.ManagementMessages := by
  intro b s up
  refine ⟨runs_mctpControl_setEid up, runs_setNumericEffecter up, runs_logRead up, fun on => ⟨_, runs_mctpColdReset up on, rfl, rfl, rfl, rfl⟩,
    fun image data comp noAct noInh noWarn fits => ⟨_, runs_updateComponent up data comp noAct noInh noWarn,
      s.transferred_image b image.val fits, fun k => s.transferred_image_other b image.val data, rfl, s.transferred_frame b image.val data⟩,
    fun image comp => runs_verifyComplete up comp,
    fun i rest idle updated begins => ?_, runs_getStatus up, fun ms v long => ⟨_, runs_sensorRefresh (Dev.coreUp_of_mctpUp up) long v,
      (s.tget_sensed s.meter v (state_sensor (by decide))).trans (s.sensorNow_power s.meter v),
      (s.tget_sensed s.meter v (state_sensor (by decide))).trans (s.sensorNow_emergency s.meter v),
      fun c => (s.tget_sensed s.meter v (cluster_sensor c)).trans (s.sensorNow_cluster s.meter v c), rfl⟩⟩
  have runs := runs_activateFirmware up idle updated
  unfold Dev.activate at runs
  rw [Dev.activationCode_modMgt, begins, if_neg (not_not.2 rfl)] at runs
  exact ⟨_, runs, rfl, rfl, rfl, rfl⟩

end Sys2Proof.Machine
end

section
/-!
PROOFS. The security core's commands (R466, R467) and the test access port (R472).
-/
namespace Sys2Proof.Machine

/-! ### What an accepted command does (R467) -/

namespace Dev

/-- An accepted command changes the security core's state and begins flash writes. -/
theorem secDo_frame (s : Dev) (c : List Byte) : ∃ x f, s.secDo c = { s with sec := x, fw := f } := by
  unfold secDo
  dsimp only
  split <;> exact ⟨_, _, rfl⟩

section
variable (s : Dev) {c : List Byte}

theorem secDo_presentOperator (type : u16 c 0 = 0x301) : (s.secDo c).sec = { s.sec with opKey := some (slice c 48 1312) } := by
  unfold secDo
  rw [type]
  rfl

theorem secDo_fuseOperator (type : u16 c 0 = 0x302) : (s.secDo c).sec = { s.sec with
    opKey := some (slice c 48 1312), opFuses := s.sec.opFuses ++ [(keyDigest (slice c 48 1312), true)] } := by
  unfold secDo
  rw [type]
  rfl

theorem secDo_enrollStall (type : u16 c 0 = 0x303) : (s.secDo c).sec = { s.sec with
    stallKeys := s.sec.stallKeys.filter (fun k => keyIdOf k != keyIdOf (slice c 48 1312)) ++ [slice c 48 1312] } := by
  unfold secDo
  rw [type]
  rfl

theorem secDo_removeStall (type : u16 c 0 = 0x304) : (s.secDo c).sec = { s.sec with
    stallKeys := s.sec.stallKeys.filter fun k => (keyIdOf k).toNat != u64 c 8 } := by
  unfold secDo
  rw [type]
  rfl

theorem secDo_raiseFloor (type : u16 c 0 = 0x305) : (s.secDo c).sec = { s.sec with
    floors := s.sec.floors ++ [(u8 c 8, imageVersion (s.fw.image (s.fw.activeKey (u8 c 8))), true)] } := by
  unfold secDo
  rw [type]
  rfl

theorem secDo_testUnlock (type : u16 c 0 = 0x306) : (s.secDo c).sec = { s.sec with
    opKey := none, stallKeys := [], identity := false, testOpen := true } := by
  unfold secDo
  rw [type]
  rfl

end

/-! ### Serving a command (R467) -/

/-- The command's code and effect are told: DONE, vector 9 and the log. -/
def secTold (s : Dev) (type code : Nat) : Dev :=
  ((s.modSec fun x => { x with state := 2, code := BitVec.ofNat 8 code, waiting := none }).msix 0 9).logEvent 0 0x0060 255 0 [type, code]

theorem secTold_frame (s : Dev) (type code : Nat) : ∃ hu ou, s.secTold type code =
    { s with sec := { s.sec with state := 2, code := BitVec.ofNat 8 code, waiting := none }, hub := hu, out := ou } := by
  unfold secTold
  rw [logEvent_frame, msix_frame]
  exact ⟨_, _, rfl⟩

theorem secServe_refused {s : Dev} {c : List Byte} (refused : s.secCode c ≠ 0) : s.secServe c = s.secTold (u16 c 0) (s.secCode c) := by
  unfold secServe
  dsimp only
  rw [if_neg refused]
  rfl

/-- An accepted command takes its effect, and a signed one is followed by a new challenge. -/
theorem secServe_accepted {s : Dev} {c : List Byte} (accepted : s.secCode c = 0) : ∃ n ch,
    s.secServe c = secTold { s.secDo c with freeCtr := n, sec := { (s.secDo c).sec with challenge := ch } } (u16 c 0) (s.secCode c) := by
  unfold secServe
  dsimp only
  rw [if_pos accepted]
  split
  · exact ⟨_, _, rfl⟩
  · exact ⟨_, _, rfl⟩

/-- Whatever its code, a served command ends, and leaves stalls, looms and tiers. -/
theorem secServe_ends (s : Dev) (c : List Byte) : (s.secServe c).sec.state = 2 ∧ (s.secServe c).sec.code = BitVec.ofNat 8 (s.secCode c) ∧
    (s.secServe c).mem = s.mem ∧ (s.secServe c).looms = s.looms ∧ (s.secServe c).stalls = s.stalls := by
  by_cases accepted : s.secCode c = 0
  · obtain ⟨_, _, serves⟩ := secServe_accepted accepted
    obtain ⟨_, _, told⟩ := secTold_frame _ (u16 c 0) (s.secCode c)
    obtain ⟨_, _, does⟩ := s.secDo_frame c
    rw [serves, told, does]
    exact ⟨rfl, rfl, rfl, rfl, rfl⟩
  · obtain ⟨_, _, told⟩ := s.secTold_frame (u16 c 0) (s.secCode c)
    rw [secServe_refused accepted, told]
    exact ⟨rfl, rfl, rfl, rfl, rfl⟩

theorem secServe_sec {s : Dev} {c : List Byte} (accepted : s.secCode c = 0) : ∃ ch,
    (s.secServe c).sec = { (s.secDo c).sec with challenge := ch, state := 2, code := BitVec.ofNat 8 (s.secCode c), waiting := none } := by
  obtain ⟨_, ch, serves⟩ := secServe_accepted accepted
  obtain ⟨_, _, told⟩ := secTold_frame _ (u16 c 0) (s.secCode c)
  rw [serves, told]
  exact ⟨ch, rfl⟩

end Dev

theorem secRow_serves {s : Dev} {c : List Byte} {t : Nat} (type : u16 c 0 = t) (free : s.sec.state ≠ 1) (up : s.coreUp 0 = true) :
    secRow t c s = .next (s.secServe c) := by
  unfold secRow Dev.secSubmit
  rw [if_pos type, if_neg free, if_pos up]

/-- With the security core running and no command in hand, a command of a row's type is served. -/
theorem runs_secServe {s : State} {c : List Byte} {i : Instr}
    (row : (i, u16 c 0) ∈ [(Instr.presentOperator c, 0x301), (.fuseOperator c, 0x302), (.enrollStall c, 0x303), (.removeStall c, 0x304),
      (.raiseFloor c, 0x305), (.testUnlock c, 0x306)]) (free : s.sec.state ≠ 1) (up : s.coreUp 0 = true) :
    Runs i s (s.toDev.secServe c) := by
  have serves (t : Nat) (type : u16 c 0 = t) : s.onDev (fun d => secRow t c d) = .next { s with toDev := s.toDev.secServe c } :=
    State.onDev_next s _ _ (secRow_serves type free up)
  simp only [List.mem_cons, List.not_mem_nil, or_false, Prod.mk.injEq] at row
  obtain ⟨rfl, type⟩ | ⟨rfl, type⟩ | ⟨rfl, type⟩ | ⟨rfl, type⟩ | ⟨rfl, type⟩ | ⟨rfl, type⟩ := row
  · exact serves 0x301 type
  · exact serves 0x302 type
  · exact serves 0x303 type
  · exact serves 0x304 type
  · exact serves 0x305 type
  · exact serves 0x306 type

/-! ### The test access port (R472) -/

theorem Dev.tapRuns_eq (s : Dev) (i : Tap) : s.tapRuns i =
    if i = .extest ∧ s.power.state ≠ .standby ∧ s.sec.testOpen = false then .bypass
    else if (∃ c, i = .other c) ∧ s.sec.testOpen = false then .bypass else i := by
  cases i with
  | bypass | idcode | sample => rw [if_neg nofun, if_neg nofun]; rfl
  | extest =>
    unfold tapRuns
    by_cases open_ : s.power.state = .standby ∨ s.sec.testOpen = true
    · rw [if_pos open_, if_neg (by simpa [or_iff_not_imp_left] using open_), if_neg nofun]
    · rw [if_neg open_, if_pos (by simpa using open_)]
  | other c =>
    show (if s.sec.testOpen = true then Tap.other c else .bypass) = _
    rw [if_neg (show ¬(Tap.other c = .extest ∧ _) from nofun)]
    cases s.sec.testOpen
    · rw [if_neg Bool.false_ne_true, if_pos ⟨⟨c, rfl⟩, rfl⟩]
    · rw [if_pos rfl, if_neg nofun]

theorem runs_tapInstruction {s : State} (on : s.power.state ≠ .off) (i : Tap) : Runs (.tapInstruction i) s
    (s.emit (.bytes 0x1149 (natLe 2 (tapCode (s.tapRuns i)) ++ if s.tapRuns i = .idcode then natLe 4 idcode else []))) := by
  show execTapInstruction i s = _
  exact State.onDev_next s _ _ (if_neg on)

end Sys2Proof.Machine
end

section
/-!
PROOFS. The SPDM responder (R469 to R471).
-/
namespace Sys2Proof.Machine

/-! ### A response goes out, and into the transcript -/

/-- The responder's answer on a binding. -/
def Dev.answered (t : Dev) (b : Binding) (req resp : List Byte) : Dev :=
  (t.modSec fun x => { x with transcript := x.transcript ++ (req ++ resp) }).emit (.bytes (0x500 + bindNum b) resp)

/-- The nonce of a signed response. -/
def Dev.nonce (s : Dev) : List Byte := (List.range 4).flatMap fun i => natLe 8 (Config.freeWord s.freeCtr i).toNat

/-- The last large response is kept, and a free value is drawn. -/
def Dev.keepsLarge (s : Dev) (r : List Byte) : Dev := ({ s with freeCtr := s.freeCtr + 1 } : Dev).modSec fun x => { x with large := r }

theorem Dev.signedResponse_eq {s : Dev} (ready : 3 ≤ s.sec.spdm) (key : s.sec.identity = true) (req body : List Byte) :
    s.signedResponse req body = some (s.signed req (body ++ s.nonce), s.keepsLarge (s.signed req (body ++ s.nonce))) := by
  have able : (s.sec.ready && s.sec.identity) = true := by
    rw [key, Bool.and_true]
    exact decide_eq_true ready
  unfold signedResponse
  rw [if_pos able]
  rfl

section
variable {b : Binding} {s : State} (mctp : s.mctpUp b = true) (core : s.coreUp 0 = true)
include mctp core

theorem spdm_answered {req resp : List Byte} {t : Dev} {k : Dev → Option (List Byte × Dev)} (answers : k s.toDev = some (resp, t)) :
    s.onDev (fun d => d.spdm b req k) = .next { s with toDev := t.answered b req resp } := by
  have taken : ¬(!(s.mctpUp b && s.coreUp 0)) = true := by
    rw [mctp, core]
    exact Bool.false_ne_true
  refine State.onDev_next s _ _ ?_
  unfold Dev.spdm
  rw [if_neg taken, answers]
  rfl

theorem runs_getVersion (req : List Byte) : Runs (.getVersion b req) s
    ((s.modSec fun x => { x with spdm := 1, transcript := [] }).answered b req [0x13]) := by
  show execGetVersion b req s = _
  exact spdm_answered mctp core rfl

theorem runs_getCapabilities (begun : 1 ≤ s.sec.spdm) (req : List Byte) : Runs (.getCapabilities b req) s
    ((s.modSec fun x => { x with spdm := max x.spdm 2 }).answered b req [1, 1, 1, 1]) := by
  show execGetCapabilities b req s = _
  exact spdm_answered mctp core (if_neg (Nat.ne_of_gt begun))

theorem runs_negotiateAlgorithms (able : 2 ≤ s.sec.spdm) (req : List Byte) : Runs (.negotiateAlgorithms b req) s
    ((s.modSec fun x => { x with spdm := 3 }).answered b req [1, 1, 0, 1, 0]) := by
  show execNegotiateAlgorithms b req s = _
  exact spdm_answered mctp core (if_neg (Nat.not_lt.2 able))

section
variable (ready : 3 ≤ s.sec.spdm)
include ready

theorem runs_getDigests (req : List Byte) : Runs (.getDigests b req) s
    (s.toDev.answered b req (natLe 1 1 ++ digestBytes (Config.sha3_256 Config.certChain))) := by
  show execGetDigests b req s = _
  exact spdm_answered mctp core (if_pos (decide_eq_true ready))

theorem runs_getCertificate (req : List Byte) (off len : Nat) : Runs (.getCertificate b req 0 off len) s
    (s.toDev.answered b req (slice Config.certChain off len)) := by
  show execGetCertificate b req 0 off len s = _
  exact spdm_answered mctp core (if_pos ⟨decide_eq_true ready, rfl⟩)

theorem runs_chunkGet (off len : Nat) : Runs (.chunkGet b off len) s (s.toDev.answered b [] (slice s.sec.large off len)) := by
  show execChunkGet b off len s = _
  exact spdm_answered mctp core (if_pos (decide_eq_true ready))

variable (key : s.sec.identity = true)
include key

theorem runs_challenge (req : List Byte) : ∃ body, Runs (.challenge b req 0) s
    ((s.keepsLarge (s.signed req body)).answered b req (s.signed req body)) := by
  exact ⟨_, show execChallenge b req 0 s = _ from spdm_answered mctp core ((if_pos rfl).trans (Dev.signedResponse_eq ready key req _))⟩

theorem runs_getMeasurements (req : List Byte) (idx : List (Fin 112)) :
    let body := idx.flatMap (fun i => natLe 1 i.val ++ digestBytes (s.measure s.meter.measured i.val)) ++ s.nonce
    Runs (.getMeasurements b req idx) s ((s.keepsLarge (s.signed req body)).answered b req (s.signed req body)) := by
  intro body
  show execGetMeasurements b req idx s = _
  exact spdm_answered mctp core (Dev.signedResponse_eq ready key req _)

end
end

/-! ### The measurement blocks (R471) -/

theorem length_measurements (idx : List (Fin 112)) (digest : Fin 112 → BitVec 256) :
    (idx.flatMap fun i => natLe 1 i.val ++ digestBytes (digest i)).length = 33 * idx.length := by
  induction idx with
  | nil => rfl
  | cons i idx ih =>
    rw [List.flatMap_cons, List.length_append, ih, List.length_append, length_natLe, digestBytes, length_natLe, List.length_cons]
    omega

theorem slice_measurements (idx : List (Fin 112)) (digest : Fin 112 → BitVec 256) (nonce : List Byte) :
    slice (idx.flatMap (fun i => natLe 1 i.val ++ digestBytes (digest i)) ++ nonce) 0 (33 * idx.length) =
      idx.flatMap fun i => natLe 1 i.val ++ digestBytes (digest i) := by
  unfold slice
  rw [List.drop_zero, ← length_measurements idx digest, List.take_left]

/-- Settles O53. -/
theorem securityCoreCommands : Obligations.SecurityCoreCommands := by
  intro s
  refine ⟨fun c i row free up => ?_, fun b req mctp core => ?_, fun i on => ?_⟩
  · obtain ⟨state, code, mem, looms, stalls⟩ := s.secServe_ends c
    refine ⟨_, runs_secServe row free up, state, code, mem, looms, stalls, fun refused => ?_, fun accepted => ?_⟩
    · obtain ⟨_, _, told⟩ := s.secTold_frame (u16 c 0) (s.secCode c)
      rw [Dev.secServe_refused refused, told]
      exact ⟨rfl, rfl⟩
    · obtain ⟨_, sec⟩ := Dev.secServe_sec accepted
      rw [sec]
      refine ⟨fun type => ?_, fun type => ?_, fun type => ?_, fun type => ?_, fun type => ?_, fun type => ?_⟩
      · rw [s.secDo_presentOperator type]
        exact ⟨rfl, rfl, rfl⟩
      · rw [s.secDo_fuseOperator type]
        exact ⟨rfl, rfl⟩
      · rw [s.secDo_enrollStall type]
        exact ⟨rfl, rfl⟩
      · rw [s.secDo_removeStall type]
        exact ⟨rfl, rfl⟩
      · rw [s.secDo_raiseFloor type]
      · rw [s.secDo_testUnlock type]
        exact ⟨rfl, rfl, rfl, rfl⟩
  · refine ⟨⟨_, runs_getVersion mctp core req, ⟨rfl, rfl, rfl, rfl, rfl⟩, rfl, rfl⟩,
      fun begun => ⟨_, runs_getCapabilities mctp core begun req, ⟨rfl, rfl, rfl, rfl, rfl⟩, Nat.le_max_right _ 2⟩,
      fun able => ⟨_, runs_negotiateAlgorithms mctp core able req, ⟨rfl, rfl, rfl, rfl, rfl⟩, rfl⟩,
      fun ready => ⟨⟨_, runs_getDigests mctp core ready req, rfl, rfl, rfl, rfl, rfl⟩,
        fun off len => ⟨_, runs_getCertificate mctp core ready req off len, rfl, rfl, rfl, rfl, rfl⟩,
        fun off len => ⟨_, runs_chunkGet mctp core ready off len, rfl, rfl, rfl, rfl, rfl⟩, fun key => ⟨?_, fun idx => ?_⟩⟩⟩
    · obtain ⟨body, runs⟩ := runs_challenge mctp core ready key req
      exact ⟨_, body, runs, ⟨rfl, rfl, rfl, rfl, rfl⟩, rfl⟩
    · exact ⟨_, _, runs_getMeasurements mctp core ready key req idx, ⟨rfl, rfl, rfl, rfl, rfl⟩, rfl, slice_measurements idx _ _⟩
  · have runs := runs_tapInstruction on i
    rw [Dev.tapRuns_eq] at runs
    exact runs

end Sys2Proof.Machine
end
